-- ==== Sys2Proof/Word.lean ====
section
/-! DEFINITION. The word types of the ND-3400 and the index types of its blocks (00_scope.md, Table 0-3). -/

namespace Sys2Proof

/-- A byte of exchange memory or of a frame. -/
abbrev Byte := BitVec 8

/-- A 16-bit field: a link, a change count, a mask of 16 lines. -/
abbrev Half := BitVec 16

/-- A 32-bit field: a result value, voyage clock seconds, a claim set. -/
abbrev Word := BitVec 32

/-- One of the four lanes. -/
abbrev Lane := Fin 4

/-- One of the 12 fire zones. -/
abbrev ZoneId := Fin 12

/-- One of the 8 movers. -/
abbrev MoverId := Fin 8

/-- One of the 24 doors. -/
abbrev DoorId := Fin 24

/-- One of the 16 call lines. -/
abbrev LineId := Fin 16

/-- One of the 44 field stations. -/
abbrev StationId := Fin 44

/-- One of the 52 board slots. -/
abbrev SlotId := Fin 52

/-- One of the 32 claim entries (R153). -/
abbrev EntryId := Fin 32

end Sys2Proof
end

