-- ==== Sys2Proof/Syntax.lean ====
section
/-! DEFINITION. The commands of the ND-3400: one constructor per row of spec/opcode_table.json, with the row's operands. -/

namespace Sys2Proof

/-- The part of an order record that every order kind has (R124 to R126, Table 6-3): whether the host hands it over as
STANDING or as ARMED, the order flags byte (bit 0 WAIT, bit 1 NOTIFY), the two links and the expect precondition. -/
structure OrderHead where
  standing   : Bool
  flags      : Byte
  next       : Half
  alternate  : Half
  expectZone : Byte
  expectMask : Byte
deriving DecidableEq, Repr

/-- Why a received announcement frame is discarded (R100). -/
inductive DiscardKind where
  | badSum
  | unknownCode
  | cutShort
deriving DecidableEq, Repr

/-- The commands and events of the part, one constructor per row of spec/opcode_table.json, in the table's order.
An order row names the lane whose link to follow holds the record, and the record's content (log entry 4). -/
inductive Instr where
  | powerOnReset
  | softReset
  | resetEnd
  | lanesEnable (on : Bool)
  | intEn (on : Bool)
  | bridgeLanes (mask : BitVec 4)
  | start (lane : Lane)
  | wake (lane : Lane)
  | cancel (lane : Lane)
  | rescan
  | ignoredRegisterWrite (address : BitVec 3) (data : Half) (bits : Nat)
  | deckTick
  | fieldCycleStart
  | checkMark
  | centisecondMark
  | secondEnd
  | periodEnd (line : LineId)
  | confirmTimerExpiry (zone : ZoneId)
  | brakeTimerExpiry (mover : MoverId)
  | settleTimerExpiry (mover : MoverId)
  | leadExpiry (door : DoorId)
  | motionTimerExpiry (door : DoorId)
  | retryDelayExpiry (door : DoorId)
  | chimeEnd
  | chimeOnlyRepeatEnd
  | replyTimerExpiry
  | probeTimerExpiry
  | claimWaitExpiry (lane : Lane)
  | holdExpiry (lane : Lane)
  | poll
  | reply (bytes : List Byte)
  | replyWindowClose
  | started (message : Byte)
  | done (message : Byte)
  | cutDone
  | ready
  | err (code : Byte)
  | frameDiscard (kind : DiscardKind)
  | boardWrite (slot : SlotId)
  | seenCountRead
  | hold (lane : Lane) (head : OrderHead) (duration : Half) (condition index state : Byte)
  | detour (lane : Lane) (head : OrderHead) (target : Half)
  | ret (lane : Lane) (head : OrderHead)
  | mark (lane : Lane) (head : OrderHead) (code : Half)
  | haltLane (lane : Lane) (head : OrderHead)
  | groupOpen (lane : Lane) (head : OrderHead) (mode : Byte) (claimSet : Word)
  | groupClose (lane : Lane) (head : OrderHead)
  | abortGroup (lane : Lane) (head : OrderHead) (code : Byte)
  | setLoading (lane : Lane) (head : OrderHead) (zone : Byte)
  | setSecure (lane : Lane) (head : OrderHead) (zone : Byte)
  | shutZone (lane : Lane) (head : OrderHead) (zone : Byte)
  | reopenZone (lane : Lane) (head : OrderHead) (zone : Byte)
  | disableDetection (lane : Lane) (head : OrderHead) (zone : Byte)
  | enableDetection (lane : Lane) (head : OrderHead) (zone : Byte)
  | resetAlarm (lane : Lane) (head : OrderHead) (zone : Byte)
  | move (lane : Lane) (head : OrderHead) (mover mode share : Byte) (value : Word)
  | stopMover (lane : Lane) (head : OrderHead) (mover : Byte)
  | floatRamp (lane : Lane) (head : OrderHead) (mover : Byte)
  | clearMoverFault (lane : Lane) (head : OrderHead) (mover : Byte)
  | closeDoor (lane : Lane) (head : OrderHead) (door : Byte)
  | openDoor (lane : Lane) (head : OrderHead) (door : Byte)
  | forceClose (lane : Lane) (head : OrderHead) (door : Byte)
  | clearDoorFault (lane : Lane) (head : OrderHead) (door : Byte)
  | call (lane : Lane) (head : OrderHead) (priority message : Byte) (lines : Half) (repeats policy chime : Byte)
  | cancelCall (lane : Lane) (head : OrderHead) (callId : Half)
  | setClock (lane : Lane) (head : OrderHead) (seconds : Word)
  | adoptPlan (lane : Lane) (head : OrderHead) (link : Half)
  | linkTake (lane : Lane)
deriving DecidableEq, Repr

end Sys2Proof
end

