-- ==== Sys2Proof/Config.lean ====
section
/-! DEFINITION. The fixed figures of the ND-3400 (00_scope.md, Table 0-3) and the model's free values. -/

namespace Sys2Proof.Config

/-- The size of exchange memory in bytes (R121). -/
def memoryBytes : Nat := 262144

/-- The first slot that holds records and plan areas (R123). -/
def firstRecordSlot : Nat := 48

/-- The last slot of exchange memory (R123). -/
def lastSlot : Nat := 4095

/-- The last first slot of a plan area of 44 slots (R123, R178). -/
def lastPlanSlot : Nat := 4052

/-- The pool places of the call queue (R83). -/
def poolPlaces : Nat := 16

/-- Records one lane may take in a field cycle (R138). -/
def recordBudget : Nat := 8

/-- The deepest nest of groups of one lane (R160). -/
def maxDepth : Nat := 4

/-- Reply and probe timers of the announcement link in centiseconds (R101, R103, R104). -/
def statusTimeout : Nat := 500
def startedTimeout : Nat := 100
def cutTimeout : Nat := 50
def probePeriod : Nat := 500

/-- DESIGN CHOICE (log entry 9): how many micro-operations one run of the agenda performs. Micro-operations left over
stay on the agenda and the next event performs them first. -/
def agendaBound : Nat := 65536

/-- A FREE VALUE (log entry 10): the n-th value that the spec leaves unstated. It has no body, so nothing can be
proved of it. -/
opaque openValue : Nat → Word

/-- A FREE VALUE (log entry 24): the pattern, counted from 0, of WARN demands on the line of a zone that the plan does not
enable and whose warn pattern byte names no pattern. -/
opaque openPattern : Byte → Fin 8

end Sys2Proof.Config
end

