-- ==== Sys2Proof/Machine/State.lean ====
section
/-! DEFINITION. The state of the ND-3400 as plain data, block by block, and its value after power-on reset. -/

namespace Sys2Proof.Machine

/-! ### Time Base (R107 to R109) -/

/-- A timestamp: voyage clock seconds and centiseconds (R109). -/
structure Stamp where
  seconds : Word
  centis  : Nat
deriving DecidableEq, Repr

/-- The Time Base. `restart` is the restart mark of R111; the three `...Due` flags say that the tick which raises the
event has been taken and the event itself has not (log entry 6). -/
structure TimeBase where
  divider    : Nat
  cycleCount : Nat
  interval   : Nat
  tickCount  : Nat
  clock      : Stamp
  restart    : Bool
  cycleDue   : Bool
  checkDue   : Bool
  markDue    : Bool
deriving DecidableEq, Repr

/-! ### Zone Control (R1, Table 1-1) -/

inductive ZoneState where
  | secure | loading | shutting | shut
deriving DecidableEq, Repr

inductive AlarmLevel where
  | none | pre | fire | fault
deriving DecidableEq, Repr

/-- A station's link condition (Table 9-1). -/
inductive LinkCond where
  | unknown | online | missing | lost
deriving DecidableEq, Repr

inductive LoopStatus where
  | normal | one | two | loopFault
deriving DecidableEq, Repr

/-- A zone record, Table 1-1. A running duration is `some` of the marks it still has to count. -/
structure Zone where
  state             : ZoneState
  level             : AlarmLevel
  detectionDisabled : Bool
  confirmTimer      : Option Nat
  fireLatched       : Bool
  notClosed         : Nat
  link              : LinkCond
  loop              : Option LoopStatus
  callPoint         : Bool
  callLost          : Bool
  fireTime          : Word
deriving DecidableEq, Repr

/-! ### Mover Control (R24, Table 2-1) -/

inductive MoverState where
  | offline | idle | releasing | moving | stopping | settling | floating | localMode | faulted
deriving DecidableEq, Repr

inductive MoverCause where
  | following | skew | brake | link | station
deriving DecidableEq, Repr

inductive Phase where
  | accel | cruise | decel
deriving DecidableEq, Repr

/-- A retarget taken but not yet applied (R33). -/
structure PendingTarget where
  target : Nat
  share  : Nat
deriving DecidableEq, Repr

/-- What the two ends of a panel pair share (R46), and a single mover holds alone. The waiting record is named by its
lane, since a lane waits on its current record only. -/
structure Motion where
  state       : MoverState
  cause       : Option MoverCause
  phase       : Phase
  reversal    : Bool
  setpoint    : Option Int
  speed       : Nat
  up          : Bool
  target      : Option Nat
  pending     : Option PendingTarget
  share       : Nat
  stopLatch   : Bool
  floatAlarm  : Bool
  brakeJudged : Bool
  brakeTimer  : Option Nat
  settleTimer : Option Nat
  waiting     : Option Lane
deriving DecidableEq, Repr

/-- The fields of a mover reply (Table 9-3). -/
structure MoverReply where
  brakeReleased : Bool
  toeBroken     : Bool
  localMode     : Bool
  stationFault  : Bool
  position      : Nat
deriving DecidableEq, Repr

/-- The outcome of one end's exchange: the reply or a miss, and whether its poll carried the brake released (R32). -/
structure StepInput where
  reply    : Option MoverReply
  released : Bool
deriving DecidableEq, Repr

/-- A mover record, Table 2-1. -/
structure Mover where
  motion        : Motion
  position      : Nat
  sent          : Nat
  valve         : Int
  followRun     : Nat
  settleRun     : Nat
  endJudged     : Bool
  brakeReleased : Bool
  toeBroken     : Bool
  localReported : Bool
  faultReported : Bool
  step          : Option StepInput
deriving DecidableEq, Repr

/-! ### Door Control (R56, Table 3-1) -/

inductive DoorState where
  | offline | opened | halted | warning | waitClear | closing | closed | reversing | retryWait | opening | blocked
  | localMode | faulted
deriving DecidableEq, Repr

inductive DoorCause where
  | closeTime | openTime | limits | edge | link | motor
deriving DecidableEq, Repr

/-- The fields of a door reply (Table 9-3). -/
structure DoorReply where
  openLimit   : Bool
  closedLimit : Bool
  beamBroken  : Bool
  edge        : Bool
  localMode   : Bool
  motorFault  : Bool
deriving DecidableEq, Repr

/-- A door record, Table 3-1. -/
structure Door where
  state       : DoorState
  laneOrigin  : Bool
  zoneOrigin  : Bool
  forced      : Bool
  retries     : Nat
  lead        : Nat
  leadCounter : Nat
  motionTimer : Option Nat
  retryTimer  : Option Nat
  cause       : Option DoorCause
  link        : LinkCond
  last        : DoorReply
  waiting     : Option Lane
deriving DecidableEq, Repr

/-! ### Call Control and Announcement Link (R83, R101) -/

inductive Priority where
  | routine | urgent | emergency
deriving DecidableEq, Repr

inductive CallOrigin where
  | lane (n : Lane)
  | zone (k : ZoneId)
deriving DecidableEq, Repr

inductive CallState where
  | queued | chime | playing | cutting | suspended
deriving DecidableEq, Repr

inductive CutReason where
  | preempt | cancel
deriving DecidableEq, Repr

/-- A call entry, Table 4-1. `continues` is the resume policy CONTINUE; `chimeLeft`, `chimeOnly` and `playSent` are the
chime count of R93, the mark of a chime-only repeat (R105) and the outstanding PLAY of R94. -/
structure CallEntry where
  id           : Nat
  origin       : CallOrigin
  priority     : Priority
  message      : Byte
  lines        : Half
  repeats      : Nat
  repeatsDone  : Nat
  continues    : Bool
  chime        : Nat
  state        : CallState
  interrupted  : Bool
  chimePending : Bool
  cutReason    : Option CutReason
  degraded     : Bool
  waiting      : List Lane
  chimeLeft    : Option Nat
  chimeOnly    : Bool
  playSent     : Bool
deriving DecidableEq, Repr

/-- The call store, Table 4-2. The pool is the three queue lists together. -/
structure CallStore where
  routine          : List CallEntry
  urgent           : List CallEntry
  emergency        : List CallEntry
  active           : Option CallEntry
  suspendedRoutine : Option CallEntry
  suspendedUrgent  : Option CallEntry
  nextId           : Nat
  lastCall         : Vector (Option Nat) 4
  lastEnded        : Vector Bool 4
deriving DecidableEq, Repr

inductive PlayerState where
  | unknown | ready | playing | cutting | fault
deriving DecidableEq, Repr

/-- The timeout kinds of R103, in the order of Table 4-7. -/
inductive TimeoutKind where
  | started | done | cutDone | status
deriving DecidableEq, Repr

/-- The last fault cause of the player slot (Table 4-7). -/
inductive PlayerCause where
  | none
  | timeout (kind : TimeoutKind)
  | err (code : Byte)
deriving DecidableEq, Repr

/-- The Announcement Link (R101). `sentFrame` is the last frame on ATX. -/
structure Player where
  state        : PlayerState
  message      : Byte
  startedSeen  : Bool
  length       : Nat
  replyTimer   : Option (TimeoutKind × Nat)
  probeTimer   : Option Nat
  cause        : PlayerCause
  faultCount   : Half
  discardCount : Half
  sentFrame    : List Byte
deriving DecidableEq, Repr

/-! ### Cadence Unit (R113, R114) -/

inductive GeneratorState where
  | stopped | running | stopping
deriving DecidableEq, Repr

/-- The shown pattern with the P and D it had when the generator took it (R113). -/
structure ShownPattern where
  number : Nat
  period : Nat
  lead   : Nat
deriving DecidableEq, Repr

/-- A line generator with its demand set (R113, R114). `endDue`: a tick has found the counter at P - 1 and the period
end is not yet taken (log entry 6). -/
structure Generator where
  state   : GeneratorState
  counter : Nat
  shown   : Option ShownPattern
  fire    : Bool
  warn    : Bool
  chime   : Option Nat
  endDue  : Bool
deriving DecidableEq, Repr

/-! ### Exchange Port (R128, R130 to R134) -/

/-- The content of a board slot (Table 6-6), less the counts. -/
structure SlotContent where
  state  : Nat
  cause  : Nat
  flags  : Nat
  first  : Word
  second : Word
  time   : Stamp
deriving DecidableEq, Repr

/-- What the Exchange Port holds for a board slot (R130, R131): the shadow change count, the last-read seen count and
notify enable, the newest content handed over and whether its burst waits. -/
structure BoardSlot where
  shadow  : Half
  seen    : Half
  notify  : Bool
  content : SlotContent
  waiting : Bool
deriving DecidableEq, Repr

/-- The seen-count read of R131. -/
inductive ReadState where
  | idle | underWay | further
deriving DecidableEq, Repr

structure ExchangePort where
  slots        : Vector BoardSlot 52
  read         : ReadState
  pendingCount : Nat
  lowest       : Option SlotId
  nIntLow      : Bool
deriving DecidableEq, Repr

/-! ### Lane Engine (R135, Table 7-1) -/

inductive LaneState where
  | idle | resting | working | waiting | aborting | stopped
deriving DecidableEq, Repr

inductive WaitKind where
  | action | hold | claim | groupClose
deriving DecidableEq, Repr

/-- The lane causes in the order of Table 7-3. -/
inductive LaneCause where
  | linkInvalid | notArmed | failedOrder | groupAborted | haltOrder | cancelled | lanesDisabled | depth | startIgnored
deriving DecidableEq, Repr

inductive Anchor where
  | absent
  | start
  | record (link : Half)
deriving DecidableEq, Repr

/-- A record a lane holds: its link, whether it was taken as STANDING, the 64 bytes kept when it was taken (R126), and
whether its order has clamped a value (R31). -/
structure HeldRecord where
  link     : Half
  standing : Bool
  bytes    : List Byte
  clamped  : Bool
deriving DecidableEq, Repr

/-- One level of a nest (R159): its GROUP OPEN record, the claim set it was opened with, that set with what has been
merged into it (R162), the mode RETURN, and the opened-in-detour flag. -/
structure Level where
  record   : HeldRecord
  opened   : Word
  claimSet : Word
  returns  : Bool
  inDetour : Bool
deriving DecidableEq, Repr

/-- The abort causes of Table 8-2. -/
inductive AbortCause where
  | zone | fault | conflict | scope | depth | order | explicit | cancel
deriving DecidableEq, Repr

/-- The abort record of R164. `returns` is the mode of the abort, RETURN or HALT. -/
structure AbortRecord where
  cause            : AbortCause
  code             : Nat
  depth            : Nat
  link             : Half
  returnIncomplete : Bool
  furtherCause     : Bool
  stopCause        : Option LaneCause
  badLink          : Option Half
  returns          : Bool
deriving DecidableEq, Repr

/-- A lane context, Table 7-1. The nest lists the innermost level first. `badLink` is the link that could not be taken
(R124, R143); `holdTimer` and `holdMarks` are the duration of a HOLD and the marks it has counted (R144). -/
structure LaneContext where
  state        : LaneState
  current      : Option HeldRecord
  link         : Option Half
  anchor       : Anchor
  returnAnchor : Option Half
  nest         : List Level
  bridge       : Bool
  waitKind     : Option WaitKind
  budget       : Nat
  retired      : Half
  lastMark     : Half
  cause        : Option LaneCause
  badLink      : Option Half
  holdTimer    : Option Nat
  holdMarks    : Nat
  abort        : Option AbortRecord
deriving DecidableEq, Repr

/-! ### Claim Table (R153, R155) -/

inductive ClaimKind where
  | implicit | group
deriving DecidableEq, Repr

/-- A saved state: a mover's position in counts, or a door's OPEN or CLOSED (R161). -/
inductive Saved where
  | position (counts : Nat)
  | opened
  | closed
deriving DecidableEq, Repr

inductive ReturnStatus where
  | none | pending | underWay | met | zoneLimited | incomplete
deriving DecidableEq, Repr

structure Claim where
  holder : Option Lane
  kind   : Option ClaimKind
  level  : Nat
  saved  : Option Saved
  status : ReturnStatus
deriving DecidableEq, Repr

/-- A waiter (R155). The need is a claim set over the entries. -/
structure Waiter where
  lane    : Lane
  need    : Word
  isGroup : Bool
  start   : Word
  timer   : Nat
deriving DecidableEq, Repr

/-! ### Field Link Controller (R169 to R172) -/

/-- A station record, Table 9-1. The reply fields are the status byte and, for a mover, the position. -/
structure Station where
  state    : LinkCond
  misses   : Nat
  polled   : Bool
  status   : Byte
  position : Nat
deriving DecidableEq, Repr

/-- The exchange under way (R172): its station, whether a mover poll carried the brake released, and whether the
outcome is to be discarded because an adoption has disabled the station (R171). -/
structure Exchange where
  station  : StationId
  released : Bool
  discard  : Bool
deriving DecidableEq, Repr

structure FieldLink where
  stations    : Vector Station 44
  cycleNumber : Nat
  due         : List StationId
  exchange    : Option Exchange
  lastLost    : Option StationId
  lossCount   : Half
  sentFrame   : List Byte
deriving DecidableEq, Repr

/-! ### Deck Plan (R178, Tables 10-2 to 10-6) -/

structure PlanHeader where
  claimWait       : Nat
  muster          : Half
  firePattern     : Nat
  fireChime       : Nat
  fireRepeats     : Nat
  chimeRoutine    : Nat
  chimeUrgent     : Nat
  chimeEmergency  : Nat
deriving DecidableEq, Repr

structure PlanZone where
  enabled     : Bool
  autoShut    : Bool
  confirm     : Nat
  fireMessage : Byte
  shutMessage : Byte
  warnPattern : Nat
deriving DecidableEq, Repr

inductive MoverKind where
  | ramp | visor | panelEnd
deriving DecidableEq, Repr

/-- A mover entry of the plan; `zoned` says that its zone byte names a zone, as that of an enabled entry does (R179). -/
structure PlanMover where
  enabled      : Bool
  kind         : MoverKind
  zoned        : Bool
  zone         : ZoneId
  partner      : Option MoverId
  lower        : Nat
  upper        : Nat
  vmax         : Nat
  accel        : Nat
  vc           : Nat
  vapp         : Nat
  dapp         : Nat
  kp           : Nat
  kf           : Nat
  efollow      : Nat
  etol         : Nat
  prerequisite : Option MoverId
  prePreset    : Nat
  preTolerance : Nat
  settleLimit  : Nat
  brakeTime    : Nat
  presets      : Vector Nat 8
  shold        : Nat
  sfault       : Nat
  floatWindow  : Nat
  floatMin     : Nat
  floatMax     : Nat
deriving DecidableEq, Repr

structure PlanDoor where
  enabled     : Bool
  zoneA       : ZoneId
  zoneB       : Option ZoneId
  retries     : Nat
  lead        : Nat
  fireLead    : Nat
  motionLimit : Nat
  retryDelay  : Nat
deriving DecidableEq, Repr

structure PlanPattern where
  period : Nat
  lead   : Nat
  count  : Nat
deriving DecidableEq, Repr

/-- The adopted plan copy. `messages` lists the maximum lengths of messages 1, 2, ... in order. -/
structure Plan where
  header   : PlanHeader
  zones    : Vector PlanZone 12
  movers   : Vector PlanMover 8
  doors    : Vector PlanDoor 24
  patterns : Vector PlanPattern 8
  messages : List Nat
deriving DecidableEq, Repr

/-! ### Control Port (R184 to R187) -/

inductive PartState where
  | starting | layoutWait | planWait | ready
deriving DecidableEq, Repr

/-- `inReset`: a soft reset is in progress, or nRESET is low (R184, R185). `nResetLow` is the level of the nRESET pin. -/
structure ControlPort where
  lanesEnable : Bool
  intEn       : Bool
  bridgeLanes : BitVec 4
  partState   : PartState
  inReset     : Bool
  nResetLow   : Bool
deriving DecidableEq, Repr

/-! ### Results and micro-operations -/

/-- The result codes of Table 6-5, in its order. -/
inductive ResultCode where
  | done | started | merged | condition
  | badRecord | noPlan | authority | mismatch | zoneState | busy | notClaimed | claimTimeout
  | faulted | localMode | prerequisite | dependent | outOfLimits | queueFull | displaced | superseded | cancelled
  | stopped | failed | blocked | expired | signalled | aborted | alarmPresent | fireLatched | noMessage | planInvalid
  | nestedDetour
deriving DecidableEq, Repr

/-- The content of a result block (Table 6-3). `none` is a value that no chapter gives: a free value (log entry 10). -/
structure Result where
  code   : ResultCode
  flags  : Byte
  detail : Option Half
  first  : Option Word
  second : Option Word
deriving DecidableEq, Repr

/-- The micro-operations of one event: what one block asks of or reports to another inside the event. They stand on
the agenda, and a micro-operation's own requests come before the rest of it (log entry 8). -/
inductive Act where
  | orderEnds (lane : Lane) (result : Result)
  | passOrder (lane : Lane)
  | blockOrder (lane : Lane)
  | laneCancel (lane : Lane) (cause : LaneCause)
  | nestAbort (lane : Lane) (cause : AbortCause) (code : Nat) (stop : Option LaneCause) (badLink : Option Half)
  | abortTest (lane : Lane)
  | closeTest (lane : Lane)
  | arbitrate
  | steadyReport (entry : EntryId)
  | faultReport (entry : EntryId)
  | endShutWaiters (zone : ZoneId) (code : ResultCode)
  | zoneRetire (lane : Lane)
  | moverStop (mover : MoverId) (byZone : Bool)
  | moverReturn (mover : MoverId) (position : Nat)
  | moversClear (zone : ZoneId)
  | doorZoneRequest (door : DoorId)
  | doorHalt (door : DoorId)
  | doorReturn (door : DoorId) (bridge : Bool)
  | doorClosed (door : DoorId)
  | doorLeft (door : DoorId)
  | shutTest (zone : ZoneId)
  | zoneAborts (zone : ZoneId)
  | zoneCall (zone : ZoneId) (priority : Priority) (message : Byte) (lines : Half) (repeats chime : Nat)
  | selectCall
deriving DecidableEq, Repr

/-- Everything the part itself holds. `agenda`, `writes` and `forced` are empty between events (log entries 8, 11);
`openValues` and `openCount` are the source of the free values (log entry 10). -/
structure Part where
  time       : TimeBase
  zones      : Vector Zone 12
  movers     : Vector Mover 8
  doors      : Vector Door 24
  calls      : CallStore
  player     : Player
  lines      : Vector Generator 16
  board      : ExchangePort
  lanes      : Vector LaneContext 4
  claims     : Vector Claim 32
  waiters    : List Waiter
  claimTicks : Word
  field      : FieldLink
  plan       : Option Plan
  generation : Word
  port       : ControlPort
  agenda     : List Act
  writes     : List Host.Cell
  forced     : List SlotId
  openValues : List Word
  openCount  : Nat
deriving DecidableEq, Repr

/-- The machine: the commands that wait, exchange memory, and the part. -/
structure State where
  pending : List Instr
  mem     : List Host.Cell
  part    : Part
deriving DecidableEq, Repr

/-- Why the model stops with a fault. -/
inductive Fault where
  /-- Raised by `hostWriteWord` alone, when the host's bus access names an address that exchange memory does not have
  (R121, R122). No command of the table raises it. Safe. -/
  | outsideMemory (address : Nat)
deriving DecidableEq, Repr

/-- Why the model refuses a command. -/
inductive Refusal where
  /-- Raised by `exec` alone, for a command that has no meaning yet. Safe. -/
  | notModelled (mnemonic : String)
deriving DecidableEq, Repr

/-! ### Values after reset -/

/-- Table 1-1, column Default. -/
def Zone.reset : Zone :=
  { state := .secure, level := .none, detectionDisabled := false, confirmTimer := none, fireLatched := false,
    notClosed := 0, link := .unknown, loop := none, callPoint := false, callLost := false, fireTime := 0 }

/-- Table 2-1, column Default: the shared part. -/
def Motion.reset : Motion :=
  { state := .offline, cause := none, phase := .accel, reversal := false, setpoint := none, speed := 0, up := true,
    target := none, pending := none, share := 100, stopLatch := false, floatAlarm := false, brakeJudged := false,
    brakeTimer := none, settleTimer := none, waiting := none }

/-- Table 2-1, column Default. -/
def Mover.reset : Mover :=
  { motion := Motion.reset, position := 0, sent := 0, valve := 0, followRun := 0, settleRun := 0, endJudged := false,
    brakeReleased := false, toeBroken := false, localReported := false, faultReported := false, step := none }

/-- The reply fields of a door that has not answered. -/
def DoorReply.clear : DoorReply :=
  { openLimit := false, closedLimit := false, beamBroken := false, edge := false, localMode := false,
    motorFault := false }

/-- Table 3-1, column Default. -/
def Door.reset : Door :=
  { state := .offline, laneOrigin := false, zoneOrigin := false, forced := false, retries := 0, lead := 0,
    leadCounter := 0, motionTimer := none, retryTimer := none, cause := none, link := .unknown,
    last := DoorReply.clear, waiting := none }

/-- Table 4-2, column Default. -/
def CallStore.reset : CallStore :=
  { routine := [], urgent := [], emergency := [], active := none, suspendedRoutine := none, suspendedUrgent := none,
    nextId := 1, lastCall := Vector.replicate 4 none, lastEnded := Vector.replicate 4 true }

/-- R101. -/
def Player.reset : Player :=
  { state := .unknown, message := 0, startedSeen := false, length := 0, replyTimer := none, probeTimer := none,
    cause := .none, faultCount := 0, discardCount := 0, sentFrame := [] }

/-- R113. -/
def Generator.reset : Generator :=
  { state := .stopped, counter := 0, shown := none, fire := false, warn := false, chime := none, endDue := false }

/-- R134. The content is that of a source in its reset state with nothing to show; equalisation replaces it (R133). -/
def BoardSlot.reset : BoardSlot :=
  { shadow := 0, seen := 0, notify := false,
    content := { state := 0, cause := 0, flags := 0, first := 0, second := 0, time := { seconds := 0, centis := 0 } },
    waiting := false }

/-- R134. -/
def ExchangePort.reset : ExchangePort :=
  { slots := Vector.replicate 52 BoardSlot.reset, read := .idle, pendingCount := 0, lowest := none, nIntLow := false }

/-- Table 7-1, column Default. -/
def LaneContext.reset : LaneContext :=
  { state := .idle, current := none, link := none, anchor := .absent, returnAnchor := none, nest := [],
    bridge := false, waitKind := none, budget := 8, retired := 0, lastMark := 0, cause := none, badLink := none,
    holdTimer := none, holdMarks := 0, abort := none }

/-- Table 8-1, column Default. -/
def Claim.free : Claim :=
  { holder := none, kind := none, level := 0, saved := none, status := .none }

/-- Table 9-1, column Default. -/
def Station.reset : Station :=
  { state := .unknown, misses := 0, polled := false, status := 0, position := 0 }

/-- R169 to R171. -/
def FieldLink.reset : FieldLink :=
  { stations := Vector.replicate 44 Station.reset, cycleNumber := 0, due := [], exchange := none, lastLost := none,
    lossCount := 0, sentFrame := [] }

/-- R107 to R109: both resets, less the seconds, which the caller gives. -/
def TimeBase.reset (seconds : Word) : TimeBase :=
  { divider := 0, cycleCount := 0, interval := 0, tickCount := 0, clock := { seconds := seconds, centis := 0 },
    restart := false, cycleDue := false, checkDue := false, markDue := false }

/-- R184, R185, R187. -/
def ControlPort.reset (inReset : Bool) : ControlPort :=
  { lanesEnable := false, intEn := false, bridgeLanes := 0, partState := .starting, inReset := inReset,
    nResetLow := false }

/-- Every block at the values its chapter gives for a reset. The voyage clock seconds, the mark of a soft reset in
progress and the source of the free values are given. -/
def Part.reset (seconds : Word) (inReset : Bool) (openValues : List Word) (openCount : Nat) : Part :=
  { time := TimeBase.reset seconds,
    zones := Vector.replicate 12 Zone.reset,
    movers := Vector.replicate 8 Mover.reset,
    doors := Vector.replicate 24 Door.reset,
    calls := CallStore.reset,
    player := Player.reset,
    lines := Vector.replicate 16 Generator.reset,
    board := ExchangePort.reset,
    lanes := Vector.replicate 4 LaneContext.reset,
    claims := Vector.replicate 32 Claim.free,
    waiters := [],
    claimTicks := 0,
    field := FieldLink.reset,
    plan := none,
    generation := 0,
    port := ControlPort.reset inReset,
    agenda := [], writes := [], forced := [],
    openValues := openValues, openCount := openCount }

/-- The machine right after power-on reset (R187, log entry 1): no command waits, exchange memory lists nothing. -/
def State.reset : State :=
  { pending := [], mem := [], part := Part.reset 0 false [] 0 }

end Sys2Proof.Machine
end

