-- ==== Sys2Proof/Machine/Ops.lean ====
section
/-! DEFINITION. The named operations over exchange memory, byte order, tables, plan entries and the agenda. -/

namespace Sys2Proof.Machine

/-! ### Exchange memory (R121, R122): a canonical list of cells -/

/-- What byte `a` reads as. An unlisted byte reads 0 (DESIGN CHOICE, unsafe: log entry 2). -/
def readByte : List Host.Cell → Nat → Byte
  | [], _ => 0
  | (b, v) :: rest, a => if b = a then v else readByte rest a

/-- Put value `v` at address `a` in a rising list, dropping the entry where `v` is what an unlisted byte reads as. -/
def putByte : List Host.Cell → Nat → Byte → List Host.Cell
  | [], a, v => if v = 0 then [] else [(a, v)]
  | (b, w) :: rest, a, v =>
    if a = b then (if v = 0 then rest else (a, v) :: rest)
    else if a < b then (if v = 0 then (b, w) :: rest else (a, v) :: (b, w) :: rest)
    else (b, w) :: putByte rest a v

/-- Write one byte. An address outside the 256 KiB (R121) has no byte to write. -/
def writeByte (m : List Host.Cell) (a : Nat) (v : Byte) : List Host.Cell :=
  if a < Config.memoryBytes then putByte m a v else m

/-- Write a list of cells, in order. -/
def writeCells : List Host.Cell → List Host.Cell → List Host.Cell
  | m, [] => m
  | m, (a, v) :: rest => writeCells (writeByte m a v) rest

/-- The canonical form from address `low` on: addresses rise and lie in exchange memory, no value is 0. -/
def canonicalFrom (low : Nat) : List Host.Cell → Bool
  | [] => true
  | (a, v) :: rest => decide (low ≤ a) && decide (a < Config.memoryBytes) && decide (v ≠ 0) && canonicalFrom (a + 1) rest

/-- The canonical form of exchange memory holds. -/
def Memory.wf (m : List Host.Cell) : Bool := canonicalFrom 0 m

/-- The `n` bytes from address `a` on. -/
def readBytes (m : List Host.Cell) (a : Nat) : Nat → List Byte
  | 0 => []
  | n + 1 => readByte m a :: readBytes m (a + 1) n

/-- The cells that hold a list of bytes from address `a` on. -/
def cellsFrom (a : Nat) : List Byte → List Host.Cell
  | [] => []
  | b :: rest => (a, b) :: cellsFrom (a + 1) rest

/-! ### Byte order: least significant byte first (00_scope.md) -/

def halfBytes (h : Half) : List Byte := [h.setWidth 8, (h >>> 8).setWidth 8]

def wordBytes (w : Word) : List Byte :=
  [w.setWidth 8, (w >>> 8).setWidth 8, (w >>> 16).setWidth 8, (w >>> 24).setWidth 8]

/-- Byte `i` of a record or frame; 0 past its end. -/
def byteAt (bytes : List Byte) (i : Nat) : Byte := bytes.getD i 0

/-- The 16-bit field at byte `i`. -/
def halfAt (bytes : List Byte) (i : Nat) : Half :=
  (byteAt bytes i).setWidth 16 ||| ((byteAt bytes (i + 1)).setWidth 16 <<< 8)

/-- The 32-bit field at byte `i`. -/
def wordAt (bytes : List Byte) (i : Nat) : Word :=
  (halfAt bytes i).setWidth 32 ||| ((halfAt bytes (i + 2)).setWidth 32 <<< 16)

/-- The 16-bit field at address `a` of exchange memory. -/
def readHalf (m : List Host.Cell) (a : Nat) : Half := halfAt (readBytes m a 2) 0

/-- The first byte of slot `link` (R121: 64 times the slot index). -/
def slotBase (link : Half) : Nat := 64 * link.toNat

/-- A link that names a record (R123). -/
def linkValid (link : Half) : Bool :=
  decide (Config.firstRecordSlot ≤ link.toNat) && decide (link.toNat ≤ Config.lastSlot)

/-! ### Tables -/

def getAt {α : Type} {n : Nat} (t : Vector α n) (i : Fin n) : α := t[i]

def setAt {α : Type} {n : Nat} (t : Vector α n) (i : Fin n) (x : α) : Vector α n := t.set i x

def mapAll {α β : Type} {n : Nat} (f : α → β) (t : Vector α n) : Vector β n :=
  ⟨(t.toList.map f).toArray, by simp⟩

/-- A table of `n` entries, entry `i` being `f i`. -/
def tableOf {α : Type} (n : Nat) (f : Fin n → α) : Vector α n :=
  ⟨((List.finRange n).map f).toArray, by simp⟩

/-! ### Durations (R110) -/

/-- One centisecond mark reaches a running duration. A duration whose marks are all counted waits for its expiry. -/
def countMark : Option Nat → Option Nat
  | some (n + 1) => some n
  | t => t

/-- The duration has counted its last mark and its expiry is due. -/
def expired (t : Option Nat) : Bool := t == some 0

/-- A duration of `n` centiseconds starts; one of 0 has expired (R110). -/
def startTimer (n : Nat) : Option Nat := if n = 0 then none else some n

/-! ### The agenda and the event's writes -/

/-- Ask for micro-operations, after those already asked for in this micro-operation. -/
def Part.emit (acts : List Act) (p : Part) : Part := { p with agenda := p.agenda ++ acts }

/-- Have lane `n`'s order end ahead of everything that this micro-operation has asked for. -/
def Part.retireFirst (n : Lane) (r : Result) (p : Part) : Part := { p with agenda := .orderEnds n r :: p.agenda }

/-- Bytes to write to exchange memory from address `a` on, after the writes already asked for in this event. -/
def Part.write (a : Nat) (bytes : List Byte) (p : Part) : Part := { p with writes := p.writes ++ cellsFrom a bytes }

/-- Have a board slot rewritten in this event whatever has changed. -/
def Part.forceSlot (j : SlotId) (p : Part) : Part := { p with forced := j :: p.forced }

/-- Take the next free value (log entry 10). -/
def Part.takeOpen (p : Part) : Word × Part :=
  match p.openValues with
  | v :: rest => (v, { p with openValues := rest })
  | [] => (Config.openValue p.openCount, { p with openCount := p.openCount + 1 })

/-- Apply an operation to a part for every element of a list, in order. -/
def forEach {α : Type} (l : List α) (f : α → Part → Part) (p : Part) : Part := l.foldl (fun q x => f x q) p

def whenTrue (b : Bool) (f : Part → Part) (p : Part) : Part := if b then f p else p

/-! ### Record access -/

def Part.zone (p : Part) (k : ZoneId) : Zone := getAt p.zones k
def Part.setZone (k : ZoneId) (z : Zone) (p : Part) : Part := { p with zones := setAt p.zones k z }
def Part.mover (p : Part) (m : MoverId) : Mover := getAt p.movers m
def Part.setMover (m : MoverId) (x : Mover) (p : Part) : Part := { p with movers := setAt p.movers m x }
def Part.door (p : Part) (d : DoorId) : Door := getAt p.doors d
def Part.setDoor (d : DoorId) (x : Door) (p : Part) : Part := { p with doors := setAt p.doors d x }
def Part.lane (p : Part) (n : Lane) : LaneContext := getAt p.lanes n
def Part.setLane (n : Lane) (x : LaneContext) (p : Part) : Part := { p with lanes := setAt p.lanes n x }
def Part.claim (p : Part) (e : EntryId) : Claim := getAt p.claims e
def Part.setClaim (e : EntryId) (c : Claim) (p : Part) : Part := { p with claims := setAt p.claims e c }
def Part.line (p : Part) (k : LineId) : Generator := getAt p.lines k
def Part.setLine (k : LineId) (g : Generator) (p : Part) : Part := { p with lines := setAt p.lines k g }
def Part.station (p : Part) (st : StationId) : Station := getAt p.field.stations st
def Part.setStation (st : StationId) (x : Station) (p : Part) : Part :=
  { p with field := { p.field with stations := setAt p.field.stations st x } }
def Part.slot (p : Part) (j : SlotId) : BoardSlot := getAt p.board.slots j
def Part.setSlot (j : SlotId) (b : BoardSlot) (p : Part) : Part :=
  { p with board := { p.board with slots := setAt p.board.slots j b } }

/-- The voyage clock as it stands (R109). -/
def Part.now (p : Part) : Stamp := p.time.clock

/-! ### The plan in force -/

def PlanZone.off : PlanZone :=
  { enabled := false, autoShut := false, confirm := 0, fireMessage := 0, shutMessage := 0, warnPattern := 1 }

def PlanMover.off : PlanMover :=
  { enabled := false, kind := .ramp, zoned := false, zone := 0, partner := none, lower := 0, upper := 1,
    vmax := 1, accel := 1, vc := 1, vapp := 1, dapp := 0, kp := 0, kf := 0, efollow := 1, etol := 1, prerequisite := none, prePreset := 1,
    preTolerance := 0, settleLimit := 0, brakeTime := 0, presets := Vector.replicate 8 0, shold := 1, sfault := 2,
    floatWindow := 0, floatMin := 0, floatMax := 0 }

def PlanDoor.off : PlanDoor :=
  { enabled := false, zoneA := 0, zoneB := none, retries := 0, lead := 0, fireLead := 0, motionLimit := 100,
    retryDelay := 0 }

/-- What the blocks read while no plan is present: nothing is enabled (R183). -/
def Plan.off : Plan :=
  { header := { claimWait := 0, muster := 0, firePattern := 1, fireChime := 0, fireRepeats := 1, chimeRoutine := 1,
                chimeUrgent := 1, chimeEmergency := 1 },
    zones := Vector.replicate 12 PlanZone.off, movers := Vector.replicate 8 PlanMover.off,
    doors := Vector.replicate 24 PlanDoor.off,
    patterns := Vector.replicate 8 { period := 2, lead := 0, count := 0 }, messages := [] }

def Part.inForce (p : Part) : Plan := p.plan.getD Plan.off
def Part.planZone (p : Part) (k : ZoneId) : PlanZone := getAt p.inForce.zones k
def Part.planMover (p : Part) (m : MoverId) : PlanMover := getAt p.inForce.movers m
def Part.planDoor (p : Part) (d : DoorId) : PlanDoor := getAt p.inForce.doors d

/-- Pattern `n` of 1..8 of the plan in force (R112). -/
def Part.pattern (p : Part) (n : Nat) : PlanPattern :=
  p.inForce.patterns.toList.getD (n - 1) { period := 2, lead := 0, count := 0 }

/-- The maximum length of a message in centiseconds; 0 where the plan gives none (Table 10-6). -/
def Part.messageLength (p : Part) (message : Byte) : Nat :=
  if message = 0 then 0 else p.inForce.messages.getD (message.toNat - 1) 0

/-- The other end of a panel pair (R25, R46). -/
def Plan.partner (plan : Plan) (m : MoverId) : Option MoverId :=
  let e := getAt plan.movers m
  if e.enabled && (e.kind == .panelEnd) then e.partner else none

/-- The leading end of a mover's pair, or the mover itself (R25). -/
def Plan.leader (plan : Plan) (m : MoverId) : MoverId :=
  match plan.partner m with
  | some q => if q.val < m.val then q else m
  | none => m

def Part.partner (p : Part) (m : MoverId) : Option MoverId := p.inForce.partner m
def Part.leader (p : Part) (m : MoverId) : MoverId := p.inForce.leader m

/-- The ends that act as one mover, the leading end first. -/
def Part.ends (p : Part) (m : MoverId) : List MoverId :=
  match p.partner m with
  | some q => if q.val < m.val then [q, m] else [m, q]
  | none => [m]

/-- The zone whose state governs a mover (Table 2-2). -/
def Part.moverZone (p : Part) (m : MoverId) : ZoneId := (p.planMover (p.leader m)).zone

/-- The zones of an enabled door: its zone A and, if the plan names one, its zone B (R57; log entry 24). -/
def Part.doorZones (p : Part) (d : DoorId) : List ZoneId :=
  let e := p.planDoor d
  if e.enabled then e.zoneA :: e.zoneB.toList else []

/-- The doors that belong to a zone (R3). -/
def Part.zoneDoors (p : Part) (k : ZoneId) : List DoorId :=
  (List.finRange 24).filter (fun d => (p.doorZones d).contains k)

/-- The enabled movers of a zone (R3), a pair by its leading end: one that is not enabled is OFFLINE and heeds no request of its
zone (R25, R35). -/
def Part.zoneMovers (p : Part) (k : ZoneId) : List MoverId :=
  (List.finRange 8).filter (fun m => (p.planMover m).enabled && (p.leader m == m) && ((p.planMover m).zone == k))

/-! ### Claim entries (R153) -/

def moverEntry (m : MoverId) : EntryId := ⟨m.val, by omega⟩
def doorEntry (d : DoorId) : EntryId := ⟨8 + d.val, by omega⟩

/-- The entry a mover is claimed by: that of its leading end. -/
def Part.entryOfMover (p : Part) (m : MoverId) : EntryId := moverEntry (p.leader m)

/-- The actuator of an entry. -/
inductive Actuator where
  | mover (m : MoverId)
  | door (d : DoorId)
deriving DecidableEq, Repr

def actuatorOf (e : EntryId) : Actuator :=
  if h : e.val < 8 then .mover ⟨e.val, h⟩ else .door ⟨e.val - 8, by omega⟩

def entryBit (e : EntryId) : Word := 1#32 <<< e.val

def inSet (claimSet : Word) (e : EntryId) : Bool := claimSet.getLsbD e.val

/-- The entries of a claim set in ascending order. -/
def setEntries (claimSet : Word) : List EntryId := (List.finRange 32).filter (inSet claimSet)

/-- The set with each non-leading end of a standing pair replaced by the leading end (R153). -/
def Part.normalSet (p : Part) (claimSet : Word) : Word :=
  (setEntries claimSet).foldl (fun acc e =>
    match actuatorOf e with
    | .mover m => acc ||| entryBit (p.entryOfMover m)
    | .door _ => acc ||| entryBit e) 0

/-- The steady states of a mover (R54). -/
def MoverState.steady : MoverState → Bool
  | .idle | .floating | .localMode | .faulted | .offline => true
  | .releasing | .moving | .stopping | .settling => false

/-- The set that holds doors back at lead expiry (R54, R64). -/
def MoverState.inMotionSet : MoverState → Bool
  | .releasing | .moving | .stopping => true
  | .offline | .idle | .settling | .floating | .localMode | .faulted => false

/-- The steady states of a door (Table 3-4). -/
def DoorState.steady : DoorState → Bool
  | .opened | .closed | .halted | .blocked | .localMode | .faulted | .offline => true
  | .warning | .waitClear | .closing | .reversing | .retryWait | .opening => false

/-- The closing sequence (R59). -/
def DoorState.inSequence : DoorState → Bool
  | .warning | .waitClear | .closing | .reversing | .retryWait => true
  | .offline | .opened | .halted | .closed | .opening | .blocked | .localMode | .faulted => false

def Part.steady (p : Part) (e : EntryId) : Bool :=
  match actuatorOf e with
  | .mover m => (p.mover m).motion.state.steady
  | .door d => (p.door d).state.steady

/-! ### Results -/

/-- The result code bytes of Table 6-5. -/
def ResultCode.byte : ResultCode → Byte
  | .done => 0x01 | .started => 0x02 | .merged => 0x03 | .condition => 0x04
  | .badRecord => 0x80 | .noPlan => 0x81 | .authority => 0x82 | .mismatch => 0x83 | .zoneState => 0x84 | .busy => 0x85
  | .notClaimed => 0x86 | .claimTimeout => 0x87 | .faulted => 0x88 | .localMode => 0x89 | .prerequisite => 0x8A
  | .dependent => 0x8B | .outOfLimits => 0x8C | .queueFull => 0x8D | .displaced => 0x8E | .superseded => 0x8F
  | .cancelled => 0x90 | .stopped => 0x91 | .failed => 0x92 | .blocked => 0x93 | .expired => 0x94 | .signalled => 0x95
  | .aborted => 0x96 | .alarmPresent => 0x97 | .fireLatched => 0x98 | .noMessage => 0x99 | .planInvalid => 0x9A
  | .nestedDetour => 0x9B

/-- The failure class: the top bit of the code (Table 6-5). -/
def ResultCode.failure (c : ResultCode) : Bool := c.byte.getLsbD 7

/-- The result flags of Table 6-3. -/
def flagClamped : Byte := 1
def flagInexact : Byte := 2
def flagDegraded : Byte := 4
def flagReturnIncomplete : Byte := 8
def flagFurtherCause : Byte := 16

/-- A result whose detail and values are all given. -/
def Result.of (code : ResultCode) (detail : Nat) (first second : Word) (flags : Byte := 0) : Result :=
  { code := code, flags := flags, detail := some (BitVec.ofNat 16 detail), first := some first, second := some second }

/-- A result of which no chapter gives the detail or the values. -/
def Result.bare (code : ResultCode) : Result :=
  { code := code, flags := 0, detail := none, first := none, second := none }

def word (n : Nat) : Word := BitVec.ofNat 32 n

/-! ### The lane of an order -/

/-- The lane waits for its current record's order to end (R140). -/
def laneWaits (n : Lane) (kind : WaitKind) (p : Part) : Part :=
  p.setLane n { p.lane n with state := .waiting, waitKind := some kind }

/-- The kept content of the lane's current record. -/
def Part.currentBytes (p : Part) (n : Lane) : List Byte :=
  match (p.lane n).current with
  | some r => r.bytes
  | none => []

/-- The order has clamped a value: CLAMPED stays with its record (R31). -/
def markClamped (n : Lane) (p : Part) : Part :=
  p.setLane n { p.lane n with current := (p.lane n).current.map (fun r => { r with clamped := true }) }

/-- An order that has started its action either waits for it, with WAIT set, or retires STARTED (R140). -/
def startedOrWaits (n : Lane) (r : Result) (p : Part) : Part :=
  if (byteAt (p.currentBytes n) 2).getLsbD 0 then laneWaits n .action p else p.emit [.orderEnds n r]

/-! ### Return statuses (R166) -/

/-- Set the return status of an entry. INCOMPLETE sets RETURN_INCOMPLETE in the holder's abort record. -/
def markReturn (e : EntryId) (status : ReturnStatus) (p : Part) : Part :=
  let c := p.claim e
  let p1 := p.setClaim e { c with status := status }
  match c.holder with
  | some n =>
    if status = .incomplete then
      p1.setLane n { p1.lane n with abort := (p1.lane n).abort.map (fun a => { a with returnIncomplete := true }) }
    else p1
  | none => p1

/-- A return under way is ended by something else than its own completion. -/
def endReturn (e : EntryId) (status : ReturnStatus) (p : Part) : Part :=
  if (p.claim e).status = .underWay then markReturn e status p else p

/-- The end test of R167 for the lane that holds an entry. -/
def abortTestOf (p : Part) (e : EntryId) : List Act :=
  match (p.claim e).holder with
  | some n => [.abortTest n]
  | none => []

/-! ### State codes, numbered as the record tables list them (R128) -/

def ZoneState.num : ZoneState → Nat
  | .secure => 0 | .loading => 1 | .shutting => 2 | .shut => 3
def AlarmLevel.num : AlarmLevel → Nat
  | .none => 0 | .pre => 1 | .fire => 2 | .fault => 3
def MoverState.num : MoverState → Nat
  | .offline => 0 | .idle => 1 | .releasing => 2 | .moving => 3 | .stopping => 4 | .settling => 5 | .floating => 6
  | .localMode => 7 | .faulted => 8
def MoverCause.num : MoverCause → Nat
  | .following => 0 | .skew => 1 | .brake => 2 | .link => 3 | .station => 4
def Phase.num : Phase → Nat
  | .accel => 0 | .cruise => 1 | .decel => 2
def DoorState.num : DoorState → Nat
  | .offline => 0 | .opened => 1 | .halted => 2 | .warning => 3 | .waitClear => 4 | .closing => 5 | .closed => 6
  | .reversing => 7 | .retryWait => 8 | .opening => 9 | .blocked => 10 | .localMode => 11 | .faulted => 12
def DoorCause.num : DoorCause → Nat
  | .closeTime => 0 | .openTime => 1 | .limits => 2 | .edge => 3 | .link => 4 | .motor => 5
def Priority.num : Priority → Nat
  | .routine => 0 | .urgent => 1 | .emergency => 2
def CallState.num : CallState → Nat
  | .queued => 0 | .chime => 1 | .playing => 2 | .cutting => 3 | .suspended => 4
def PlayerState.num : PlayerState → Nat
  | .unknown => 0 | .ready => 1 | .playing => 2 | .cutting => 3 | .fault => 4
def TimeoutKind.num : TimeoutKind → Nat
  | .started => 0 | .done => 1 | .cutDone => 2 | .status => 3
def LaneState.num : LaneState → Nat
  | .idle => 0 | .resting => 1 | .working => 2 | .waiting => 3 | .aborting => 4 | .stopped => 5
def LaneCause.num : LaneCause → Nat
  | .linkInvalid => 0 | .notArmed => 1 | .failedOrder => 2 | .groupAborted => 3 | .haltOrder => 4 | .cancelled => 5
  | .lanesDisabled => 6 | .depth => 7 | .startIgnored => 8
def WaitKind.num : WaitKind → Nat
  | .action => 0 | .hold => 1 | .claim => 2 | .groupClose => 3
def AbortCause.num : AbortCause → Nat
  | .zone => 1 | .fault => 2 | .conflict => 3 | .scope => 4 | .depth => 5 | .order => 6 | .explicit => 7 | .cancel => 8
def PartState.num : PartState → Nat
  | .starting => 0 | .layoutWait => 1 | .planWait => 2 | .ready => 3

end Sys2Proof.Machine
end

