-- ==== Sys2Proof/Machine/Announce.lean ====
section
/-! DEFINITION. The Announcement Link (04, R100 to R104): frames, link state, timers. -/

namespace Sys2Proof.Machine

/-! ### Frames (R100, Table 4-6) -/

/-- The sum of the bytes modulo 256. -/
def byteSum (bytes : List Byte) : Byte := bytes.foldl (fun a b => a + b) 0

/-- Four content bytes and the check byte that makes the five sum to 0. -/
def checkedFrame (content : List Byte) : List Byte := content ++ [0 - byteSum content]

def playFrame (message : Byte) (lines : Half) : List Byte := checkedFrame ([0x31, message] ++ halfBytes lines)
def cutFrame : List Byte := checkedFrame [0x32, 0, 0, 0]
def statusFrame : List Byte := checkedFrame [0x33, 0, 0, 0]

/-- The command that a whole frame of five bytes is (R100): one of the five received frames, or a discard. -/
def frameCommand (frame : List Byte) : Instr :=
  if byteSum frame = 0 then
    match (byteAt frame 0).toNat with
    | 0x41 => .started (byteAt frame 1)
    | 0x42 => .done (byteAt frame 1)
    | 0x43 => .cutDone
    | 0x44 => .ready
    | 0x45 => .err (byteAt frame 1)
    | _ => .frameDiscard .unknownCode
  else .frameDiscard .badSum

/-- The commands that the bytes received between two pauses are (R100): every five bytes are a frame, and a frame whose
assembly the pause cut short is a discard. -/
def announcementCommands : List Byte → List Instr
  | [] => []
  | b0 :: b1 :: b2 :: b3 :: b4 :: rest => frameCommand [b0, b1, b2, b3, b4] :: announcementCommands rest
  | _ :: _ => [.frameDiscard .cutShort]

/-! ### Requests (R102, R103) -/

/-- PLAY is sent: the link enters PLAYING and waits 100 cs for STARTED. `length` is the maximum length read now. -/
def sendPlay (message : Byte) (lines : Half) (length : Nat) (p : Part) : Part :=
  { p with player := { p.player with
      state := .playing, message := message, startedSeen := false, length := length,
      replyTimer := some (.started, Config.startedTimeout), sentFrame := playFrame message lines } }

/-- CUT is sent: the link enters CUTTING and waits 50 cs for CUT_DONE. The PLAY that it cuts keeps its message and its
STARTED flag, and is shown as outstanding, until DONE or CUT_DONE (log entry 43). -/
def sendCut (p : Part) : Part :=
  { p with player := { p.player with
      state := .cutting, replyTimer := some (.cutDone, Config.cutTimeout), sentFrame := cutFrame } }

/-- STATUS is sent in UNKNOWN, in the first event after a reset (R101). -/
def sendStatus (p : Part) : Part :=
  { p with player := { p.player with replyTimer := some (.status, Config.statusTimeout), sentFrame := statusFrame } }

/-- A probe in FAULT: STATUS is sent and the probe timer starts again (R104). -/
def sendProbe (p : Part) : Part :=
  { p with player := { p.player with probeTimer := some Config.probePeriod, sentFrame := statusFrame } }

/-! ### State changes (R102, R104) -/

/-- Entry to FAULT (R104): the link's own part of it. -/
def playerFault (cause : PlayerCause) (p : Part) : Part :=
  { p with player := { p.player with
      state := .fault, cause := cause, faultCount := p.player.faultCount + 1, replyTimer := none,
      probeTimer := some Config.probePeriod, message := 0, startedSeen := false } }

/-- The link enters READY. -/
def playerReady (p : Part) : Part :=
  { p with player := { p.player with
      state := .ready, replyTimer := none, probeTimer := none, message := 0, startedSeen := false } }

/-- The first STARTED in PLAYING (R102, R103): the reply timer restarts for DONE. -/
def playerStarted (p : Part) : Part :=
  { p with player := { p.player with
      startedSeen := true, replyTimer := some (.done, p.player.length + Config.startedTimeout) } }

/-- A DONE taken while a CUT is outstanding: the PLAY is answered, the link stays CUTTING (R102). -/
def playerDoneInCut (p : Part) : Part :=
  { p with player := { p.player with message := 0, startedSeen := false } }

/-- FRAME_DISCARD (R100): the discard is counted and has no other effect. -/
def frameDiscard (p : Part) : Part :=
  { p with player := { p.player with discardCount := p.player.discardCount + 1 } }

end Sys2Proof.Machine
end

