-- ==== Sys2Proof/Machine/Cadence.lean ====
section
/-! DEFINITION. The Cadence Unit (05, R112 to R120): line generators, demand sets, posting and withdrawal. -/

namespace Sys2Proof.Machine

/-- The kinds of demand (R114). -/
inductive DemandKind where
  | fire | warn | chime
deriving DecidableEq, Repr

/-- The highest demand present (R114): FIRE, then WARN, then CHIME. -/
def Generator.highest (g : Generator) : Option DemandKind :=
  if g.fire then some .fire else if g.warn then some .warn else if g.chime.isSome then some .chime else none

/-- The line is shown active (R119). -/
def Generator.active (g : Generator) : Bool := g.state != .stopped

/-- The pattern number that the highest demand of line `k` names (R114). -/
def Part.highestPattern (p : Part) (k : LineId) (g : Generator) : Option Nat :=
  match g.highest with
  | some .fire => some p.inForce.header.firePattern
  | some .warn => some (if h : k.val < 12 then (p.planZone ⟨k.val, h⟩).warnPattern else 1)
  | some .chime => g.chime
  | none => none

/-- The P and D that a pattern number has in the adopted plan now (R113). -/
def Part.shownOf (p : Part) (n : Nat) : ShownPattern :=
  { number := n, period := (p.pattern n).period, lead := (p.pattern n).lead }

/-- The generator begins a period with the pattern of the highest demand present, or stops where there is none
(R113, R115, R116). -/
def Part.restartLine (p : Part) (k : LineId) (g : Generator) : Generator :=
  match p.highestPattern k g with
  | some n => { g with state := .running, counter := 0, shown := some (p.shownOf n), endDue := false }
  | none => { g with state := .stopped, counter := 0, shown := none, endDue := false }

/-- What a changed demand set does to the generator (R115, R117, R118): a stopped line starts; while the counter is 0
the change takes effect at once; otherwise the period in progress is finished, in STOPPING if no demand is left. -/
def Part.afterDemand (p : Part) (k : LineId) (g : Generator) : Generator :=
  if g.state = .stopped then (if g.highest.isSome then p.restartLine k g else g)
  else if g.counter = 0 then p.restartLine k g
  else if g.highest.isSome then { g with state := .running } else { g with state := .stopping }

/-- Post a FIRE demand on line `k` (R116). -/
def postFire (k : LineId) (p : Part) : Part :=
  let g := p.line k
  if g.fire then p else p.setLine k (p.restartLine k { g with fire := true })

/-- Post a WARN demand on line `k` (R114, R117); a standing FIRE keeps the generator as it is (R116). -/
def postWarn (k : LineId) (p : Part) : Part :=
  let g := p.line k
  if g.warn then p
  else if g.fire then p.setLine k { g with warn := true }
  else p.setLine k (p.afterDemand k { g with warn := true })

/-- Post a CHIME demand with pattern `n` on line `k`; posted again it replaces the pattern number (R114, R117). -/
def postChime (k : LineId) (n : Nat) (p : Part) : Part :=
  let g := p.line k
  if g.fire || g.warn then p.setLine k { g with chime := some n }
  else p.setLine k (p.afterDemand k { g with chime := some n })

/-- Withdraw the FIRE demand of line `k` (R117, R118). -/
def withdrawFire (k : LineId) (p : Part) : Part :=
  let g := p.line k
  if g.fire then p.setLine k (p.afterDemand k { g with fire := false }) else p

/-- Withdraw the WARN demand of line `k` (R116 to R118). -/
def withdrawWarn (k : LineId) (p : Part) : Part :=
  let g := p.line k
  if g.warn then
    (if g.fire then p.setLine k { g with warn := false }
     else p.setLine k (p.afterDemand k { g with warn := false }))
  else p

/-- Withdraw the CHIME demand of line `k` (R116 to R118). -/
def withdrawChime (k : LineId) (p : Part) : Part :=
  let g := p.line k
  if g.chime.isSome then
    (if g.fire || g.warn then p.setLine k { g with chime := none }
     else p.setLine k (p.afterDemand k { g with chime := none }))
  else p

/-- The lines of a line set in ascending order. -/
def linesOf (lines : Half) : List LineId := (List.finRange 16).filter (fun k => lines.getLsbD k.val)

/-- One deck tick at a generator (R113): the counter rises, or the tick is the one that ends the period. -/
def Generator.tick (g : Generator) : Generator :=
  match g.state, g.shown with
  | .stopped, _ => g
  | _, none => g
  | _, some sh => if g.counter + 1 < sh.period then { g with counter := g.counter + 1 } else { g with endDue := true }

/-- PERIOD_END at line `k` (R113): the highest demand's pattern is taken and the counter restarts, or the generator
stops. -/
def periodEnd (k : LineId) (p : Part) : Part := p.setLine k (p.restartLine k (p.line k))

/-- LINE k (R112): high while the counter lies in D..P - 1 of a running period. -/
def Generator.output (g : Generator) : Bool :=
  match g.state, g.shown with
  | .stopped, _ => false
  | _, none => false
  | _, some sh => decide (sh.lead ≤ g.counter)

def lineOutput (s : State) (k : LineId) : Bool := (s.part.line k).output

/-- The line activity mask (R119). -/
def Part.activityMask (p : Part) : Half :=
  (List.finRange 16).foldl (fun acc k => if (p.line k).active then acc ||| (1#16 <<< k.val) else acc) 0

/-- A zone's line is to carry FIRE (R12): the zone is in FIRE, or the line is a muster line while any zone is. -/
def Part.fireWanted (p : Part) (k : LineId) : Bool :=
  (if h : k.val < 12 then (p.zone ⟨k.val, h⟩).level == .fire else false) ||
    (p.inForce.header.muster.getLsbD k.val && p.zones.toList.any (fun z => z.level == .fire))

/-- Post and withdraw FIRE demands so that they match the conditions of R12. -/
def syncFire (p : Part) : Part :=
  forEach (List.finRange 16) (fun k q => if q.fireWanted k then postFire k q else withdrawFire k q) p

/-- Adoption (R120): every generator with a FIRE demand present restarts with the new plan's fire pattern. -/
def restartFireLines (p : Part) : Part :=
  forEach (List.finRange 16) (fun k q => if (q.line k).fire then q.setLine k (q.restartLine k (q.line k)) else q) p

end Sys2Proof.Machine
end

