-- ==== Sys2Proof/Machine/Operands.lean ====
section
/-! DEFINITION. Order records (R124 to R126): the layout of the host's fields, the packing of each kind's parameters
(R125), the writing of a record from an order's operands, and the BAD_RECORD check (R139, check 1). -/

namespace Sys2Proof.Machine

/-- The 27 order kinds in the order of Table 0-2 (R125). -/
inductive OrderKind where
  | hold | detour | ret | mark | haltLane
  | groupOpen | groupClose | abortGroup
  | setLoading | setSecure | shutZone | reopenZone | disableDetection | enableDetection | resetAlarm
  | move | stopMover | floatRamp | clearMoverFault
  | closeDoor | openDoor | forceClose | clearDoorFault
  | call | cancelCall
  | setClock
  | adoptPlan
deriving DecidableEq, Repr

def OrderKind.all : List OrderKind :=
  [.hold, .detour, .ret, .mark, .haltLane, .groupOpen, .groupClose, .abortGroup, .setLoading, .setSecure, .shutZone,
   .reopenZone, .disableDetection, .enableDetection, .resetAlarm, .move, .stopMover, .floatRamp, .clearMoverFault,
   .closeDoor, .openDoor, .forceClose, .clearDoorFault, .call, .cancelCall, .setClock, .adoptPlan]

/-- The kind byte of an order kind (R125). -/
def OrderKind.num (k : OrderKind) : Nat := OrderKind.all.idxOf k + 1

/-- The order kind a kind byte names; 0 and the values above 27 name none (R125). -/
def OrderKind.ofByte (b : Byte) : Option OrderKind := if b = 0 then none else OrderKind.all[b.toNat - 1]?

/-! ### The image of a record: the 42 bytes the host writes, bytes 0..35 and 58..63 (Table 6-3) -/

def ownerFree : Byte := 0
def ownerArmed : Byte := 1
def ownerActive : Byte := 2
def ownerRetired : Byte := 3
def ownerStanding : Byte := 4

/-- The image of the record in slot `link`. -/
def readImage (m : List Host.Cell) (link : Half) : List Byte :=
  readBytes m (slotBase link) 36 ++ readBytes m (slotBase link + 58) 6

def imageOwner (r : List Byte) : Byte := byteAt r 0
def imageKind (r : List Byte) : Option OrderKind := OrderKind.ofByte (byteAt r 1)
def imageWait (r : List Byte) : Bool := (byteAt r 2).getLsbD 0
def imageNotify (r : List Byte) : Bool := (byteAt r 2).getLsbD 1
def imageNext (r : List Byte) : Half := halfAt r 4
def imageAlternate (r : List Byte) : Half := halfAt r 6
def imageExpectZone (r : List Byte) : Byte := byteAt r 8
def imageExpectMask (r : List Byte) : Byte := byteAt r 9

/-- The order flags of a held record. -/
def HeldRecord.wait (r : HeldRecord) : Bool := imageWait r.bytes
def HeldRecord.notify (r : HeldRecord) : Bool := imageNotify r.bytes
def HeldRecord.kind (r : HeldRecord) : Option OrderKind := imageKind r.bytes
def HeldRecord.next (r : HeldRecord) : Half := imageNext r.bytes
def HeldRecord.alternate (r : HeldRecord) : Half := imageAlternate r.bytes

/-! ### Parameters by kind (R125) -/

/-- The one-byte index at byte 12: a zone, mover or door. -/
def paramIndex (r : List Byte) : Nat := (byteAt r 12).toNat

def paramZone (r : List Byte) : ZoneId := Fin.ofNat 12 (paramIndex r)
def paramMover (r : List Byte) : MoverId := Fin.ofNat 8 (paramIndex r)
def paramDoor (r : List Byte) : DoorId := Fin.ofNat 24 (paramIndex r)

/-- HOLD (R144): duration 12..13, condition kind 14, index 15, state 16. -/
def holdDuration (r : List Byte) : Nat := (halfAt r 12).toNat
def holdCondition (r : List Byte) : Byte := byteAt r 14
def holdIndex (r : List Byte) : Nat := (byteAt r 15).toNat
def holdState (r : List Byte) : Nat := (byteAt r 16).toNat

/-- DETOUR target, ADOPT PLAN link, MARK code, CANCEL CALL id: the 16-bit field at byte 12. -/
def paramHalf (r : List Byte) : Half := halfAt r 12

/-- GROUP OPEN (R158): mode 12 (HALT 0, RETURN 1), claim set 16..19. -/
def groupReturns (r : List Byte) : Bool := byteAt r 12 == 1
def groupSet (r : List Byte) : Word := wordAt r 16

/-- MOVE (R29, R125): mover 12, mode 13, share 14, value 16..19. -/
def moveMode (r : List Byte) : Nat := (byteAt r 13).toNat
def moveShare (r : List Byte) : Nat := if (byteAt r 14).toNat = 0 then 100 else (byteAt r 14).toNat
def moveValue (r : List Byte) : Int := (wordAt r 16).toInt

/-- CALL (R85): priority 12, message 13, line set 14..15, repeats 16, policy 17, chime pattern 18. -/
def callPriority (r : List Byte) : Priority :=
  if byteAt r 12 = 0 then .routine else if byteAt r 12 = 1 then .urgent else .emergency
def callMessage (r : List Byte) : Byte := byteAt r 13
def callLines (r : List Byte) : Half := halfAt r 14
def callRepeats (r : List Byte) : Nat := (byteAt r 16).toNat
def callContinues (r : List Byte) : Bool := byteAt r 17 == 1
def callChime (r : List Byte) : Nat := (byteAt r 18).toNat

/-- SET CLOCK (R111): seconds 12..15. -/
def clockSeconds (r : List Byte) : Word := wordAt r 12

/-! ### Writing a record from an order's operands -/

/-- The 24 parameter bytes: the packed fields, then zeros. -/
def padParams (bytes : List Byte) : List Byte := bytes ++ List.replicate (24 - bytes.length) 0

/-- The image the host writes for an order (Table 6-3): every reserved byte zero, the owner ARMED or STANDING. -/
def orderImage (h : OrderHead) (k : OrderKind) (params : List Byte) : List Byte :=
  [if h.standing then ownerStanding else ownerArmed, BitVec.ofNat 8 k.num, h.flags, 0]
    ++ halfBytes h.next ++ halfBytes h.alternate ++ [h.expectZone, h.expectMask, 0, 0]
    ++ padParams params ++ List.replicate 6 0

def holdParams (duration : Half) (condition index state : Byte) : List Byte :=
  halfBytes duration ++ [condition, index, state]

def groupParams (mode : Byte) (claimSet : Word) : List Byte := [mode, 0, 0, 0] ++ wordBytes claimSet

def moveParams (mover mode share : Byte) (value : Word) : List Byte := [mover, mode, share, 0] ++ wordBytes value

def callParams (priority message : Byte) (lines : Half) (repeats policy chime : Byte) : List Byte :=
  [priority, message] ++ halfBytes lines ++ [repeats, policy, chime]

/-- The cells that hold an image in the record slot `link`. -/
def imageCells (link : Half) (image : List Byte) : List Host.Cell :=
  cellsFrom (slotBase link) (image.take 36) ++ cellsFrom (slotBase link + 58) (image.drop 36)

/-! ### The BAD_RECORD check (R139, check 1) -/

/-- The bytes from `i` on, `n` of them, are zero. -/
def zeros (r : List Byte) (i n : Nat) : Bool := (List.range n).all (fun j => byteAt r (i + j) == 0)

/-- The reserved parameter bytes from byte `i` to byte 35, as one field at its first byte (log entry 20). -/
def restZero (r : List Byte) (i : Nat) : Nat × Bool := (i, zeros r i (36 - i))

/-- The index of a HOLD lies in the range of its condition (R144). -/
def holdIndexOk (r : List Byte) : Bool :=
  match (holdCondition r).toNat with
  | 0 => decide (holdIndex r < 12)
  | 1 => decide (holdIndex r < 8)
  | 2 => decide (holdIndex r < 24)
  | _ => holdIndex r == 0

/-- The state of a HOLD lies in the range of its condition (R144). -/
def holdStateOk (r : List Byte) : Bool :=
  match (holdCondition r).toNat with
  | 0 => decide (holdState r < 4)
  | 2 => decide (holdState r < 2)
  | _ => holdState r == 0

/-- A claim set names no non-leading end of a standing pair together with bits that are not the leading end's (R158). -/
def Part.groupSetOk (p : Part) (claimSet : Word) : Bool :=
  (setEntries claimSet).all (fun e =>
    match actuatorOf e with
    | .door _ => true
    | .mover m =>
      p.leader m == m ||
        (setEntries claimSet).all (fun e' => (e' == e) || (e' == p.entryOfMover m)))

/-- The value of a MOVE lies in the range of its mode (R29). -/
def moveValueOk (r : List Byte) : Bool :=
  match moveMode r with
  | 0 => decide (0 ≤ moveValue r ∧ moveValue r ≤ 65535)
  | 1 => decide (-65535 ≤ moveValue r ∧ moveValue r ≤ 65535)
  | _ => decide (1 ≤ moveValue r ∧ moveValue r ≤ 8)

/-- The parameter fields of each kind with their offsets, ascending: each offset with whether the field is in its range. -/
def Part.paramChecks (p : Part) (r : List Byte) : OrderKind → List (Nat × Bool)
  | .hold =>
    [(14, decide ((holdCondition r).toNat ≤ 3) || (holdCondition r == 0xFF)), (15, holdIndexOk r), (16, holdStateOk r),
     restZero r 17]
  | .detour => [(12, paramHalf r != 0), restZero r 14]
  | .mark => [restZero r 14]
  | .groupOpen =>
    [(12, decide ((byteAt r 12).toNat ≤ 1)), (13, zeros r 13 3), (16, p.groupSetOk (groupSet r)), restZero r 20]
  | .ret | .haltLane | .groupClose => [restZero r 12]
  | .abortGroup => [restZero r 13]
  | .setLoading | .setSecure | .shutZone | .reopenZone | .disableDetection | .enableDetection | .resetAlarm =>
    [(12, decide (paramIndex r < 12)), restZero r 13]
  | .move =>
    [(12, decide (paramIndex r < 8)), (13, decide (moveMode r ≤ 2)), (14, decide ((byteAt r 14).toNat ≤ 100)),
     (15, zeros r 15 1), (16, moveValueOk r), restZero r 20]
  | .stopMover | .floatRamp | .clearMoverFault => [(12, decide (paramIndex r < 8)), restZero r 13]
  | .closeDoor | .openDoor | .forceClose | .clearDoorFault => [(12, decide (paramIndex r < 24)), restZero r 13]
  | .call =>
    [(12, decide ((byteAt r 12).toNat ≤ 2)), (13, callMessage r != 0), (14, callLines r != 0),
     (16, decide (1 ≤ callRepeats r ∧ callRepeats r ≤ 15)), (17, decide ((byteAt r 17).toNat ≤ 1)),
     (18, decide (callChime r ≤ 8)), restZero r 19]
  | .cancelCall => [(12, decide ((paramHalf r).toNat ≤ 255)), restZero r 14]
  | .setClock => [restZero r 16]
  | .adoptPlan =>
    [(12, decide (Config.firstRecordSlot ≤ (paramHalf r).toNat ∧ (paramHalf r).toNat ≤ Config.lastPlanSlot)),
     restZero r 14]

/-- Every tested field of a record, by ascending offset (R139, check 1). -/
def Part.recordChecks (p : Part) (r : List Byte) : List (Nat × Bool) :=
  match imageKind r with
  | none => [(1, false)]
  | some k =>
    [(2, decide ((byteAt r 2).toNat < 4)), (3, zeros r 3 1),
     (8, (imageExpectMask r == 0) || decide ((imageExpectZone r).toNat ≤ 11)),
     (9, decide ((imageExpectMask r).toNat < 16)), (10, zeros r 10 2)]
      ++ p.paramChecks r k ++ [(58, zeros r 36 6)]

/-- The byte offset of the first offending field, if any. -/
def Part.badField (p : Part) (r : List Byte) : Option Nat :=
  ((p.recordChecks r).find? (fun c => !c.2)).map (fun c => c.1)

end Sys2Proof.Machine
end

