-- ==== Sys2Proof/Machine/Calls.lean ====
section
/-! DEFINITION. Call Control (04, R83 to R99, R105, R106): admission, selection, service, preemption, cancelling, and the
received frames and timer expiries of the Announcement Link. -/

namespace Sys2Proof.Machine

/-! ### The call store -/

/-- Every call that exists: queued, active and suspended (R83). -/
def CallStore.entries (c : CallStore) : List CallEntry :=
  c.routine ++ c.urgent ++ c.emergency ++ c.active.toList ++ c.suspendedRoutine.toList ++ c.suspendedUrgent.toList

/-- Occupied pool places: the QUEUED entries (R83). -/
def CallStore.queued (c : CallStore) : Nat := c.routine.length + c.urgent.length + c.emergency.length

def CallStore.list (c : CallStore) : Priority → List CallEntry
  | .routine => c.routine
  | .urgent => c.urgent
  | .emergency => c.emergency

def CallStore.setList (c : CallStore) (l : List CallEntry) : Priority → CallStore
  | .routine => { c with routine := l }
  | .urgent => { c with urgent := l }
  | .emergency => { c with emergency := l }

/-- Apply a change to every entry of the store. -/
def CallStore.mapEntries (c : CallStore) (f : CallEntry → CallEntry) : CallStore :=
  { c with routine := c.routine.map f, urgent := c.urgent.map f, emergency := c.emergency.map f,
           active := c.active.map f, suspendedRoutine := c.suspendedRoutine.map f,
           suspendedUrgent := c.suspendedUrgent.map f }

/-- Take a QUEUED or SUSPENDED call out of the store. -/
def CallStore.remove (c : CallStore) (id : Nat) : CallStore :=
  let keep := fun (e : CallEntry) => e.id != id
  { c with routine := c.routine.filter keep, urgent := c.urgent.filter keep, emergency := c.emergency.filter keep,
           suspendedRoutine := c.suspendedRoutine.filter keep, suspendedUrgent := c.suspendedUrgent.filter keep }

def setCalls (c : CallStore) (p : Part) : Part := { p with calls := c }
def setActive (e : Option CallEntry) (p : Part) : Part := { p with calls := { p.calls with active := e } }

/-- A suspended call goes into the slot of its priority (R91, R96); an EMERGENCY call is never suspended. -/
def suspendCall (e : CallEntry) (p : Part) : Part :=
  let e' := { e with state := .suspended, cutReason := none, chimeLeft := none, chimeOnly := false, playSent := false }
  match e.priority with
  | .routine => { p with calls := { p.calls with active := none, suspendedRoutine := some e' } }
  | .urgent | .emergency => { p with calls := { p.calls with active := none, suspendedUrgent := some e' } }

/-- The first id from `id` upward, wrapping from 255 to 1, that is not in use (R86). -/
def freeId (used : List Nat) : Nat → Nat → Nat
  | 0, id => id
  | n + 1, id => if used.contains id then freeId used n (if id = 255 then 1 else id + 1) else id

/-- The default chime of a priority (R105). -/
def PlanHeader.defaultChime (h : PlanHeader) : Priority → Nat
  | .routine => h.chimeRoutine
  | .urgent => h.chimeUrgent
  | .emergency => h.chimeEmergency

/-- The ticks of a chime: P × C, or P for a count of 0 (R93). -/
def PlanPattern.chimeTicks (pt : PlanPattern) : Nat := pt.period * (if pt.count = 0 then 1 else pt.count)

/-! ### The end of a call (R95) -/

/-- The result block of a CALL record (R85, R95): DEGRADED goes with DONE. -/
def callResult (e : CallEntry) (code : ResultCode) : Result :=
  Result.of code e.id (word e.repeatsDone) (e.lines.setWidth 32)
    (if code = .done ∧ e.degraded = true then flagDegraded else 0)

/-- A call that has left the store ends (R95): its chime is withdrawn, its records retire in the order in which they came to wait
(log entry 51), the flags of its lanes are set. -/
def endCall (e : CallEntry) (code : ResultCode) (p : Part) : Part :=
  let p1 := if e.state = .chime then forEach (linesOf e.lines) withdrawChime p else p
  let p2 := { p1 with calls := { p1.calls with
    lastEnded := tableOf 4 (fun n =>
      if getAt p1.calls.lastCall n = some e.id then true else getAt p1.calls.lastEnded n) } }
  p2.emit (e.waiting.map (fun n => .orderEnds n (callResult e code)))

/-- The active call ends, and the next call is selected (R95, R91). -/
def endActive (e : CallEntry) (code : ResultCode) (p : Part) : Part :=
  (endCall e code (setActive none p)).emit [.selectCall]

/-! ### Serving a call (R93, R94, R105) -/

/-- The repeat is served chime-only (R105). -/
def serveChimeOnly (e : CallEntry) (p : Part) : Part :=
  let n := if e.chime = 0 then p.inForce.header.defaultChime e.priority else e.chime
  let e' := { e with state := .chime, chimeOnly := true, playSent := false, chimePending := false,
                     chimeLeft := some (p.pattern n).chimeTicks }
  forEach (linesOf e.lines) (fun k => postChime k n) (setActive (some e') p)

/-- A call starts a repeat by the link state of the moment (R94). -/
def startRepeat (e : CallEntry) (p : Part) : Part :=
  let length := p.messageLength e.message
  let e' := { e with state := .playing, chimePending := false, chimeLeft := none, chimeOnly := false, playSent := false }
  if length = 0 then endActive e' .noMessage p
  else match p.player.state with
    | .ready => sendPlay e.message e.lines length (setActive (some { e' with playSent := true }) p)
    | .fault => serveChimeOnly e' p
    | .unknown | .cutting | .playing => setActive (some e') p

/-- The service of a call that becomes active (R93): its chime, or its next repeat. -/
def startService (e : CallEntry) (p : Part) : Part :=
  if e.chimePending && (e.chime != 0) && (p.player.state != .fault) then
    let e' := { e with state := .chime, chimePending := false, chimeOnly := false, playSent := false,
                       chimeLeft := some (p.pattern e.chime).chimeTicks }
    forEach (linesOf e.lines) (fun k => postChime k e.chime) (setActive (some e') p)
  else startRepeat { e with chimePending := false } p

/-- One more repeat is counted (R94, R97, R105). -/
def CallEntry.countRepeat (e : CallEntry) : CallEntry :=
  { e with repeatsDone := e.repeatsDone + 1, interrupted := false }

/-- The call has all its repeats. -/
def CallEntry.finished (e : CallEntry) : Bool := e.repeatsDone == e.repeats

/-- A repeat has been counted: the call ends DONE or starts the next repeat (R94, R105). -/
def afterRepeat (e : CallEntry) (p : Part) : Part :=
  if e.finished then endActive e .done p else startRepeat e p

/-- A call taken from a suspend slot resumes (R98). -/
def resumeCall (e : CallEntry) (p : Part) : Part :=
  if e.chimePending then startService e p
  else if e.continues then
    (if e.interrupted then afterRepeat e.countRepeat p else startRepeat e p)
  else startService { e with chimePending := true } p

/-! ### Selection and pruning (R91, R92) -/

/-- The line of a zone that pruning removes (R92). -/
def Part.lineClosed (p : Part) (k : LineId) : Bool :=
  if h : k.val < 12 then
    let z := p.zone ⟨k.val, h⟩
    (z.state == .shutting) || (z.state == .shut) || (z.level == .fire)
  else false

/-- The line set of a ROUTINE call after pruning (R92). -/
def Part.prune (p : Part) (e : CallEntry) : CallEntry :=
  match e.priority with
  | .routine =>
    let kept := (linesOf e.lines).foldl (fun acc k => if p.lineClosed k then acc else acc ||| (1#16 <<< k.val)) 0
    { e with lines := kept }
  | .urgent | .emergency => e

/-- A selected call becomes active, pruned first if it is ROUTINE (R91, R92). -/
def activateCall (resumed : Bool) (e : CallEntry) (p : Part) : Part :=
  let e' := p.prune e
  if e'.lines = 0 then endActive e' .superseded p
  else if resumed then resumeCall e' p else startService e' p

/-- Selection (R91), when no call is active. -/
def selectCall (p : Part) : Part :=
  let c := p.calls
  match c.active with
  | some _ => p
  | none =>
    match c.emergency with
    | e :: rest => activateCall false e (setCalls { c with emergency := rest } p)
    | [] =>
      match c.suspendedUrgent with
      | some e => activateCall true e (setCalls { c with suspendedUrgent := none } p)
      | none =>
        match c.urgent with
        | e :: rest => activateCall false e (setCalls { c with urgent := rest } p)
        | [] =>
          match c.suspendedRoutine with
          | some e => activateCall true e (setCalls { c with suspendedRoutine := none } p)
          | none =>
            match c.routine with
            | e :: rest => activateCall false e (setCalls { c with routine := rest } p)
            | [] => p

/-! ### Preemption (R96) -/

/-- The active call is preempted (R96). -/
def preemptActive (e : CallEntry) (p : Part) : Part :=
  match e.state with
  | .chime =>
    let p1 := forEach (linesOf e.lines) withdrawChime p
    let e' := if e.chimeOnly then { e with interrupted := true } else { e with chimePending := true }
    (suspendCall e' p1).emit [.selectCall]
  | .playing =>
    if e.playSent then sendCut (setActive (some { e with state := .cutting, cutReason := some .preempt }) p)
    else (suspendCall { e with interrupted := false } p).emit [.selectCall]
  | .cutting | .queued | .suspended => p

/-- A call has been queued: selection where none is active, preemption where the active call is of lower priority
(R86). -/
def afterAdmission (priority : Priority) (p : Part) : Part :=
  match p.calls.active with
  | none => p.emit [.selectCall]
  | some e => if e.priority.num < priority.num then preemptActive e p else p

/-! ### Admission (R86 to R90) -/

/-- What is asked for by a CALL order or a zone's call. -/
structure CallRequest where
  origin    : CallOrigin
  priority  : Priority
  message   : Byte
  lines     : Half
  repeats   : Nat
  continues : Bool
  chime     : Nat
deriving DecidableEq, Repr

inductive Admission where
  | noMessage
  | queueFull
  | merged (id : Nat)
  | queued (id : Nat)
deriving DecidableEq, Repr

/-- The identity test of a merge (R87). -/
def CallRequest.same (q : CallRequest) (e : CallEntry) : Bool :=
  (e.priority == q.priority) && (e.message == q.message) && (e.lines == q.lines)

/-- A new entry (R86). -/
def CallRequest.entry (q : CallRequest) (id : Nat) (waiting : List Lane) : CallEntry :=
  { id := id, origin := q.origin, priority := q.priority, message := q.message, lines := q.lines, repeats := q.repeats,
    repeatsDone := 0, continues := q.continues, chime := q.chime, state := .queued, interrupted := false,
    chimePending := true, cutReason := none, degraded := false, waiting := waiting, chimeLeft := none,
    chimeOnly := false, playSent := false }

/-- Queue a new entry at the tail of its priority's list (R86). -/
def enqueueCall (q : CallRequest) (waiting : List Lane) (p : Part) : Admission × Part :=
  let c := p.calls
  let id := freeId (c.entries.map (fun e => e.id)) 255 c.nextId
  let c' := c.setList (c.list q.priority ++ [q.entry id waiting]) q.priority
  (.queued id, setCalls { c' with nextId := if id = 255 then 1 else id + 1 } p)

/-- Admission (R86 to R88), up to the queueing of the call. `waiting` is the lane whose record is to wait, if any. -/
def admitCall (q : CallRequest) (waiting : List Lane) (p : Part) : Admission × Part :=
  let c := p.calls
  if p.messageLength q.message = 0 then (.noMessage, p)
  else match (c.list q.priority).find? q.same with
    | some e =>
      let e' := { e with repeats := Nat.max e.repeats q.repeats, waiting := e.waiting ++ waiting }
      (.merged e.id,
        setCalls (c.setList ((c.list q.priority).map (fun x => if x.id = e.id then e' else x)) q.priority) p)
    | none =>
      if c.queued < Config.poolPlaces then enqueueCall q waiting p
      else match q.priority, c.routine.getLast? with
        | .routine, _ => (.queueFull, p)
        | _, none => (.queueFull, p)
        | _, some youngest =>
          enqueueCall q waiting (endCall youngest .displaced (setCalls { c with routine := c.routine.dropLast } p))

/-- A call handed over by Zone Control (R90): a refusal sets the zone's call lost flag. -/
def zoneCall (k : ZoneId) (priority : Priority) (message : Byte) (lines : Half) (repeats chime : Nat) (p : Part) : Part :=
  let q : CallRequest :=
    { origin := .zone k, priority := priority, message := message, lines := lines, repeats := repeats,
      continues := false, chime := chime }
  match admitCall q [] p with
  | (.queued _, p1) => afterAdmission priority p1
  | (.merged _, p1) => p1
  | (.noMessage, p1) | (.queueFull, p1) => p1.setZone k { p1.zone k with callLost := true }

/-- The call becomes the last call of the issuing lane (R89). -/
def setLastCall (n : Lane) (id : Nat) (p : Part) : Part :=
  { p with calls := { p.calls with lastCall := setAt p.calls.lastCall n (some id),
                                   lastEnded := setAt p.calls.lastEnded n false } }

/-- CALL at Call Control (R85 to R89). -/
def orderCall (n : Lane) (p : Part) : Part :=
  let r := p.currentBytes n
  let q : CallRequest :=
    { origin := .lane n, priority := callPriority r, message := callMessage r, lines := callLines r,
      repeats := callRepeats r, continues := callContinues r, chime := callChime r }
  let wait := imageWait r
  let refusal := fun code => Result.of code 0 0 (q.lines.setWidth 32)
  match admitCall q (if wait then [n] else []) p with
  | (.noMessage, p1) => p1.emit [.orderEnds n (refusal .noMessage)]
  | (.queueFull, p1) => p1.emit [.orderEnds n (refusal .queueFull)]
  | (.merged id, p1) =>
    let p2 := setLastCall n id p1
    if wait then laneWaits n .action p2
    else
      let done := ((p2.calls.entries.find? (fun e => e.id == id)).map (fun e => e.repeatsDone)).getD 0
      p2.emit [.orderEnds n (Result.of .merged id (word done) (q.lines.setWidth 32))]
  | (.queued id, p1) =>
    let p2 := setLastCall n id p1
    let p3 := if wait then laneWaits n .action p2
              else p2.emit [.orderEnds n (Result.of .started id 0 (q.lines.setWidth 32))]
    afterAdmission q.priority p3

/-! ### CANCEL CALL (R99) -/

/-- The calls that a CANCEL CALL of lane `n` names: the holder of an id, or every call of the lane for id 0. -/
def CallStore.named (c : CallStore) (n : Lane) (id : Nat) : List CallEntry :=
  if id = 0 then c.entries.filter (fun e => e.origin == .lane n) else c.entries.filter (fun e => e.id == id)

/-- Cancel the active call (R99). -/
def cancelActive (e : CallEntry) (p : Part) : Part :=
  match e.state with
  | .playing =>
    if e.playSent then sendCut (setActive (some { e with state := .cutting, cutReason := some .cancel }) p)
    else endActive e .cancelled p
  | .cutting => setActive (some { e with cutReason := some .cancel }) p
  | .chime | .queued | .suspended => endActive e .cancelled p

/-- Cancel one named call by its state (R99). -/
def cancelOne (e : CallEntry) (p : Part) : Part :=
  match e.state with
  | .queued | .suspended => endCall e .cancelled (setCalls (p.calls.remove e.id) p)
  | .chime | .playing | .cutting => cancelActive e p

/-- CANCEL CALL at Call Control (R99): the waiting calls first, then the active one (log entry 29). -/
def orderCancelCall (n : Lane) (p : Part) : Part :=
  let named := p.calls.named n (paramHalf (p.currentBytes n)).toNat
  if named.any (fun e => e.priority == .emergency) && !(p.lane n).bridge then
    p.emit [.orderEnds n (Result.bare .authority)]
  else
    let resting := fun (e : CallEntry) => (e.state == .queued) || (e.state == .suspended)
    let p1 := forEach (named.filter resting ++ named.filter (fun e => !resting e)) cancelOne p
    p1.emit [.orderEnds n { Result.bare .done with first := some (word named.length) }]

/-! ### What the link reports (R97, R106) -/

/-- The link has entered FAULT (R97, R99, R104, R106). -/
def callLinkFault (p : Part) : Part :=
  match p.calls.active with
  | none => p
  | some e =>
    match e.state with
    | .playing => serveChimeOnly e p
    | .cutting =>
      if e.cutReason = some .cancel then endActive e .cancelled p
      else (suspendCall { e with interrupted := true } p).emit [.selectCall]
    | .chime | .queued | .suspended => p

/-- Entry to FAULT with its effect on Call Control (R104). -/
def linkFault (cause : PlayerCause) (p : Part) : Part := callLinkFault (playerFault cause p)

/-- The link has entered READY: a call that waits for it sends PLAY (R94, R106). -/
def callLinkReady (p : Part) : Part :=
  match p.calls.active with
  | some e => if e.state = .playing ∧ e.playSent = false then startRepeat e p else p
  | none => p

/-- ERR (R102). -/
def receiveErr (code : Byte) (p : Part) : Part :=
  match p.player.state with
  | .fault => { p with player := { p.player with cause := .err code } }
  | .unknown | .ready | .playing | .cutting => linkFault (.err code) p

/-- A STARTED or DONE of another message is taken as an ERR (R102); its code is a free value (log entry 10). -/
def receiveStray (p : Part) : Part :=
  let (v, p1) := p.takeOpen
  receiveErr (v.setWidth 8) p1

/-- STARTED (R102): the first in PLAYING; elsewhere it is late and ignored. -/
def receiveStarted (message : Byte) (p : Part) : Part :=
  match p.player.state with
  | .playing =>
    if message ≠ p.player.message then receiveStray p
    else if p.player.startedSeen then p
    else playerStarted p
  | .unknown | .ready | .cutting | .fault => p

/-- A DONE during a cut (R97, R99). -/
def doneInCut (p : Part) : Part :=
  match p.calls.active with
  | some e =>
    if e.state = .cutting then
      (if e.cutReason = some .cancel then endActive e .cancelled p
       else if e.countRepeat.finished then endActive e.countRepeat .done p
       else (suspendCall e.countRepeat p).emit [.selectCall])
    else p
  | none => p

/-- DONE (R102, R94, R97). -/
def receiveDone (message : Byte) (p : Part) : Part :=
  match p.player.state with
  | .playing =>
    if message ≠ p.player.message then receiveStray p
    else
      let p1 := playerReady p
      match p1.calls.active with
      | some e => if e.state = .playing ∧ e.playSent = true then afterRepeat { e.countRepeat with playSent := false } p1 else p1
      | none => p1
  | .cutting =>
    if p.player.message = 0 then p
    else if message ≠ p.player.message then receiveStray p
    else doneInCut (playerDoneInCut p)
  | .unknown | .ready | .fault => p

/-- CUT_DONE (R102, R97, R99). -/
def receiveCutDone (p : Part) : Part :=
  match p.player.state with
  | .cutting =>
    let p1 := playerReady p
    match p1.calls.active with
    | some e =>
      if e.state = .cutting then
        (if e.cutReason = some .cancel then endActive e .cancelled p1
         else (suspendCall { e with interrupted := true } p1).emit [.selectCall])
      else callLinkReady p1
    | none => p1
  | .unknown | .ready | .playing | .fault => p

/-- READY (R102, R104). -/
def receiveReady (p : Part) : Part :=
  match p.player.state with
  | .unknown | .fault => callLinkReady (playerReady p)
  | .ready | .playing | .cutting => p

/-! ### Time (R93, R103 to R105) -/

/-- A deck tick at Call Control: a chime being counted counts it (R93). -/
def callTick (p : Part) : Part :=
  setActive (p.calls.active.map (fun e => { e with chimeLeft := countMark e.chimeLeft })) p

def chimeDue (only : Bool) (p : Part) : Bool :=
  match p.calls.active with
  | some e => (e.state == .chime) && expired e.chimeLeft && (e.chimeOnly == only)
  | none => false

/-- CHIME_END (R93): the demand is withdrawn and the call starts its next repeat. -/
def chimeEnd (p : Part) : Part :=
  match p.calls.active with
  | some e => startRepeat { e with chimeLeft := none } (forEach (linesOf e.lines) withdrawChime p)
  | none => p

/-- CHIME_ONLY_REPEAT_END (R105): the repeat is counted, degraded is set. -/
def chimeOnlyRepeatEnd (p : Part) : Part :=
  match p.calls.active with
  | some e =>
    afterRepeat { e.countRepeat with degraded := true, chimeLeft := none, state := .playing, chimeOnly := false }
      (forEach (linesOf e.lines) withdrawChime p)
  | none => p

/-- A centisecond mark at the Announcement Link (R103, R104). -/
def playerMark (p : Part) : Part :=
  { p with player := { p.player with
      replyTimer := p.player.replyTimer.map (fun t => (t.1, t.2 - 1)),
      probeTimer := countMark p.player.probeTimer } }

def replyTimerDue (p : Part) : Bool :=
  match p.player.replyTimer with
  | some (_, n) => n == 0
  | none => false

/-- REPLY_TIMER_EXPIRY (R103): the link enters FAULT with the timeout kind as its cause. -/
def replyTimerExpiry (p : Part) : Part :=
  match p.player.replyTimer with
  | some (kind, _) => linkFault (.timeout kind) p
  | none => p

def probeTimerDue (p : Part) : Bool := (p.player.state == .fault) && expired p.player.probeTimer

/-- PROBE_TIMER_EXPIRY (R104). -/
def probeTimerExpiry (p : Part) : Part := sendProbe p

/-- A lane's waiting record is no longer waited on by any call (R89). -/
def forgetCallLane (n : Lane) (p : Part) : Part :=
  setCalls (p.calls.mapEntries (fun e => { e with waiting := e.waiting.filter (fun m => m != n) })) p

end Sys2Proof.Machine
end

