-- ==== Sys2Proof/Machine/Profile.lean ====
section
/-! DEFINITION. The profile arithmetic of a mover (02, R39 to R43): pure functions of the plan entry and the motion. -/

namespace Sys2Proof.Machine

/-- A Q8 quantity rounded to the nearest count, halves upward (R31, R42). -/
def roundQ8 (s : Int) : Int := (s + 128) / 256

/-- Bring `x` into `lo..hi`. -/
def clampInt (lo hi x : Int) : Int := max lo (min hi x)

/-- A position brought into [L, U] (R27). -/
def PlanMover.clampPos (pm : PlanMover) (x : Int) : Nat := (clampInt pm.lower pm.upper x).toNat

/-- The direction +1 or -1. -/
def dirOf (up : Bool) : Int := if up then 1 else -1

/-- Vshare of R39. -/
def PlanMover.vshare (pm : PlanMover) (share : Nat) : Nat := Nat.max pm.vc (pm.vmax * share / 100)

/-- The setpoint lies within the approach distance of the limit it moves toward (R39). -/
def PlanMover.nearLimit (pm : PlanMover) (up : Bool) (s : Int) : Bool :=
  if up then decide (256 * (pm.upper : Int) - s ≤ 256 * pm.dapp)
  else decide (s - 256 * (pm.lower : Int) ≤ 256 * pm.dapp)

/-- Vlim of R39. -/
def PlanMover.vlim (pm : PlanMover) (share : Nat) (up : Bool) (s : Int) : Nat :=
  if pm.nearLimit up s then Nat.min (pm.vshare share) pm.vapp else pm.vshare share

/-- The braking distance b of R39. -/
def PlanMover.braking (pm : PlanMover) (v : Nat) : Nat := v * v / (2 * pm.accel)

/-- The remaining distance r of R39. -/
def remaining (target : Nat) (s : Int) : Nat := (256 * (target : Int) - s).natAbs

/-- The new speed and phase (R40), by the first case that applies. `braking` is STOPPING or a reversal pending. -/
def PlanMover.newSpeed (pm : PlanMover) (brakes : Bool) (phase : Phase) (v vlim : Nat) : Nat × Phase :=
  if brakes then (v - pm.accel, phase)
  else if phase = .decel then (Nat.max (v - pm.accel) pm.vc, .decel)
  else if vlim < v then (Nat.max (v - pm.accel) vlim, .cruise)
  else if v < vlim then
    (let v' := Nat.min (v + pm.accel) vlim
     (v', if v' = vlim then .cruise else .accel))
  else (v, .cruise)

/-- The stop latch is taken at the next control step (R35). -/
def Motion.takeLatch (mo : Motion) : Motion :=
  if mo.stopLatch then { mo with target := none, reversal := false, stopLatch := false } else mo

/-- What one run of the profile gives: the motion, the speed v' of the step, and the target with which the mover enters
SETTLING, if it does. -/
structure ProfileRun where
  motion  : Motion
  speed   : Nat
  settles : Option Nat
deriving DecidableEq, Repr

/-- The setpoint brought into the limits (R41). -/
def PlanMover.clampQ8 (pm : PlanMover) (s : Int) : Int := clampInt (256 * pm.lower) (256 * pm.upper) s

/-- The profile of one control step of a MOVING or STOPPING mover (R39 to R41). -/
def PlanMover.profile (pm : PlanMover) (mo0 : Motion) : ProfileRun :=
  let mo := mo0.takeLatch
  let s := mo.setpoint.getD 0
  let v := mo.speed
  let stopping := mo.state == .stopping
  let brakes := stopping || mo.reversal
  let t := mo.target.getD (roundQ8 s).toNat
  let r := remaining t s
  let phase := if !brakes && (mo.phase != .decel) && decide (r ≤ pm.braking v + v) then Phase.decel else mo.phase
  let (v', phase') := pm.newSpeed brakes phase v (pm.vlim mo.share mo.up s)
  let moved := s + dirOf mo.up * v'
  let s' := pm.clampQ8 moved
  let v'' := if s' = moved then v' else 0
  if stopping then
    (if v'' = 0 then
      { motion := { mo with setpoint := some s', speed := 0 }, speed := 0, settles := some (roundQ8 s').toNat }
     else { motion := { mo with setpoint := some s', speed := v'' }, speed := v'', settles := none })
  else if mo.reversal then
    (if v'' = 0 then
      (if remaining t s' = 0 then
        { motion := { mo with setpoint := some s', speed := 0, reversal := false }, speed := 0, settles := some t }
       else
        { motion := { mo with setpoint := some s', speed := 0, reversal := false, phase := .accel,
                              up := decide (s' < 256 * (t : Int)) }, speed := 0, settles := none })
     else { motion := { mo with setpoint := some s', speed := v'' }, speed := v'', settles := none })
  else if r ≤ v' then
    { motion := { mo with setpoint := some (256 * (t : Int)), speed := 0, phase := phase' }, speed := v',
      settles := some t }
  else
    { motion := { mo with setpoint := some s', speed := v'', phase := phase' }, speed := v'', settles := none }

/-- A held step of a pair (R47): the setpoint stands, the speed becomes 0, a DECEL phase stays. -/
def Motion.hold (mo0 : Motion) : Motion :=
  let mo := mo0.takeLatch
  { mo with speed := 0, phase := if mo.phase = .decel then .decel else .accel }

/-- A pending target applied at the start of a step (R43). The second component is the target with which the mover
enters SETTLING in this step. -/
def PlanMover.applyPending (pm : PlanMover) (mo : Motion) (pt : PendingTarget) : Motion × Option Nat :=
  let s := mo.setpoint.getD 0
  let t : Int := 256 * (pt.target : Int)
  let mo1 := { mo with target := some pt.target, share := pt.share, pending := none }
  if t = s then
    (if mo.speed = 0 then ({ mo1 with reversal := false }, some pt.target) else ({ mo1 with reversal := true }, none))
  else if decide (s < t) == mo.up then
    ({ mo1 with reversal := false,
                phase := if remaining pt.target s ≤ pm.braking mo.speed + mo.speed then .decel else .accel }, none)
  else ({ mo1 with reversal := true }, none)

/-- The valve command (R42), clamped to -1000..+1000. `feed` is 0 in SETTLING and in a held step. -/
def PlanMover.valveOf (pm : PlanMover) (error : Int) (up : Bool) (feed : Nat) : Int :=
  clampInt (-1000) 1000
    (Int.tdiv (pm.kp * error) 16 + Int.tdiv (pm.kf * dirOf up * feed) 4096)

end Sys2Proof.Machine
end

