-- ==== Sys2Proof/Machine/Movers.lean ====
section
/-! DEFINITION. Mover Control (02): orders, stop requests, return drives, the control step, local mode and faults. -/

namespace Sys2Proof.Machine

/-! ### The shared motion of a pair (R46) -/

/-- Set the motion of a mover, both ends of a pair alike (R46). -/
def setMotion (m : MoverId) (mo : Motion) (p : Part) : Part :=
  forEach (p.ends m) (fun e q => q.setMover e { q.mover e with motion := mo }) p

/-- Change what each end of a mover holds for itself. -/
def mapEnds (m : MoverId) (f : Mover → Mover) (p : Part) : Part :=
  forEach (p.ends m) (fun e q => q.setMover e (f (q.mover e))) p

def Part.motion (p : Part) (m : MoverId) : Motion := (p.mover m).motion

/-- The plan entry whose profile a mover runs: that of its leading end (R25). -/
def Part.profilePlan (p : Part) (m : MoverId) : PlanMover := p.planMover (p.leader m)

/-- The measured position from which clamp(p) is formed; for a pair the floor of the mean (R46). -/
def Part.restPosition (p : Part) (m : MoverId) : Int :=
  match p.partner m with
  | some q => (((p.mover m).position : Int) + (p.mover q).position) / 2
  | none => (p.mover m).position

/-- clamp(p) of R27, in counts. -/
def Part.restCount (p : Part) (m : MoverId) : Nat := (p.profilePlan m).clampPos (p.restPosition m)

/-! ### Results of mover orders (R30, R34; log entry 21) -/

/-- The result of lane `n`'s mover order: the index it names, that mover's measured position, and the last target or,
where there is none, the setpoint sent. -/
def moverResult (n : Lane) (code : ResultCode) (flags : Byte) (target : Option Nat) (p : Part) : Result :=
  let m := paramMover (p.currentBytes n)
  Result.of code m.val (word (p.mover m).position) (word (target.getD (p.mover m).sent)) flags

/-- A refusal whose second value is an index or a cause. -/
def moverRefusal (n : Lane) (code : ResultCode) (second : Option Nat) (p : Part) : Result :=
  match second with
  | some x => { moverResult n code 0 none p with second := some (word x) }
  | none => moverResult n code 0 (p.motion (paramMover (p.currentBytes n))).target p

/-! ### Changes of state -/

/-- How the waiting record of a motion ends (Table 2-6), with the last target. -/
structure Ending where
  code   : ResultCode
  flags  : Byte
  target : Option Nat
deriving DecidableEq, Repr

/-- The reports that a change of mover state makes (R54): the set that holds doors back, the abort cause, the steady
report. For a pair one report is made. -/
def moverReports (m : MoverId) (before after : MoverState) (p : Part) : List Act :=
  (if before.inMotionSet == after.inMotionSet then [] else [.moversClear (p.moverZone m)]) ++
  (if before ≠ after ∧ (after = .faulted ∨ after = .localMode) then [.faultReport (p.entryOfMover m)] else []) ++
  (if before ≠ after ∧ after.steady = true then [.steadyReport (p.entryOfMover m)] else [])

/-- Give a mover a new motion. With an ending, its waiting record retires so (Table 2-6). -/
def moverTo (m : MoverId) (mo : Motion) (ending : Option Ending) (p : Part) : Part :=
  let before := p.motion m
  let p1 := setMotion m (if ending.isSome then { mo with waiting := none } else mo) p
  let ends := match ending, before.waiting with
    | some e, some n => [Act.orderEnds n (moverResult n e.code e.flags e.target p1)]
    | _, _ => []
  p1.emit (ends ++ moverReports m before.state mo.state p1)

/-- The motion of a mover at rest in IDLE with setpoint 256 times `c` (R28). -/
def Motion.atRest (mo : Motion) (c : Nat) : Motion :=
  { mo with state := .idle, cause := none, reversal := false, setpoint := some (256 * (c : Int)), speed := 0,
            target := none, pending := none, stopLatch := false, floatAlarm := false, brakeJudged := false,
            brakeTimer := none, settleTimer := none }

/-- What each end holds in IDLE (R28). -/
def Mover.atRest (c : Nat) (x : Mover) : Mover :=
  { x with sent := c, valve := 0, followRun := 0, settleRun := 0, endJudged := false }

/-- Entry to IDLE: the setpoint becomes 256·clamp(p) (R35, R45, R51). -/
def enterIdle (m : MoverId) (ending : Option Ending) (p : Part) : Part :=
  let c := p.restCount m
  moverTo m ((p.motion m).atRest c) ending (mapEnds m (Mover.atRest c) p)

/-- A motion that has ended without a setpoint, in LOCAL or FAULTED (R51, R52). -/
def Motion.ended (mo : Motion) (state : MoverState) (cause : Option MoverCause) : Motion :=
  { mo with state := state, cause := cause, reversal := false, setpoint := none, speed := 0, target := none,
            pending := none, stopLatch := false, floatAlarm := false, brakeJudged := false, brakeTimer := none,
            settleTimer := none }

/-- Entry to FAULTED (R52). A FAULTED mover keeps its first cause. -/
def enterFault (m : MoverId) (cause : MoverCause) (p : Part) : Part :=
  let mo := p.motion m
  if mo.state = .faulted then p
  else
    moverTo m (mo.ended .faulted (some cause)) (some { code := .failed, flags := 0, target := mo.target })
      (mapEnds m (fun x => { x with valve := 0, endJudged := false }) p)

/-- Entry to LOCAL (R51). -/
def enterLocal (m : MoverId) (p : Part) : Part :=
  let mo := p.motion m
  moverTo m (mo.ended .localMode none) (some { code := .localMode, flags := 0, target := mo.target })
    (mapEnds m (fun x => { x with valve := 0, endJudged := false }) p)

/-- The motion of a mover that settles at target `t` (R41). -/
def Motion.settlingAt (mo : Motion) (t limit : Nat) : Motion :=
  { mo with state := .settling, reversal := false, speed := 0, target := some t, pending := none, stopLatch := false,
            floatAlarm := false, settleTimer := some limit }

/-- Entry to SETTLING with target `t` (R41). A settle time limit of 0 ends the motion INEXACT at once (R45). -/
def enterSettling (m : MoverId) (mo : Motion) (t : Nat) (p : Part) : Part :=
  let limit := (p.profilePlan m).settleLimit
  let p1 := moverTo m (mo.settlingAt t limit) none (mapEnds m (fun x => { x with sent := t, settleRun := 0 }) p)
  if limit = 0 then
    enterIdle m (some { code := .done, flags := flagInexact, target := some t }) p1
  else p1

/-! ### MOVE (R29 to R33, R49, R50) -/

/-- The unclamped target of R31, from the setpoint `s`. -/
def PlanMover.rawTarget (pm : PlanMover) (mode : Nat) (value s : Int) : Int :=
  match mode with
  | 0 => value
  | 1 => roundQ8 s + value
  | _ => (pm.presets.toList.getD (value.toNat - 1) 0 : Nat)

/-- Position `x` lies within `tolerance` of `y`. -/
def within (x y tolerance : Nat) : Bool := decide (((x : Int) - y).natAbs ≤ tolerance)

/-- Mover `q` stands IDLE within `tolerance` of its preset number `preset` (R30, tests 3 and 4). -/
def Part.standsAt (p : Part) (q : MoverId) (preset tolerance : Nat) : Bool :=
  ((p.motion q).state == .idle) &&
    within (p.mover q).position ((p.profilePlan q).presets.toList.getD (preset - 1) 0) tolerance

/-- Test 3 of Table 2-5: the prerequisite that fails. -/
def Part.failedPrerequisite (p : Part) (m : MoverId) : Option MoverId :=
  let pm := p.profilePlan m
  match pm.prerequisite with
  | some q => if p.standsAt q pm.prePreset pm.preTolerance then none else some q
  | none => none

/-- Test 4 of Table 2-5: the first dependent that fails, by index (log entry 45). -/
def Part.failedDependent (p : Part) (m : MoverId) : Option MoverId :=
  (List.finRange 8).find? (fun e =>
    (p.planMover e).enabled && (p.leader e == e) &&
    ((p.planMover e).prerequisite.map p.leader == some (p.leader m)) &&
    !p.standsAt e 1 (p.planMover e).preTolerance)

/-- Test 2 of Table 2-5. -/
def Part.insideLimits (p : Part) (m : MoverId) : Bool :=
  let pm := p.profilePlan m
  (p.ends m).all (fun e => decide (pm.lower ≤ (p.mover e).position ∧ (p.mover e).position ≤ pm.upper))

/-- Test 5 of Table 2-5: a door of the mover's zone is CLOSING. -/
def Part.doorClosingIn (p : Part) (k : ZoneId) : Bool := (p.zoneDoors k).any (fun d => (p.door d).state == .closing)

/-- What a MOVE or a return drive comes to. -/
inductive Verdict where
  | refused (code : ResultCode) (second : Option Nat)
  | zero
  | starts (target : Nat)
  | settles (target : Nat)
  | leavesFloat (target : Nat)
  | retargets (target : Nat)
deriving DecidableEq, Repr

/-- The verdict, and whether computing the target clamped it (R31). -/
structure Judged where
  verdict : Verdict
  clamped : Bool
deriving DecidableEq, Repr

/-- The tests of Table 2-5, the target and the distance, for a mover in IDLE or FLOATING (R30, R31, R50). -/
def Part.judgeFromRest (p : Part) (m : MoverId) (floating : Bool) (mode : Nat) (value : Int) : Judged :=
  let pm := p.profilePlan m
  let no := fun code second => { verdict := Verdict.refused code second, clamped := false : Judged }
  if (p.zone (p.moverZone m)).state ≠ .loading then no .zoneState none
  else if !floating && !p.insideLimits m then no .outOfLimits none
  else match p.failedPrerequisite m with
    | some q => no .prerequisite (some q.val)
    | none =>
      match p.failedDependent m with
      | some q => no .dependent (some q.val)
      | none =>
        if p.doorClosingIn (p.moverZone m) then no .busy none
        else
          let s : Int := if floating then 256 * (p.restCount m : Int) else (p.motion m).setpoint.getD 0
          let raw := pm.rawTarget mode value s
          let t := pm.clampPos raw
          let clamped := decide ((t : Int) ≠ raw)
          if (pm.kind != .panelEnd) && decide (256 * (t : Int) < s) && (p.mover m).toeBroken then
            { verdict := .refused .blocked none, clamped := clamped }
          else if 256 * (t : Int) = s then
            { verdict := if floating then .settles t else .zero, clamped := clamped }
          else { verdict := if floating then .leavesFloat t else .starts t, clamped := clamped }

/-- What a MOVE comes to in the mover's state (R30, R33, R50). -/
def Part.judgeMove (p : Part) (m : MoverId) (mode : Nat) (value : Int) : Judged :=
  let mo := p.motion m
  let pm := p.profilePlan m
  match mo.state with
  | .idle => p.judgeFromRest m false mode value
  | .floating =>
    if mo.brakeJudged then p.judgeFromRest m true mode value
    else { verdict := .refused .busy none, clamped := false }
  | .moving =>
    if (p.zone (p.moverZone m)).state ≠ .loading then { verdict := .refused .zoneState none, clamped := false }
    else
      let raw := pm.rawTarget mode value (mo.setpoint.getD 0)
      let t := pm.clampPos raw
      { verdict := .retargets t, clamped := decide ((t : Int) ≠ raw) }
  | .localMode => { verdict := .refused .localMode none, clamped := false }
  | .faulted | .offline => { verdict := .refused .faulted none, clamped := false }
  | .releasing | .stopping | .settling => { verdict := .refused .busy none, clamped := false }

/-- The motion of a MOVE accepted on an IDLE mover (R31, R32). -/
def Motion.released (mo : Motion) (t share brakeTime : Nat) (waiting : Option Lane) : Motion :=
  { mo with state := .releasing, target := some t, share := share,
            up := decide (mo.setpoint.getD 0 < 256 * (t : Int)), reversal := false, brakeJudged := false,
            brakeTimer := startTimer brakeTime, waiting := waiting }

/-- The motion of a MOVE accepted on a FLOATING ramp that stands at count `c` (R50). -/
def Motion.unfloated (mo : Motion) (c t share : Nat) (waiting : Option Lane) : Motion :=
  { mo with state := .moving, phase := .accel, reversal := false, setpoint := some (256 * (c : Int)), speed := 0,
            target := some t, share := share, up := decide (c < t), floatAlarm := false, waiting := waiting }

/-- Carry out an accepted verdict (R31 to R33, R50). A refusal and a zero distance change nothing. -/
def applyVerdict (m : MoverId) (v : Verdict) (share : Nat) (waiting : Option Lane) (p : Part) : Part :=
  let mo := p.motion m
  let pm := p.profilePlan m
  match v with
  | .refused _ _ | .zero => p
  | .starts t =>
    moverTo m (mo.released t share pm.brakeTime waiting) none
      (mapEnds m (fun x => { x with followRun := 0, endJudged := false }) p)
  | .settles t =>
    let c := p.restCount m
    enterSettling m { mo with setpoint := some (256 * (c : Int)), share := share, waiting := waiting } t
      (setMotion m { mo with waiting := waiting } (mapEnds m (fun x => { x with followRun := 0 }) p))
  | .leavesFloat t =>
    let c := p.restCount m
    moverTo m (mo.unfloated c t share waiting) none (mapEnds m (fun x => { x with followRun := 0, sent := c }) p)
  | .retargets t =>
    let ends := match mo.waiting with
      | some n => [Act.orderEnds n (moverResult n .superseded 0 mo.target p)]
      | none => []
    (setMotion m { mo with pending := some { target := t, share := share }, waiting := waiting } p).emit ends

/-- MOVE at Mover Control (R29 to R34). A retarget shows the target in force, since its own is not yet applied (log entry
40). -/
def orderMove (n : Lane) (p : Part) : Part :=
  let r := p.currentBytes n
  let m := paramMover r
  let j := p.judgeMove m (moveMode r) (moveValue r)
  let p0 := whenTrue j.clamped (markClamped n) p
  match j.verdict with
  | .refused code second => p0.emit [.orderEnds n (moverRefusal n code second p0)]
  | .zero => p0.emit [.orderEnds n (moverResult n .done 0 none p0)]
  | .retargets _ =>
    let p1 := applyVerdict m j.verdict (moveShare r) (if imageWait r then some n else none) p0
    startedOrWaits n (moverResult n .started 0 (p0.motion m).target p0) p1
  | .starts t | .settles t | .leavesFloat t =>
    let p1 := startedOrWaits n (moverResult n .started 0 (some t) p0) p0
    applyVerdict m j.verdict (moveShare r) (if imageWait r then some n else none) p1

/-- A return drive of the Claim Table (R33, R166): a MOVE ABSOLUTE with share 100 and no waiting record, whose outcome
goes to the entry's return status. One of zero distance is MET at once, from FLOATING too, where it settles (R50). -/
def moverReturn (m : MoverId) (position : Nat) (p : Part) : Part :=
  let e := p.entryOfMover m
  let v := (p.judgeMove m 0 position).verdict
  let status : ReturnStatus := match v with
    | .refused .zoneState _ => .zoneLimited
    | .refused _ _ => .incomplete
    | .zero | .settles _ => .met
    | .starts _ | .leavesFloat _ | .retargets _ => .underWay
  let p1 := applyVerdict m v 100 none (markReturn e status p)
  p1.emit (abortTestOf p1 e)

/-! ### Stopping (R35 to R37) -/

/-- A stop request (R35). A return under way that it ends becomes ZONE_LIMITED where a zone raised it, INCOMPLETE
otherwise (R166). -/
def moverStop (m : MoverId) (byZone : Bool) (p : Part) : Part :=
  let mo := p.motion m
  let stopped : Option Ending := some { code := .stopped, flags := 0, target := mo.target }
  let status : ReturnStatus := if byZone then .zoneLimited else .incomplete
  match mo.state with
  | .releasing => enterIdle m stopped (endReturn (p.entryOfMover m) status p)
  | .moving =>
    moverTo m { mo with state := .stopping, stopLatch := true, pending := none } stopped
      (endReturn (p.entryOfMover m) status p)
  | .offline | .idle | .stopping | .settling | .floating | .localMode | .faulted => p

/-- Make lane `n`'s current record the waiting record of a mover. -/
def setWaiting (m : MoverId) (waiting : Option Lane) (p : Part) : Part :=
  setMotion m { p.motion m with waiting := waiting } p

/-- STOP MOVER at Mover Control (R36). -/
def orderStopMover (n : Lane) (p : Part) : Part :=
  let r := p.currentBytes n
  let m := paramMover r
  let mo := p.motion m
  let wait := imageWait r
  match mo.state with
  | .releasing =>
    let p1 := moverStop m false p
    p1.emit [.orderEnds n (moverResult n (if wait then .done else .started) 0 mo.target p1)]
  | .moving =>
    let p1 := moverStop m false p
    startedOrWaits n (moverResult n .started 0 mo.target p1) (whenTrue wait (setWaiting m (some n)) p1)
  | .stopping | .settling =>
    startedOrWaits n (moverResult n .started 0 mo.target p) (whenTrue wait (setWaiting m (some n)) p)
  | .idle => p.emit [.orderEnds n (moverResult n .done 0 none p)]
  | .floating =>
    let p1 := enterIdle m (some { code := .stopped, flags := 0, target := none }) p
    p1.emit [.orderEnds n (moverResult n .done 0 none p1)]
  | .localMode => p.emit [.orderEnds n (moverRefusal n .localMode none p)]
  | .faulted | .offline => p.emit [.orderEnds n (moverRefusal n .faulted none p)]

/-! ### FLOAT RAMP and CLEAR MOVER FAULT (R49, R53) -/

/-- FLOAT RAMP at Mover Control (R49). -/
def orderFloatRamp (n : Lane) (p : Part) : Part :=
  let r := p.currentBytes n
  let m := paramMover r
  let mo := p.motion m
  let pm := p.planMover m
  let no := fun code => p.emit [.orderEnds n (moverRefusal n code none p)]
  if pm.kind ≠ .ramp then no .badRecord
  else match mo.state with
    | .localMode => no .localMode
    | .faulted | .offline => no .faulted
    | .floating => p.emit [.orderEnds n (moverResult n .done 0 none p)]
    | .releasing | .moving | .stopping | .settling => no .busy
    | .idle =>
      if (p.zone (p.moverZone m)).state ≠ .loading then no .zoneState
      else if pm.lower + pm.floatWindow < (p.mover m).position then no .outOfLimits
      else
        let wait := imageWait r
        let mo' := { mo with state := .floating, setpoint := none, brakeJudged := false,
                             brakeTimer := startTimer pm.brakeTime, waiting := if wait then some n else none }
        let p1 := startedOrWaits n (moverResult n .started 0 none p) p
        moverTo m mo' none (mapEnds m (fun x => { x with endJudged := false }) p1)

/-- The distance between the ends of a pair; 0 for a mover that is none. -/
def Part.skew (p : Part) (m : MoverId) : Nat :=
  match p.partner m with
  | some q => (((p.mover m).position : Int) - (p.mover q).position).natAbs
  | none => 0

/-- The station of a mover (Table 0-3: stations 0..7). -/
def moverStation (m : MoverId) : StationId := ⟨m.val, by omega⟩

/-- The tests of CLEAR MOVER FAULT (R53). -/
def Part.faultClears (p : Part) (m : MoverId) : Bool :=
  (p.ends m).all (fun e => ((p.station (moverStation e)).state == .online) && !(p.mover e).faultReported) &&
    ((p.partner m).isNone || decide (p.skew m ≤ (p.profilePlan m).sfault))

/-- CLEAR MOVER FAULT at Mover Control (R53). A refusal's second value is the cause code of Table 2-3. The record retires
before the reports of the mover's new state are taken (log entry 8). -/
def orderClearMoverFault (n : Lane) (p : Part) : Part :=
  let m := paramMover (p.currentBytes n)
  let mo := p.motion m
  if mo.state ≠ .faulted then p.emit [.orderEnds n (moverResult n .done 0 mo.target p)]
  else if !p.faultClears m then
    p.emit [.orderEnds n (moverRefusal n .faulted (some ((mo.cause.map (fun c => c.num + 1)).getD 0)) p)]
  else
    let p1 := if (p.ends m).any (fun e => (p.mover e).localReported) then enterLocal m p else enterIdle m none p
    p1.retireFirst n (moverResult n .done 0 none p1)

/-! ### Timers and station loss (R32, R45, R52) -/

/-- BRAKE_TIMER_EXPIRY: the brake may be judged from now on (R32). -/
def brakeTimerExpiry (m : MoverId) (p : Part) : Part := setMotion m { p.motion m with brakeTimer := none } p

/-- SETTLE_TIMER_EXPIRY (R45): the motion ends INEXACT. -/
def settleTimerExpiry (m : MoverId) (p : Part) : Part :=
  enterIdle m (some { code := .done, flags := flagInexact, target := (p.motion m).target }) p

/-- The mover's station is lost (R52); a return under way ends with the steady report. -/
def moverLost (m : MoverId) (p : Part) : Part := enterFault m .link p

/-! ### The control step (R38) -/

/-- Step 1: store the reply of one end. On a miss the position is that of the station record's last reply (R176). -/
def storeReply (m : MoverId) (p : Part) : Part :=
  let x := p.mover m
  match x.step with
  | some { reply := some r, .. } =>
    p.setMover m { x with position := r.position, brakeReleased := r.brakeReleased, toeBroken := r.toeBroken,
                          localReported := r.localMode, faultReported := r.stationFault }
  | some { reply := none, .. } => p.setMover m { x with position := (p.station (moverStation m)).position }
  | none => p

/-- The replies that the ends of a mover have in this control step. -/
def Part.stepReplies (p : Part) (m : MoverId) : List MoverReply :=
  (p.ends m).filterMap (fun e => (p.mover e).step.bind (fun i => i.reply))

/-- Every station of a mover has given a valid reply (R48). -/
def Part.allAnswered (p : Part) (m : MoverId) : Bool :=
  (p.ends m).all (fun e => (p.station (moverStation e)).state != .unknown)

/-- The stored local flag, or the stored station fault flag, of any end. -/
def Part.anyLocal (p : Part) (m : MoverId) : Bool := (p.ends m).any (fun e => (p.mover e).localReported)
def Part.anyStationFault (p : Part) (m : MoverId) : Bool := (p.ends m).any (fun e => (p.mover e).faultReported)

/-- Step 2 (R27, R48, R51, R52): local mode first, then a station fault (log entry 16). The Bool says that the step
goes on. -/
def stepLocal (m : MoverId) (p : Part) : Part × Bool :=
  let replies := p.stepReplies m
  let answered := !replies.isEmpty
  match (p.motion m).state with
  | .faulted => (p, false)
  | .localMode =>
    if answered && !p.anyLocal m then
      (if p.anyStationFault m then (enterFault m .station p, false) else (enterIdle m none p, true))
    else (p, false)
  | .offline =>
    if answered && p.allAnswered m then
      (if p.anyLocal m then (enterLocal m p, false)
       else if p.anyStationFault m then (enterFault m .station p, false)
       else (enterIdle m none p, true))
    else (p, false)
  | .idle | .releasing | .moving | .stopping | .settling | .floating =>
    if replies.any (fun r => r.localMode) then (enterLocal m p, false)
    else if replies.any (fun r => r.stationFault) then (enterFault m .station p, false)
    else (p, true)

/-- The end of step 2: in MOVING, a pending target is applied (R43). -/
def stepPending (m : MoverId) (p : Part) : Part :=
  let mo := p.motion m
  match mo.state, mo.pending with
  | .moving, some pt =>
    match (p.profilePlan m).applyPending mo pt with
    | (mo', none) => setMotion m mo' p
    | (mo', some t) => enterSettling m mo' t p
  | _, _ => p

/-- The brake judgement of one end at this step (R32): `some true` released, `some false` engaged. -/
def Part.brakeJudgement (p : Part) (m : MoverId) (e : MoverId) : Option Bool :=
  if (p.motion m).brakeTimer.isSome then none
  else match (p.mover e).step with
    | some { reply := some r, released := true } => some r.brakeReleased
    | _ => none

/-- Step 3: the brake (R32, R49, R52). -/
def stepBrake (m : MoverId) (p : Part) : Part :=
  let mo := p.motion m
  let judging := (mo.state == .releasing) || ((mo.state == .floating) && !mo.brakeJudged)
  let holding := (mo.state == .moving) || (mo.state == .stopping) || (mo.state == .settling) ||
    ((mo.state == .floating) && mo.brakeJudged)
  if judging then
    (if (p.ends m).any (fun e => p.brakeJudgement m e == some false) then enterFault m .brake p
     else
       let p1 := forEach (p.ends m)
         (fun e q => if p.brakeJudgement m e = some true then q.setMover e { q.mover e with endJudged := true } else q) p
       if (p1.ends m).all (fun e => (p1.mover e).endJudged) then
         (if mo.state = .releasing then
           moverTo m { mo with state := .moving, phase := .accel, speed := 0, reversal := false, brakeJudged := true }
             none p1
          else moverTo m { mo with brakeJudged := true } (some { code := .done, flags := 0, target := none }) p1)
       else p1)
  else if holding && (p.stepReplies m).any (fun r => !r.brakeReleased) then enterFault m .brake p
  else p

/-- Step 4: the toe beam (R37). -/
def stepToeBeam (m : MoverId) (p : Part) : Part :=
  let mo := p.motion m
  let broken := (p.stepReplies m).any (fun r => r.toeBroken) && ((p.planMover m).kind != .panelEnd)
  let downward := match mo.state, mo.target with
    | .releasing, some t => decide (256 * (t : Int) < mo.setpoint.getD 0)
    | .moving, _ => !mo.up
    | _, _ => false
  if broken && downward then moverStop m false p else p

/-- Step 5: IDLE tracking (R28) and the float range (R50). -/
def stepTrack (m : MoverId) (p : Part) : Part :=
  let mo := p.motion m
  match mo.state with
  | .idle =>
    let c := p.restCount m
    setMotion m (mo.atRest c) (mapEnds m (Mover.atRest c) p)
  | .floating =>
    if (p.stepReplies m).isEmpty then p
    else
      let pm := p.planMover m
      let x := (p.mover m).position
      setMotion m { mo with floatAlarm := decide (x < pm.floatMin ∨ pm.floatMax < x) } p
  | .offline | .releasing | .moving | .stopping | .settling | .localMode | .faulted => p

/-- Step 6: the skew test of a pair (R47) and the profile (R39 to R41). The second component is the speed v' of the
step, 0 where no profile ran. -/
def stepProfile (m : MoverId) (p : Part) : Part × Nat :=
  let mo := p.motion m
  let pm := p.profilePlan m
  let running := (mo.state == .moving) || (mo.state == .stopping)
  if (running || (mo.state == .settling)) && (p.partner m).isSome && decide (pm.sfault < p.skew m) then
    (enterFault m .skew p, 0)
  else if running then
    (if (p.partner m).isSome && decide (pm.shold < p.skew m) then (setMotion m mo.hold p, 0)
     else
       let run := pm.profile mo
       match run.settles with
       | some t => (enterSettling m run.motion t p, 0)
       | none =>
         (setMotion m run.motion
           (mapEnds m (fun x => { x with sent := (roundQ8 (run.motion.setpoint.getD 0)).toNat }) p), run.speed))
  else (p, 0)

/-- The position error of one end (R38, step 7). -/
def Mover.error (x : Mover) : Int := (x.sent : Int) - x.position

/-- The mover is in a state whose position error is tested (R44). -/
def Motion.tested (mo : Motion) : Bool :=
  (mo.state == .moving) || (mo.state == .stopping) || (mo.state == .settling)

/-- Step 7: the following test (R44), then the settle test of a mover that was SETTLING when the step began (R45). -/
def stepTests (m : MoverId) (wasSettling : Bool) (p : Part) : Part :=
  if !(p.motion m).tested then p
  else
    let p1 := forEach (p.ends m) (fun e q =>
      let x := q.mover e
      let exceeds := decide ((q.planMover e).efollow < x.error.natAbs)
      q.setMover e { x with followRun := if exceeds then Nat.min 8 (x.followRun + 1) else 0 }) p
    if (p1.ends m).any (fun e => (p1.mover e).followRun == 8) then enterFault m .following p1
    else if wasSettling && ((p1.motion m).state == .settling) then
      (let p2 := forEach (p1.ends m) (fun e q =>
        let x := q.mover e
        let inside := decide (x.error.natAbs ≤ (q.planMover e).etol)
        q.setMover e { x with settleRun := if inside then Nat.min 4 (x.settleRun + 1) else 0 }) p1
       if (p2.ends m).all (fun e => (p2.mover e).settleRun == 4) then
         enterIdle m (some { code := .done, flags := 0, target := (p2.motion m).target }) p2
       else p2)
    else p1

/-- Step 8: the valve commands of the next poll (R42). -/
def stepValve (m : MoverId) (speed : Nat) (p : Part) : Part :=
  let mo := p.motion m
  let feed := if mo.state = .settling then 0 else speed
  forEach (p.ends m) (fun e q =>
    let x := q.mover e
    q.setMover e { x with valve := if mo.tested then (q.planMover e).valveOf x.error mo.up feed else 0 }) p

/-- The control step of a mover, once every end has its input (R38, R46). -/
def controlStep (m : MoverId) (p : Part) : Part :=
  let wasSettling := (p.motion m).state == .settling
  let p1 := forEach (p.ends m) storeReply p
  let (p2, goesOn) := stepLocal m p1
  let p3 :=
    if goesOn then
      (let (p4, speed) := stepProfile m (stepTrack m (stepToeBeam m (stepBrake m (stepPending m p2))))
       stepValve m speed (stepTests m wasSettling p4))
    else p2
  mapEnds m (fun x => { x with step := none }) p3

/-- The outcome of one end's exchange (R46): the step runs when the mover's last end has its input. `waitsFor` says
that another end's exchange of this field cycle is still to come. -/
def moverInput (m : MoverId) (input : StepInput) (waitsFor : Bool) (p : Part) : Part :=
  let p1 := p.setMover m { p.mover m with step := some input }
  if waitsFor then p1 else controlStep m p1

end Sys2Proof.Machine
end

