-- ==== Sys2Proof/Machine/Records.lean ====
section
/-! DEFINITION. Records in a lane's hands (06, R126, R127; 07, R141 to R143): the result block, retirement, following a
link and stopping. -/

namespace Sys2Proof.Machine

/-! ### The result block (R127) -/

/-- A 16-bit value of a result, or a free value where the spec gives none (log entry 10). -/
def takeHalf (v : Option Half) (p : Part) : Half × Part :=
  match v with
  | some h => (h, p)
  | none => (p.takeOpen.1.setWidth 16, p.takeOpen.2)

/-- A 32-bit value of a result, or a free value where the spec gives none (log entry 10). -/
def takeWord (v : Option Word) (p : Part) : Word × Part :=
  match v with
  | some w => (w, p)
  | none => p.takeOpen

/-- The byte of a centisecond count. -/
def centisByte (t : Stamp) : Byte := BitVec.ofNat 8 t.centis

/-- The writes of a result block and of the finished time, in the order of R127. -/
def resultCells (link : Half) (block : List Byte) (finished : Stamp) : List Host.Cell :=
  cellsFrom (slotBase link + 36) block ++ cellsFrom (slotBase link + 52) (wordBytes finished.seconds) ++
    cellsFrom (slotBase link + 57) [centisByte finished]

/-- The writes of a retirement (R127): the result block, the finished time, and RETIRED over ACTIVE last. -/
def retireRecord (held : HeldRecord) (r : Result) (p : Part) : Part :=
  let (detail, p1) := takeHalf r.detail p
  let (first, p2) := takeWord r.first p1
  let (second, p3) := takeWord r.second p2
  let flags := if held.clamped then r.flags ||| flagClamped else r.flags
  let block := [r.code.byte, flags] ++ halfBytes detail ++ wordBytes first ++ wordBytes second
  let p4 := { p3 with writes := p3.writes ++ resultCells held.link block p.now }
  if held.standing then p4 else p4.write (slotBase held.link) [ownerRetired]

/-- The board slot of a lane (Table 6-7). -/
def laneSlot (n : Lane) : SlotId := ⟨n.val, by omega⟩

/-- A lane retires a record (R141): the writes, the count, the anchor, and the slot where NOTIFY is set. -/
def laneRetires (n : Lane) (held : HeldRecord) (r : Result) (p : Part) : Part :=
  let p1 := retireRecord held r p
  let ctx := p1.lane n
  let p2 := p1.setLane n { ctx with retired := ctx.retired + 1, anchor := .record held.link }
  whenTrue held.notify (fun q => q.forceSlot (laneSlot n)) p2

/-- The lane has no current record any more and waits for nothing. -/
def dropCurrent (n : Lane) (p : Part) : Part :=
  p.setLane n { p.lane n with current := none, waitKind := none, holdTimer := none }

/-- The current record retires; where the lane goes on is not settled here. -/
def retireCurrent (n : Lane) (r : Result) (p : Part) : Part :=
  match (p.lane n).current with
  | some held => dropCurrent n (laneRetires n held r p)
  | none => p

/-! ### Cut short by a soft reset (R134; log entry 44) -/

/-- The records that the lanes hold: each lane's current record and the GROUP OPEN records of its nest. -/
def Part.heldRecords (p : Part) : List HeldRecord :=
  (List.finRange 4).flatMap (fun n => (p.lane n).current.toList ++ (p.lane n).nest.map (fun l => l.record))

/-- The result codes of Table 6-5. -/
def resultCodes : List ResultCode :=
  [.done, .started, .merged, .condition, .badRecord, .noPlan, .authority, .mismatch, .zoneState, .busy, .notClaimed,
   .claimTimeout, .faulted, .localMode, .prerequisite, .dependent, .outOfLimits, .queueFull, .displaced, .superseded,
   .cancelled, .stopped, .failed, .blocked, .expired, .signalled, .aborted, .alarmPresent, .fireLatched, .noMessage,
   .planInvalid, .nestedDetour]

/-- The first `words` words that a retirement of a held record writes before its owner. Which record it is, if any, and its
result are free values. -/
def cutRetirement (p : Part) : List Host.Cell × Part :=
  let (which, p1) := p.takeOpen
  let (words, p2) := p1.takeOpen
  let (head, p3) := p2.takeOpen
  let (first, p4) := p3.takeOpen
  let (second, p5) := p4.takeOpen
  match p.heldRecords[which.toNat]? with
  | some held =>
    let code := resultCodes.getD (head.toNat % 256) .done
    let block := [code.byte, (head >>> 8).setWidth 8 &&& 0x1F] ++ halfBytes ((head >>> 16).setWidth 16) ++ wordBytes first ++
      wordBytes second
    ((resultCells held.link block p.now).take (2 * words.toNat), p5)
  | none => ([], p5)

/-! ### Going on (R141 to R143) -/

/-- The lane follows a link: a null link leaves it RESTING on its anchor. -/
def followLink (n : Lane) (link : Half) (p : Part) : Part :=
  let ctx := p.lane n
  if link = 0 then p.setLane n { ctx with state := .resting, link := none }
  else p.setLane n { ctx with state := .working, link := some link }

/-- The lane stops (R143). `badLink` is the link that could not be taken, where that is why. -/
def stopLane (n : Lane) (cause : LaneCause) (badLink : Option Half) (p : Part) : Part :=
  p.setLane n { p.lane n with
    state := .stopped, cause := some cause, current := none, link := none, returnAnchor := none, waitKind := none,
    badLink := badLink, holdTimer := none, abort := none }

def Anchor.link : Anchor → Half
  | .record l => l
  | .absent | .start => 0

/-- The current link that the header shows (R124, R135). -/
def LaneContext.headerLink (c : LaneContext) : Half :=
  match c.current with
  | some held => held.link
  | none =>
    match c.state, c.badLink with
    | .idle, _ => 0
    | .stopped, some l => l
    | _, _ => c.anchor.link

end Sys2Proof.Machine
end

