-- ==== Sys2Proof/Machine/Doors.lean ====
section
/-! DEFINITION. Door Control (03): close requests, the closing sequence, door orders, halt and return requests, replies,
timers and faults. -/

namespace Sys2Proof.Machine

/-! ### The station command (R59, Table 3-4) -/

inductive DoorCommand where
  | idle | stop | close | closeForced | openUp
deriving DecidableEq, Repr

/-- The command of the next poll (Table 3-4). -/
def Door.command (x : Door) : DoorCommand :=
  match x.state with
  | .halted | .faulted => .stop
  | .closing => if x.forced then .closeForced else .close
  | .reversing | .opening => .openUp
  | .offline | .opened | .warning | .waitClear | .closed | .retryWait | .blocked | .localMode => .idle

/-- The sounder is on in exactly the closing sequence (Table 3-4). -/
def Door.sounder (x : Door) : Bool := x.state.inSequence

/-! ### Results and WARN demands -/

/-- The result of lane `n`'s door order (R71): index, door state and retry count as they stand. The state has its code of the
board slots (log entry 49). -/
def doorResult (n : Lane) (code : ResultCode) (p : Part) : Result :=
  let d := paramDoor (p.currentBytes n)
  Result.of code d.val (word (p.door d).state.num) (word (p.door d).retries)

/-- The line of a zone (R3). -/
def zoneLine (k : ZoneId) : LineId := ⟨k.val, by omega⟩

/-- A door in the closing sequence has the zone's line among its lines (R63). -/
def Part.warnWanted (p : Part) (k : ZoneId) : Bool := (p.zoneDoors k).any (fun d => (p.door d).state.inSequence)

/-- Post or withdraw the WARN demands of a door's lines (R63). -/
def syncWarn (d : DoorId) (p : Part) : Part :=
  forEach (p.doorZones d)
    (fun k q => if q.warnWanted k then postWarn (zoneLine k) q else withdrawWarn (zoneLine k) q) p

/-! ### Changes of state -/

/-- The states whose entry removes the LANE origin (R61). -/
def DoorState.dropsLane : DoorState → Bool
  | .closed | .opened | .halted | .blocked | .localMode | .faulted | .opening => true
  | .offline | .warning | .waitClear | .closing | .reversing | .retryWait => false

/-- The reports of R81: zone reports, then the abort cause, then the steady report. -/
def doorReports (d : DoorId) (before after : DoorState) : List Act :=
  if before = after then []
  else
    (if after = .closed then [.doorClosed d] else if before = .closed then [.doorLeft d] else []) ++
    (if after = .faulted ∨ after = .localMode ∨ after = .blocked then [.faultReport (doorEntry d)] else []) ++
    (if after.steady then [.steadyReport (doorEntry d)] else [])

/-- Give a door a new record. With an ending, its waiting record retires so (R71). -/
def doorTo (d : DoorId) (x : Door) (ending : Option ResultCode) (p : Part) : Part :=
  let before := p.door d
  let x' := { x with laneOrigin := x.laneOrigin && !x.state.dropsLane,
                     zoneOrigin := x.zoneOrigin && (x.state != .closed),
                     waiting := if ending.isSome then none else x.waiting }
  let p1 := syncWarn d (p.setDoor d x')
  let ends := match ending, before.waiting with
    | some c, some n => [Act.orderEnds n (doorResult n c p1)]
    | _, _ => []
  p1.emit (ends ++ doorReports d before.state x'.state)

/-- The lead counter and the timers are discarded, the forced flag is cleared. -/
def Door.atRest (x : Door) (state : DoorState) : Door :=
  { x with state := state, forced := false, leadCounter := 0, motionTimer := none, retryTimer := none }

/-- Entry to CLOSED (R68). -/
def enterClosed (d : DoorId) (p : Part) : Part :=
  doorTo d { (p.door d).atRest .closed with retries := 0, cause := none } (some .done) p

/-- Entry to FAULTED (R78). A FAULTED door keeps its first cause. -/
def enterDoorFault (d : DoorId) (cause : DoorCause) (p : Part) : Part :=
  let x := p.door d
  if x.state = .faulted then p else doorTo d { x.atRest .faulted with cause := some cause } (some .failed) p

/-- Entry to LOCAL (R77). -/
def enterDoorLocal (d : DoorId) (p : Part) : Part :=
  doorTo d { (p.door d).atRest .localMode with cause := none } (some .localMode) p

/-- Entry to BLOCKED (R69). -/
def enterBlocked (d : DoorId) (p : Part) : Part := doorTo d ((p.door d).atRest .blocked) (some .blocked) p

/-! ### WARNING, WAIT_CLEAR, CLOSING (R62, R64) -/

/-- The door's movers are clear (R64). -/
def Part.doorMoversClear (p : Part) (d : DoorId) : Bool :=
  (p.doorZones d).all (fun k => (p.zoneMovers k).all (fun m => !(p.mover m).motion.state.inMotionSet))

/-- Entry to CLOSING, from WARNING or WAIT_CLEAR (R64). -/
def enterClosing (d : DoorId) (p : Part) : Part :=
  doorTo d { p.door d with state := .closing, motionTimer := some (p.planDoor d).motionLimit } none p

/-- The lead has expired (R64): CLOSING where the movers are clear, WAIT_CLEAR otherwise. -/
def leadExpiry (d : DoorId) (p : Part) : Part :=
  if p.doorMoversClear d then enterClosing d p else doorTo d { p.door d with state := .waitClear } none p

/-- The test of the lead choice (R62) gives the fire lead. -/
def Part.fireLeadApplies (p : Part) (d : DoorId) (x : Door) : Bool :=
  x.forced || (x.zoneOrigin && (p.doorZones d).any (fun k => (p.zone k).level == .fire))

/-- The lead chosen (R62). -/
def Part.chosenLead (p : Part) (d : DoorId) (x : Door) : Nat :=
  if p.fireLeadApplies d x then (p.planDoor d).fireLead else (p.planDoor d).lead

/-- The lead that applies has been reached (R62). -/
def leadReached (x : Door) : Bool := (x.state == .warning) && decide (x.lead ≤ x.leadCounter)

/-- Entry to WARNING with record `x` (R62): a new lead counter and a fresh choice; a lead of 0 expires here. -/
def enterWarning (d : DoorId) (x : Door) (ending : Option ResultCode) (p : Part) : Part :=
  let x' := { x with state := .warning, leadCounter := 0, motionTimer := none, retryTimer := none,
                     lead := p.chosenLead d x }
  let p1 := doorTo d x' ending p
  if leadReached (p1.door d) then leadExpiry d p1 else p1

/-- The lead is chosen again in WARNING (R62): the fire lead, once it applies, stays. -/
def chooseAgain (d : DoorId) (p : Part) : Part :=
  let x := p.door d
  if x.state = .warning then
    (let p1 := p.setDoor d { x with lead := Nat.min x.lead (p.chosenLead d x) }
     if leadReached (p1.door d) then leadExpiry d p1 else p1)
  else p

/-- A report of Mover Control for a zone (R64): each door in WAIT_CLEAR tests again, by ascending door (log entry 51). -/
def moversClear (k : ZoneId) (p : Part) : Part :=
  forEach (p.zoneDoors k)
    (fun d q => if (q.door d).state = .waitClear ∧ q.doorMoversClear d = true then enterClosing d q else q) p

/-! ### Close requests (R61, Table 3-5) -/

/-- A door record at the beginning of a closing sequence: no obstruction has been met since (Table 3-1; log entry 34). -/
def Door.sequenceBegins (x : Door) : Door := { x with retries := 0 }

/-- A ZONE close request arrives. A return to OPEN that it ends becomes ZONE_LIMITED (R166). -/
def doorZoneRequest (d : DoorId) (p : Part) : Part :=
  let x := p.door d
  let x' := { x with zoneOrigin := true }
  match x.state with
  | .opened | .halted => enterWarning d x'.sequenceBegins none p
  | .opening => enterWarning d x'.sequenceBegins (some .superseded) (endReturn (doorEntry d) .zoneLimited p)
  | .warning | .waitClear | .closing | .reversing | .retryWait => chooseAgain d (p.setDoor d x')
  | .closed => p
  | .blocked | .localMode | .faulted | .offline => p.setDoor d x'

/-- A LANE close request of a CLOSE DOOR or a return to CLOSED arrives at a door that takes it (R61, R72). -/
def laneClose (d : DoorId) (p : Part) : Part :=
  let x := p.door d
  let x' := { x with laneOrigin := true }
  match x.state with
  | .opened | .halted | .blocked => enterWarning d x'.sequenceBegins none p
  | .opening => enterWarning d x'.sequenceBegins (some .superseded) p
  | .warning | .waitClear | .closing | .reversing | .retryWait => chooseAgain d (p.setDoor d x')
  | .closed | .localMode | .faulted | .offline => p

/-- A FORCE CLOSE arrives at a door that takes it (R76). -/
def laneForce (d : DoorId) (p : Part) : Part :=
  let x := p.door d
  let x' := { x with laneOrigin := true, forced := true }
  match x.state with
  | .opened | .halted | .blocked | .reversing | .retryWait => enterWarning d x'.sequenceBegins none p
  | .opening => enterWarning d x'.sequenceBegins (some .superseded) p
  | .warning | .waitClear | .closing => chooseAgain d (p.setDoor d x')
  | .closed | .localMode | .faulted | .offline => p

/-! ### Door orders (R71 to R73, R76, R79) -/

/-- The state refuses every closing and opening order (R72, R73, R76). -/
def DoorState.refusal : DoorState → Option ResultCode
  | .localMode => some .localMode
  | .faulted | .offline => some .faulted
  | .opened | .halted | .warning | .waitClear | .closing | .closed | .reversing | .retryWait | .opening | .blocked =>
    none

/-- Lane `n`'s record becomes the door's waiting record; an earlier one ends SUPERSEDED (R71). -/
def doorWaits (d : DoorId) (n : Lane) (p : Part) : Part :=
  let x := p.door d
  let ends := match x.waiting with
    | some e => [Act.orderEnds e (doorResult e .superseded p)]
    | none => []
  (p.setDoor d { x with waiting := some n }).emit ends

/-- An order that has started or joined a sequence waits for its end or retires STARTED (R71). -/
def doorStartedOrWaits (d : DoorId) (n : Lane) (p : Part) : Part :=
  startedOrWaits n (doorResult n .started p) (whenTrue (imageWait (p.currentBytes n)) (doorWaits d n) p)

/-- CLOSE DOOR at Door Control (R72). -/
def orderCloseDoor (n : Lane) (p : Part) : Part :=
  let d := paramDoor (p.currentBytes n)
  match (p.door d).state.refusal with
  | some c => p.emit [.orderEnds n (doorResult n c p)]
  | none =>
    if (p.door d).state = .closed then p.emit [.orderEnds n (doorResult n .done p)]
    else doorStartedOrWaits d n (laneClose d p)

/-- FORCE CLOSE at Door Control (R76). -/
def orderForceClose (n : Lane) (p : Part) : Part :=
  let d := paramDoor (p.currentBytes n)
  match (p.door d).state.refusal with
  | some c => p.emit [.orderEnds n (doorResult n c p)]
  | none =>
    if (p.door d).state = .closed then p.emit [.orderEnds n (doorResult n .done p)]
    else doorStartedOrWaits d n (laneForce d p)

/-- Why an OPEN DOOR with or without bridge authority is refused (R73). R73 tests the zones and the ZONE origin before the
door's state, so an OFFLINE door may give ZONE_STATE where R80 says FAULTED (log entry 42). -/
def Part.openRefusal (p : Part) (d : DoorId) (bridge : Bool) : Option ResultCode :=
  let x := p.door d
  if x.zoneOrigin || (p.doorZones d).any (fun k => ((p.zone k).state == .shutting) || ((p.zone k).state == .shut)) then
    some .zoneState
  else if x.forced && !bridge then some .authority
  else x.state.refusal

/-- Entry to OPENING with record `x` (R73). -/
def enterOpening (d : DoorId) (x : Door) (ending : Option ResultCode) (p : Part) : Part :=
  doorTo d { x.atRest .opening with motionTimer := some (p.planDoor d).motionLimit } ending p

/-- An accepted OPEN DOOR by the door's state (R73). -/
def openDoor (d : DoorId) (p : Part) : Part :=
  let x := p.door d
  match x.state with
  | .closed | .halted => enterOpening d x none p
  | .warning | .waitClear | .retryWait =>
    if x.last.openLimit then doorTo d (x.atRest .opened) (some .superseded) p
    else enterOpening d x (some .superseded) p
  | .closing | .reversing => enterOpening d x (some .superseded) p
  | .blocked => doorTo d { x.atRest .opened with retries := 0 } none p
  | .opened | .opening | .localMode | .faulted | .offline => p

/-- OPEN DOOR at Door Control (R73). A door that is OPEN at once gives DONE (log entry 33). -/
def orderOpenDoor (n : Lane) (p : Part) : Part :=
  let d := paramDoor (p.currentBytes n)
  match p.openRefusal d (p.lane n).bridge with
  | some c => p.emit [.orderEnds n (doorResult n c p)]
  | none =>
    let p1 := openDoor d p
    if (p1.door d).state = .opened then p1.emit [.orderEnds n (doorResult n .done p1)]
    else doorStartedOrWaits d n p1

/-- The door takes its state from the limits (R77, R79, R80); a standing ZONE origin takes it on to WARNING. -/
def takeLimits (d : DoorId) (p : Part) : Part :=
  let x := p.door d
  if x.last.closedLimit then enterClosed d p
  else
    let p1 := doorTo d { x with state := if x.last.openLimit then .opened else .halted, cause := none } none p
    if x.zoneOrigin then enterWarning d (p1.door d).sequenceBegins none p1 else p1

/-- The station of a door (Table 0-3: stations 8..31). -/
def doorStation (d : DoorId) : StationId := ⟨8 + d.val, by omega⟩

/-- The tests of CLEAR DOOR FAULT (R79). -/
def Part.doorFaultClears (p : Part) (d : DoorId) : Bool :=
  let x := p.door d
  ((p.station (doorStation d)).state == .online) && !x.last.motorFault &&
    !(x.last.openLimit && x.last.closedLimit) && ((x.cause != some .edge) || !x.last.edge)

/-- CLEAR DOOR FAULT at Door Control (R79). A refusal's second value is the cause code of Table 3-3. The record retires
before the reports of the door's new state are taken (log entry 8). -/
def orderClearDoorFault (n : Lane) (p : Part) : Part :=
  let d := paramDoor (p.currentBytes n)
  let x := p.door d
  if x.state ≠ .faulted then p.emit [.orderEnds n (doorResult n .done p)]
  else if !p.doorFaultClears d then
    p.emit [.orderEnds n { doorResult n .faulted p with second := some (word ((x.cause.map (fun c => c.num + 1)).getD 0)) }]
  else
    let p1 := if x.last.localMode then enterDoorLocal d p else takeLimits d p
    p1.retireFirst n (doorResult n .done p1)

/-! ### Halt and return requests (R74, R75) -/

/-- A halt request (R74). -/
def doorHalt (d : DoorId) (p : Part) : Part :=
  let x := p.door d
  if x.state.steady then p
  else if x.zoneOrigin then p.setDoor d { x with laneOrigin := false }
  else doorTo d (x.atRest .halted) (some .stopped) p

/-- A return request (R75, R166) to the state saved in the door's claim entry. -/
def doorReturn (d : DoorId) (bridge : Bool) (p : Part) : Part :=
  let e := doorEntry d
  let x := p.door d
  let closes := (p.claim e).saved == some .closed
  let goal : DoorState := if closes then .closed else .opened
  let refusal := if closes then x.state.refusal else p.openRefusal d bridge
  let p1 :=
    if x.state = goal then markReturn e .met p
    else match refusal with
      | some .zoneState => doorHalt d (markReturn e .zoneLimited p)
      | some _ => doorHalt d (markReturn e .incomplete p)
      | none => if closes then laneClose d (markReturn e .underWay p) else openDoor d (markReturn e .underWay p)
  p1.emit (abortTestOf p1 e)

/-! ### Timers and station loss (R65 to R67, R73, R78) -/

/-- MOTION_TIMER_EXPIRY. -/
def motionTimerExpiry (d : DoorId) (p : Part) : Part :=
  if (p.door d).state = .closing then enterDoorFault d .closeTime p else enterDoorFault d .openTime p

/-- RETRY_DELAY_EXPIRY (R67). -/
def retryDelayExpiry (d : DoorId) (p : Part) : Part :=
  let x := p.door d
  if x.retries ≤ (p.planDoor d).retries then enterWarning d x none p else enterBlocked d p

/-- The door's station is lost (R78). -/
def doorLost (d : DoorId) (p : Part) : Part := enterDoorFault d .link p

/-! ### A valid reply (R60) -/

/-- Entry to REVERSING (R66). The retry count stays within the values of Table 3-1. -/
def enterReversing (d : DoorId) (p : Part) : Part :=
  let x := p.door d
  doorTo d { x with state := .reversing, retries := Nat.min 8 (x.retries + 1),
                           motionTimer := some (p.planDoor d).motionLimit } none p

/-- Entry to RETRY_WAIT (R67); a retry delay of 0 expires here. -/
def enterRetryWait (d : DoorId) (p : Part) : Part :=
  let delay := (p.planDoor d).retryDelay
  let p1 := doorTo d { p.door d with state := .retryWait, motionTimer := none, retryTimer := startTimer delay } none p
  if delay = 0 then retryDelayExpiry d p1 else p1

/-- Step 5 of R60: limits, beam and edge contact by the state. -/
def doorJudge (d : DoorId) (r : DoorReply) (p : Part) : Part :=
  let x := p.door d
  match x.state with
  | .closing =>
    if r.closedLimit then enterClosed d p
    else if r.edge && x.forced then enterDoorFault d .edge p
    else if r.edge || (r.beamBroken && !x.forced) then enterReversing d p
    else p
  | .reversing => if r.openLimit then enterRetryWait d p else p
  | .opened | .halted =>
    if r.closedLimit then enterClosed d p
    else
      let goal : DoorState := if r.openLimit then .opened else .halted
      if x.state = goal then p else doorTo d { x with state := goal } none p
  | .closed => if r.closedLimit then p else doorTo d { x with state := .halted } none p
  | .blocked | .warning | .waitClear | .retryWait => if r.closedLimit then enterClosed d p else p
  | .opening => if r.openLimit then doorTo d { x.atRest .opened with retries := 0 } (some .done) p else p
  | .offline | .localMode | .faulted => p

/-- A valid reply of the door's station (R60). -/
def doorReply (d : DoorId) (r : DoorReply) (p : Part) : Part :=
  let p1 := p.setDoor d { p.door d with last := r }
  match (p1.door d).state with
  | .faulted => p1
  | .localMode | .offline =>
    if r.localMode then (if (p1.door d).state = .offline then enterDoorLocal d p1 else p1)
    else if r.motorFault then enterDoorFault d .motor p1
    else if r.openLimit && r.closedLimit then enterDoorFault d .limits p1
    else takeLimits d p1
  | .opened | .halted | .warning | .waitClear | .closing | .closed | .reversing | .retryWait | .opening | .blocked =>
    if r.localMode then enterDoorLocal d p1
    else if r.motorFault then enterDoorFault d .motor p1
    else if r.openLimit && r.closedLimit then enterDoorFault d .limits p1
    else doorJudge d r p1

/-! ### Marks (R56) -/

/-- A centisecond mark at a door: the lead counter in WARNING, the motion timer and the retry delay timer. -/
def Door.mark (x : Door) : Door :=
  { x with leadCounter := if x.state = .warning then Nat.min 65535 (x.leadCounter + 1) else x.leadCounter,
           motionTimer := countMark x.motionTimer, retryTimer := countMark x.retryTimer }

end Sys2Proof.Machine
end

