-- ==== Sys2Proof/Machine/Zones.lean ====
section
/-! DEFINITION. Zone Control (01): detection, entry to FIRE and SHUTTING, the SHUT test and the zone orders. -/

namespace Sys2Proof.Machine

/-! ### Results -/

/-- The result of lane `n`'s zone order (chapter 1.5): zone index, zone state and alarm level as they stand. The
codes count from 0 in the order of Table 1-1: R128 fixes codes for board slots only (log entry 41). -/
def zoneResult (n : Lane) (code : ResultCode) (p : Part) : Result :=
  let k := paramZone (p.currentBytes n)
  Result.of code k.val (word (p.zone k).state.num) (word (p.zone k).level.num)

def endZoneOrder (n : Lane) (code : ResultCode) (p : Part) : Part := p.emit [.orderEnds n (zoneResult n code p)]

/-! ### Entry to SHUTTING and to FIRE (R9, R10, R14, R15) -/

/-- The stop requests of an exit from LOADING (R15), by ascending mover, an order that no rule gives (log entry 51). -/
def Part.zoneStops (p : Part) (k : ZoneId) : List Act := (p.zoneMovers k).map (fun m => .moverStop m true)

/-- The auto-call of a zone, none for message 0 (R10, R14). -/
def zoneCallActs (k : ZoneId) (priority : Priority) (message : Byte) (lines : Half) (repeats chime : Nat) : List Act :=
  if message = 0 then [] else [.zoneCall k priority message lines repeats chime]

/-- The line mask of one line. -/
def lineBit (k : LineId) : Half := 1#16 <<< k.val

/-- The work of an entry to SHUTTING (R14), in its order; its doors ascending (log entry 51). -/
def Part.shuttingActs (p : Part) (k : ZoneId) : List Act :=
  p.zoneStops k ++ (p.zoneDoors k).map (fun d => .doorZoneRequest d) ++
    zoneCallActs k .urgent (p.planZone k).shutMessage (lineBit (zoneLine k)) 1 p.inForce.header.chimeUrgent ++
    [.zoneAborts k, .shutTest k]

/-- Entry to SHUTTING from SECURE or LOADING (R14). -/
def enterShutting (k : ZoneId) (p : Part) : Part :=
  (p.setZone k { p.zone k with state := .shutting }).emit (p.shuttingActs k)

/-- Entry to FIRE (R9). The FIRE demands are posted in the same event (R12). -/
def enterFire (k : ZoneId) (p : Part) : Part :=
  let z := { p.zone k with level := .fire, fireLatched := true, confirmTimer := none, fireTime := p.now.seconds }
  let p1 := syncFire (p.setZone k z)
  let h := p.inForce.header
  let fireCall := zoneCallActs k .emergency (p.planZone k).fireMessage (lineBit (zoneLine k) ||| h.muster) h.fireRepeats
    h.fireChime
  if (p.planZone k).autoShut && ((z.state == .secure) || (z.state == .loading)) then
    (enterShutting k p1).emit fireCall
  else if z.state = .loading then
    (p1.setZone k { z with state := .secure }).emit (p1.zoneStops k ++ fireCall ++ [.zoneAborts k])
  else p1.emit (fireCall ++ [.zoneAborts k])

/-! ### Detection (R5 to R8, R11) -/

/-- The level becomes PRE and the confirm timer starts; a confirm time of 0 expires at once (R6). -/
def startPre (k : ZoneId) (p : Part) : Part :=
  let confirm := (p.planZone k).confirm
  if confirm = 0 then enterFire k p
  else p.setZone k { p.zone k with level := .pre, confirmTimer := some confirm }

/-- Table 1-4: a loop status judged from the zone's level, with detection enabled and the call point not pressed. -/
def judgeLoop (k : ZoneId) (status : LoopStatus) (p : Part) : Part :=
  let z := p.zone k
  match z.level, status with
  | .fire, _ => p
  | _, .two => enterFire k p
  | _, .loopFault => p.setZone k { z with level := .fault, confirmTimer := none }
  | _, .normal => p.setZone k { z with level := .none, confirmTimer := none }
  | .pre, .one => p
  | .none, .one | .fault, .one => startPre k p

/-- A valid reply of the zone's station (R5, R7, R8). `recovered` says that the station was LOST before it (R11). -/
def zoneReply (k : ZoneId) (status : LoopStatus) (callPoint recovered : Bool) (p : Part) : Part :=
  let z := { p.zone k with loop := some status, callPoint := callPoint, link := .online }
  let p1 := p.setZone k z
  if callPoint then (if z.level = .fire then p1 else enterFire k p1)
  else if z.detectionDisabled then
    (if recovered && (z.level == .fault) then p1.setZone k { z with level := .none } else p1)
  else judgeLoop k status p1

/-- The zone's station is lost (R11). -/
def zoneLost (k : ZoneId) (p : Part) : Part :=
  let z := p.zone k
  p.setZone k { z with link := .lost, confirmTimer := none, level := if z.fireLatched then z.level else .fault }

/-- CONFIRM_TIMER_EXPIRY (R6). -/
def confirmTimerExpiry (k : ZoneId) (p : Part) : Part := enterFire k p

/-! ### Door reports and the SHUT test (R3, R19) -/

/-- The zones that count a door (R3): a zone that is not enabled has no doors for Zone Control (R2). -/
def Part.countingZones (p : Part) (d : DoorId) : List ZoneId :=
  (p.doorZones d).filter (fun k => (p.planZone k).enabled)

/-- A door of the zones enters CLOSED: each zone counts one less and makes the SHUT test. -/
def doorClosed (d : DoorId) (p : Part) : Part :=
  forEach (p.countingZones d) (fun k q =>
    (q.setZone k { q.zone k with notClosed := (q.zone k).notClosed - 1 }).emit [.shutTest k]) p

/-- A door leaves CLOSED: each zone counts one more, and a SHUT zone returns to SHUTTING and asks the door to close. -/
def doorLeft (d : DoorId) (p : Part) : Part :=
  forEach (p.countingZones d) (fun k q =>
    let z := q.zone k
    let q1 := q.setZone k { z with notClosed := z.notClosed + 1,
                                   state := if z.state = .shut then .shutting else z.state }
    if z.state = .shut then q1.emit [.doorZoneRequest d] else q1) p

/-- The SHUT test (R19). -/
def shutTest (k : ZoneId) (p : Part) : Part :=
  let z := p.zone k
  if z.state = .shutting ∧ z.notClosed = 0 then
    (p.setZone k { z with state := .shut }).emit [.endShutWaiters k .done]
  else p

/-- The lanes whose current SHUT ZONE record waits on the zone (R18), ascending (log entry 51). -/
def Part.shutWaiters (p : Part) (k : ZoneId) : List Lane :=
  (List.finRange 4).filter (fun n =>
    ((p.lane n).state == .waiting) && ((p.lane n).waitKind == some .action) &&
    (imageKind (p.currentBytes n) == some .shutZone) && (paramZone (p.currentBytes n) == k))

/-- Each SHUT ZONE record that waits on the zone retires (R18, R19). -/
def endShutWaiters (k : ZoneId) (code : ResultCode) (p : Part) : Part :=
  p.emit ((p.shutWaiters k).map (fun n => .orderEnds n (zoneResult n code p)))

/-- A zone order retires at the end of the work it started: STARTED for a SHUT ZONE whose zone is not yet SHUT, DONE
otherwise (R18, R21). An abort of the lane in the same event has ended the record already. -/
def zoneRetire (n : Lane) (p : Part) : Part :=
  let r := p.currentBytes n
  match (p.lane n).current with
  | none => p
  | some _ =>
    if imageKind r = some .shutZone ∧ (p.zone (paramZone r)).state ≠ .shut then endZoneOrder n .started p
    else endZoneOrder n .done p

/-! ### Zone orders (R16 to R18, R20 to R22) -/

/-- SET LOADING (R16). -/
def orderSetLoading (n : Lane) (p : Part) : Part :=
  let k := paramZone (p.currentBytes n)
  let z := p.zone k
  if !(p.planZone k).enabled then endZoneOrder n .zoneState p
  else if z.fireLatched then endZoneOrder n .fireLatched p
  else match z.state with
    | .shutting | .shut => endZoneOrder n .zoneState p
    | .loading => endZoneOrder n .done p
    | .secure => endZoneOrder n .done (p.setZone k { z with state := .loading })

/-- A mover of the zone keeps it from being secured (R17). -/
def Part.zoneBusy (p : Part) (k : ZoneId) : Bool :=
  (p.zoneMovers k).any (fun m =>
    let st := (p.mover m).motion.state
    st.inMotionSet || (st == .settling) || (st == .floating))

/-- SET SECURE (R17). -/
def orderSetSecure (n : Lane) (p : Part) : Part :=
  let k := paramZone (p.currentBytes n)
  let z := p.zone k
  if !(p.planZone k).enabled then endZoneOrder n .zoneState p
  else match z.state with
    | .shutting | .shut => endZoneOrder n .zoneState p
    | .secure => endZoneOrder n .done p
    | .loading =>
      if p.zoneBusy k then endZoneOrder n .busy p
      else endZoneOrder n .done (p.setZone k { z with state := .secure })

/-- SHUT ZONE (R18). -/
def orderShutZone (n : Lane) (p : Part) : Part :=
  let r := p.currentBytes n
  let k := paramZone r
  if !(p.planZone k).enabled then endZoneOrder n .zoneState p
  else match (p.zone k).state with
    | .shut => endZoneOrder n .done p
    | .shutting => if imageWait r then laneWaits n .action p else endZoneOrder n .started p
    | .secure | .loading =>
      if imageWait r then enterShutting k (laneWaits n .action p)
      else (enterShutting k p).emit [.zoneRetire n]

/-- REOPEN ZONE (R20). The refusal path makes the SHUT test (R19). -/
def orderReopenZone (n : Lane) (p : Part) : Part :=
  let k := paramZone (p.currentBytes n)
  let z := p.zone k
  if !(p.planZone k).enabled then endZoneOrder n .zoneState p
  else if z.fireLatched then (endZoneOrder n .fireLatched p).emit [.shutTest k]
  else match z.state with
    | .shutting | .shut =>
      (endZoneOrder n .done (p.setZone k { z with state := .secure, callLost := false })).emit
        [.endShutWaiters k .superseded]
    | .secure => endZoneOrder n .done p
    | .loading => endZoneOrder n .zoneState p

/-- DISABLE DETECTION (R21). -/
def orderDisableDetection (n : Lane) (p : Part) : Part :=
  let k := paramZone (p.currentBytes n)
  let z := p.zone k
  if !(p.planZone k).enabled then endZoneOrder n .zoneState p
  else if z.fireLatched then endZoneOrder n .fireLatched p
  else if z.detectionDisabled then endZoneOrder n .done p
  else
    let level : AlarmLevel := match z.level with
      | .pre => .none
      | .fault => if z.link = .lost then .fault else .none
      | .none => .none
      | .fire => .fire
    endZoneOrder n .done (p.setZone k { z with detectionDisabled := true, level := level, confirmTimer := none })

/-- ENABLE DETECTION (R21). -/
def orderEnableDetection (n : Lane) (p : Part) : Part :=
  let k := paramZone (p.currentBytes n)
  let z := p.zone k
  if !(p.planZone k).enabled then endZoneOrder n .zoneState p
  else if !z.detectionDisabled then endZoneOrder n .done p
  else
    let p1 := p.setZone k { z with detectionDisabled := false }
    let p2 := match z.link, z.loop with
      | .online, some .one => judgeLoop k .one p1
      | .online, some .two => judgeLoop k .two p1
      | .online, some .loopFault => judgeLoop k .loopFault p1
      | _, _ => p1
    p2.emit [.zoneRetire n]

/-- RESET ALARM (R22). -/
def orderResetAlarm (n : Lane) (p : Part) : Part :=
  let k := paramZone (p.currentBytes n)
  let z := p.zone k
  if !(p.planZone k).enabled then endZoneOrder n .zoneState p
  else if (z.link == .online) && ((z.loop == some .one) || (z.loop == some .two) || z.callPoint) then
    endZoneOrder n .alarmPresent p
  else
    let level : AlarmLevel :=
      if (z.link == .lost) || (!z.detectionDisabled && (z.loop == some .loopFault)) then .fault else .none
    endZoneOrder n .done
      (syncFire (p.setZone k { z with level := level, fireLatched := false, callLost := false, confirmTimer := none }))

end Sys2Proof.Machine
end

