-- ==== Sys2Proof/Machine/Claims.lean ====
section
/-! DEFINITION. The Claim Table (08): implicit claims, waiters, arbitration, groups and aborts; the values with which a
waiting record ends (R140); HOLD conditions (R144, R145). -/

namespace Sys2Proof.Machine

/-! ### HOLD (R144, R145) -/

/-- The condition of a HOLD is met for lane `n` (R145). -/
def Part.holdMet (p : Part) (n : Lane) (r : List Byte) : Bool :=
  match (holdCondition r).toNat with
  | 0 => (p.zone (Fin.ofNat 12 (holdIndex r))).state.num == holdState r
  | 1 => (p.mover (Fin.ofNat 8 (holdIndex r))).motion.state == .idle
  | 2 =>
    (p.door (Fin.ofNat 24 (holdIndex r))).state == (if holdState r = 0 then DoorState.closed else DoorState.opened)
  | 3 => getAt p.calls.lastEnded n
  | _ => false

/-- The state of the watched item at retirement (R144); with no condition no item is watched. The codes of mover and door states
are those of the board slots (R128; log entry 49). -/
def Part.holdWatched (p : Part) (n : Lane) (r : List Byte) : Option Word :=
  match (holdCondition r).toNat with
  | 0 => some (word (p.zone (Fin.ofNat 12 (holdIndex r))).state.num)
  | 1 => some (word (p.mover (Fin.ofNat 8 (holdIndex r))).motion.state.num)
  | 2 => some (word (p.door (Fin.ofNat 24 (holdIndex r))).state.num)
  | 3 => some (if getAt p.calls.lastEnded n then 1 else 0)
  | _ => none

/-- The result of a HOLD (R144). -/
def holdResult (n : Lane) (code : ResultCode) (p : Part) : Result :=
  let r := p.currentBytes n
  { code := code, flags := 0, detail := some ((holdCondition r).setWidth 16), first := some (word (p.lane n).holdMarks),
    second := p.holdWatched n r }

/-! ### How a record ends that something else ends (R140, R151) -/

/-- The result of lane `n`'s current record where a cancel or an abort ends it: its owning block's values at that
moment; a claim wait and a GROUP CLOSE have none. -/
def currentResult (n : Lane) (code : ResultCode) (p : Part) : Result :=
  let r := p.currentBytes n
  if (p.lane n).waitKind = some .claim then Result.bare code
  else match imageKind r with
    | some .hold => holdResult n code p
    | some .move | some .stopMover | some .floatRamp | some .clearMoverFault =>
      moverResult n code 0 (p.motion (paramMover r)).target p
    | some .closeDoor | some .openDoor | some .forceClose | some .clearDoorFault => doorResult n code p
    | some .setLoading | some .setSecure | some .shutZone | some .reopenZone | some .disableDetection
    | some .enableDetection | some .resetAlarm => zoneResult n code p
    | some .call =>
      match p.calls.entries.find? (fun e => e.waiting.contains n) with
      | some e => callResult e code
      | none => Result.bare code
    | _ => Result.bare code

/-- No block keeps lane `n`'s record any more: its action runs on with no waiting record, a claim wait leaves the
waiter list (R140, R151, R155). -/
def forgetLane (n : Lane) (p : Part) : Part :=
  let unwait := fun (w : Option Lane) => if w = some n then none else w
  let p1 := { p with
    movers := mapAll (fun x => { x with motion := { x.motion with waiting := unwait x.motion.waiting } }) p.movers,
    doors := mapAll (fun x => { x with waiting := unwait x.waiting }) p.doors,
    waiters := p.waiters.filter (fun w => w.lane != n) }
  forgetCallLane n p1

/-- The current record ends with the given code by a cancel or an abort of its lane and is not followed. -/
def endCurrent (n : Lane) (code : ResultCode) (p : Part) : Part :=
  forgetLane n (retireCurrent n (currentResult n code p) p)

/-! ### Claims (R153, R154, R157) -/

/-- The entry an order of R154 needs. -/
def Part.claimEntry (p : Part) (r : List Byte) : Option EntryId :=
  match imageKind r with
  | some .move | some .stopMover | some .floatRamp => some (p.entryOfMover (paramMover r))
  | some .closeDoor | some .openDoor | some .forceClose => some (doorEntry (paramDoor r))
  | _ => none

/-- The entry is FREE or held by lane `n`. -/
def Claim.openTo (c : Claim) (n : Lane) : Bool :=
  match c.holder with
  | none => true
  | some h => h == n

/-- Lane `n` holds the entry as a GROUP claim: the entry is in its nest's claims (R157). -/
def Claim.inNest (c : Claim) (n : Lane) : Bool := (c.holder == some n) && (c.kind == some .group)

/-- The entries lane `n` holds as GROUP claims, ascending. -/
def Part.nestEntries (p : Part) (n : Lane) : List EntryId := (List.finRange 32).filter (fun e => (p.claim e).inNest n)

/-- A set of entries as a claim set. -/
def setOf (es : List EntryId) : Word := es.foldl (fun acc e => acc ||| entryBit e) 0

/-- The first entry of a need that another lane holds. -/
def Part.conflict (p : Part) (n : Lane) (need : Word) : Option EntryId :=
  (setEntries need).find? (fun e => !(p.claim e).openTo n)

/-- Lane `n` takes an implicit claim of an entry that is FREE (R154). -/
def takeImplicit (n : Lane) (e : EntryId) (p : Part) : Part :=
  if (p.claim e).holder.isNone then
    p.setClaim e { holder := some n, kind := some .implicit, level := 0, saved := none, status := .none }
  else p

/-- Every entry that the test picks becomes FREE. -/
def releaseWhere (test : Claim → Bool) (p : Part) : Part :=
  { p with claims := mapAll (fun c => if test c then Claim.free else c) p.claims }

/-! ### Saved states and opening a level (R159 to R161) -/

/-- The saved state of an entry at this moment (R161). -/
def Part.savedState (p : Part) (e : EntryId) : Option Saved :=
  match actuatorOf e with
  | .mover m =>
    let mo := p.motion m
    match mo.state with
    | .idle => some (.position (p.restCount m))
    | .releasing | .moving | .settling => mo.target.map Saved.position
    | .stopping | .floating | .localMode | .faulted | .offline => none
  | .door d =>
    match (p.door d).state with
    | .opened | .opening => some .opened
    | .closed | .warning | .waitClear | .closing | .reversing | .retryWait => some .closed
    | .halted | .blocked | .localMode | .faulted | .offline => none

/-- Take an entry as a GROUP claim at a level; an entry the nest already holds is kept as it is (R160). -/
def takeGroup (n : Lane) (level : Nat) (e : EntryId) (p : Part) : Part :=
  if (p.claim e).inNest n then p
  else p.setClaim e { holder := some n, kind := some .group, level := level, saved := p.savedState e, status := .none }

/-- A group opens (R158 to R160): the entries are taken, the level is added, the record becomes the anchor and its next
link is followed. -/
def openGroup (n : Lane) (p : Part) : Part :=
  match (p.lane n).current with
  | none => p
  | some held =>
    let claimSet := p.normalSet (groupSet held.bytes)
    let depth := (p.lane n).nest.length + 1
    let p1 := forEach (setEntries claimSet) (takeGroup n depth) p
    let ctx := p1.lane n
    let level : Level :=
      { record := held, opened := claimSet, claimSet := claimSet, returns := groupReturns held.bytes,
        inDetour := ctx.returnAnchor.isSome }
    let p2 := p1.setLane n { ctx with nest := level :: ctx.nest, anchor := .record held.link }
    followLink n held.next (dropCurrent n p2)

/-! ### Waiting (R155, R156) -/

/-- How long ago a waiter's wait began, as a tick distance (R155). -/
def Waiter.age (w : Waiter) (now : Word) : Nat := (now - w.start).toNat

/-- Put a waiter in its place: oldest first, of equal age the lower lane first. -/
def insertWaiter (now : Word) (w : Waiter) : List Waiter → List Waiter
  | [] => [w]
  | x :: rest =>
    if x.age now < w.age now ∨ (x.age now = w.age now ∧ w.lane.val < x.lane.val) then w :: x :: rest
    else x :: insertWaiter now w rest

/-- The result of a claim wait that runs out (R155). -/
def Part.timeoutResult (p : Part) (n : Lane) (need : Word) : Result :=
  match p.conflict n need with
  | some e =>
    { Result.bare .claimTimeout with
      detail := some (BitVec.ofNat 16 e.val), first := (p.claim e).holder.map (fun h => word h.val) }
  | none => Result.bare .claimTimeout

/-- The lane waits for its need (R155); a limit of 0 expires at once. -/
def waitForClaim (n : Lane) (need : Word) (isGroup : Bool) (p : Part) : Part :=
  let limit := p.inForce.header.claimWait
  if limit = 0 then p.emit [.orderEnds n (p.timeoutResult n need)]
  else
    let w : Waiter := { lane := n, need := need, isGroup := isGroup, start := p.claimTicks, timer := limit }
    laneWaits n .claim { p with waiters := insertWaiter p.claimTicks w p.waiters }

/-- The waiter's whole need is FREE or held by its own lane. -/
def Part.grantable (p : Part) (w : Waiter) : Bool := (p.conflict w.lane w.need).isNone

/-- A granted waiter takes its need (R156): its group opens, or its order goes on to its owning block. -/
def grant (w : Waiter) (p : Part) : Part :=
  let p1 := p.setLane w.lane { p.lane w.lane with state := .working, waitKind := none }
  if w.isGroup then openGroup w.lane p1
  else
    let p2 := forEach (setEntries w.need) (takeImplicit w.lane) p1
    p2.emit (.blockOrder w.lane :: (setEntries w.need).map (fun e => .steadyReport e))

/-- Arbitration among the waiters, oldest first (R156). -/
def arbitrate (p : Part) : Part :=
  forEach p.waiters (fun w q => if q.grantable w then grant w q else { q with waiters := q.waiters ++ [w] })
    { p with waiters := [] }

/-- The waiter record of a lane. -/
def Part.waiterOf (p : Part) (n : Lane) : Option Waiter := p.waiters.find? (fun w => w.lane == n)

def claimWaitDue (n : Lane) (p : Part) : Bool :=
  match p.waiterOf n with
  | some w => w.timer == 0
  | none => false

/-- CLAIM_WAIT_EXPIRY (R155). -/
def claimWaitExpiry (n : Lane) (p : Part) : Part :=
  match p.waiterOf n with
  | some w =>
    ({ p with waiters := p.waiters.filter (fun x => x.lane != n) }).emit [.orderEnds n (p.timeoutResult n w.need)]
  | none => p

/-! ### Aborts (R163 to R168) -/

/-- The stop causes that a CANCEL gives (R164, R168). -/
def LaneCause.fromCancel : Option LaneCause → Bool
  | some .cancelled | some .lanesDisabled | some .haltOrder => true
  | _ => false

/-- Stop a claimed mover, halt a claimed door. -/
def haltEntry (e : EntryId) (p : Part) : Part :=
  match actuatorOf e with
  | .mover m => moverStop m false p
  | .door d => doorHalt d p

/-- The action of a RETURN abort on one entry (Table 8-3). -/
def returnEntry (n : Lane) (e : EntryId) (p : Part) : Part :=
  match actuatorOf e, (p.claim e).saved with
  | .mover m, none => moverStop m false p
  | .mover m, some s =>
    if (p.zone (p.moverZone m)).state ≠ .loading then moverStop m false (markReturn e .zoneLimited p)
    else match (p.motion m).state with
      | .idle | .moving | .floating =>
        match s with
        | .position x => moverReturn m x p
        | .opened | .closed => p
      | .releasing | .stopping | .settling => moverStop m false (markReturn e .pending p)
      | .localMode | .faulted | .offline => markReturn e .incomplete p
  | .door d, none => doorHalt d p
  | .door d, some _ => doorReturn d (p.lane n).bridge p

/-- A cause reaches a lane already in ABORTING (R168). -/
def furtherCause (n : Lane) (cause : AbortCause) (stop : Option LaneCause) (p : Part) : Part :=
  let ctx := p.lane n
  match ctx.abort with
  | none => p
  | some a =>
    if cause = .cancel then
      (if a.cause = .cancel then p
       else
         let a' := { a with furtherCause := true, returns := false,
                            stopCause := if LaneCause.fromCancel a.stopCause then a.stopCause else stop }
         let left := (p.nestEntries n).filter (fun e =>
           ((p.claim e).status == .underWay) || ((p.claim e).status == .pending))
         let p1 := forEach left (markReturn · .incomplete) (p.setLane n { ctx with abort := some a' })
         (forEach left haltEntry p1).emit [.abortTest n])
    else p.setLane n { ctx with abort := some { a with furtherCause := true } }

/-- A cause reaches a lane (R163, R164, R168). The entries of the nest are acted on in ascending order (R166 gives none; log
entry 50). -/
def nestAbort (n : Lane) (cause : AbortCause) (code : Nat) (stop : Option LaneCause) (badLink : Option Half) (p : Part) :
    Part :=
  match (p.lane n).nest.getLast? with
  | none => p
  | some outermost =>
    if (p.lane n).state = .aborting then furtherCause n cause stop p
    else
      let p1 := endCurrent n .aborted p
      let ctx := p1.lane n
      let a : AbortRecord :=
        { cause := cause, code := code, depth := ctx.nest.length, link := badLink.getD ctx.anchor.link,
          returnIncomplete := false, furtherCause := false, stopCause := stop, badLink := badLink,
          returns := outermost.returns && (cause != .cancel) }
      let p2 := p1.setLane n { ctx with state := .aborting, link := none, abort := some a }
      let act := fun e => if a.returns then returnEntry n e else haltEntry e
      (forEach (p2.nestEntries n) act p2).emit [.abortTest n]

/-- Every actuator of the nest's claims is steady and no entry is PENDING (R167). -/
def Part.abortDone (p : Part) (n : Lane) : Bool :=
  (p.nestEntries n).all (fun e => p.steady e && ((p.claim e).status != .pending))

/-- The result of the GROUP OPEN records of an aborted nest (R167). -/
def AbortRecord.result (a : AbortRecord) : Result :=
  Result.of .aborted (a.cause.num + 256 * a.code) (word a.depth) (a.link.setWidth 32)
    ((if a.returnIncomplete then flagReturnIncomplete else 0) ||| (if a.furtherCause then flagFurtherCause else 0))

/-- How the lane goes on after an abort (R167, step 5). -/
def afterAbort (n : Lane) (a : AbortRecord) (fallback : Half) (p : Part) : Part :=
  match a.stopCause with
  | some c => stopLane n c (if c = .linkInvalid ∨ c = .notArmed then a.badLink else none) p
  | none =>
    if fallback ≠ 0 then followLink n fallback p
    else stopLane n (if a.cause = .depth then .depth else .groupAborted) none p

/-- The end test of an abort (R167). -/
def abortTest (n : Lane) (p : Part) : Part :=
  let ctx := p.lane n
  match ctx.abort, ctx.nest.getLast? with
  | some a, some outermost =>
    if (ctx.state == .aborting) && p.abortDone n then
      let p1 := releaseWhere (fun c => c.inNest n) p
      let p2 := forEach ctx.nest (fun l => laneRetires n l.record a.result) p1
      let ctx2 := p2.lane n
      let p3 := p2.setLane n { ctx2 with
        nest := [], abort := none, returnAnchor := if outermost.inDetour then ctx2.returnAnchor else none }
      (afterAbort n a outermost.record.alternate p3).emit [.arbitrate]
    else p
  | _, _ => p

/-- The actuator of the entry is one of the zone (R3): a mover whose plan zone is that zone, enabled or not, or an enabled door
of that zone. -/
def Part.entryInZone (p : Part) (e : EntryId) (k : ZoneId) : Bool :=
  match actuatorOf e with
  | .mover m => (p.planMover m).zoned && ((p.planMover m).zone == k)
  | .door d => (p.doorZones d).contains k

/-- A zone aborts each lane whose nest claims an actuator of it, once (R13, R163); of several lanes in ascending order, which no
rule gives (log entry 51). -/
def zoneAborts (k : ZoneId) (p : Part) : Part :=
  p.emit (((List.finRange 4).filter (fun n => (p.nestEntries n).any (fun e => p.entryInZone e k))).map
    (fun n => .nestAbort n .zone 0 none none))

/-- An actuator enters FAULTED, LOCAL or BLOCKED (R163, R168). -/
def faultReport (e : EntryId) (p : Part) : Part :=
  let c := p.claim e
  match c.holder with
  | some n =>
    if c.inNest n then
      (let open' := (c.status == .underWay) || (c.status == .pending)
       (whenTrue (((p.lane n).state == .aborting) && open') (markReturn e .incomplete) p).emit
         [.nestAbort n .fault 0 none none])
    else p
  | none => p

/-! ### Steady reports (R154, R162, R166) -/

/-- What a return comes to when its actuator is steady (R166): in its saved state or not. -/
def Part.returnMet (p : Part) (e : EntryId) : Bool :=
  match actuatorOf e with
  | .mover m => (p.motion m).state == .idle
  | .door d =>
    match (p.claim e).saved with
    | some .opened => (p.door d).state == .opened
    | some .closed => (p.door d).state == .closed
    | some (.position _) | none => false

/-- Settle the return status of a steady actuator. A PENDING mover in IDLE gets its return drive (R166). -/
def settleReturn (e : EntryId) (p : Part) : Part :=
  let c := p.claim e
  match c.status, actuatorOf e, c.saved with
  | .underWay, _, _ => markReturn e (if p.returnMet e then .met else .incomplete) p
  | .pending, .mover m, some (.position x) =>
    if (p.motion m).state ≠ .idle then markReturn e .incomplete p
    else if (p.zone (p.moverZone m)).state = .loading then p.emit [.moverReturn m x]
    else markReturn e .zoneLimited p
  | _, _, _ => p

/-- An actuator has entered a steady state, or an order of it has ended at once: an implicit claim is released, a
return's outcome is settled, an abort and a GROUP CLOSE are tested. An actuator that has left the state again in the
same event is not steady. -/
def steadyReport (e : EntryId) (p : Part) : Part :=
  let c := p.claim e
  match c.holder, c.kind with
  | some n, some .group =>
    if p.steady e then
      (settleReturn e p).emit [.abortTest n, .closeTest n]
    else p
  | some _, _ => if p.steady e then (p.setClaim e Claim.free).emit [.arbitrate] else p
  | none, _ => p

/-! ### GROUP OPEN, GROUP CLOSE, ABORT GROUP (R158 to R163) -/

/-- GROUP OPEN at the Claim Table (R159, R160). -/
def orderGroupOpen (n : Lane) (p : Part) : Part :=
  let need := p.normalSet (groupSet (p.currentBytes n))
  let depth := (p.lane n).nest.length
  match p.conflict n need with
  | none =>
    if depth < Config.maxDepth then openGroup n p
    else nestAbort n .depth 0 none none
      (retireCurrent n { Result.bare .aborted with detail := some 0 } p)
  | some e =>
    if depth = 0 then waitForClaim n need true p
    else if depth < Config.maxDepth then
      nestAbort n .conflict 0 none none
        (retireCurrent n { Result.bare .aborted with detail := some (BitVec.ofNat 16 e.val) } p)
    else nestAbort n .depth 0 none none
      (retireCurrent n { Result.bare .aborted with detail := some 0 } p)

/-- Every actuator of the innermost level's claim set is steady (R162). -/
def Part.levelSteady (p : Part) (n : Lane) : Bool :=
  match (p.lane n).nest with
  | top :: _ => (setEntries top.claimSet).all p.steady
  | [] => false

/-- The level of a claim after the innermost level of its lane's nest has closed into the level outside it (R162). -/
def Claim.mergeDown (c : Claim) (n : Lane) (depth : Nat) : Claim :=
  if c.inNest n && (c.level == depth) then { c with level := depth - 1 } else c

/-- The innermost level closes (R162), and the GROUP CLOSE record retires. The claims that it shows as still held are the
lane's GROUP claims (log entry 47). -/
def closeLevel (n : Lane) (p : Part) : Part :=
  let ctx := p.lane n
  match ctx.nest with
  | [] => p
  | top :: rest =>
    let depth := ctx.nest.length
    let p1 := match rest with
      | [] => (releaseWhere (fun c => c.inNest n) (p.setLane n { ctx with nest := [] })).emit [.arbitrate]
      | outer :: more =>
        { p.setLane n { ctx with nest := { outer with claimSet := outer.claimSet ||| top.claimSet } :: more } with
          claims := mapAll (fun c => c.mergeDown n depth) p.claims }
    let p2 := laneRetires n top.record
      { Result.bare .done with detail := some (BitVec.ofNat 16 depth), first := some top.opened } p1
    p2.emit [.orderEnds n
      { Result.bare .done with detail := some (BitVec.ofNat 16 depth), first := some (setOf (p2.nestEntries n)) }]

/-- The test of a GROUP CLOSE that waits (R162). -/
def closeTest (n : Lane) (p : Part) : Part :=
  if ((p.lane n).state == .waiting) && ((p.lane n).waitKind == some .groupClose) && p.levelSteady n then closeLevel n p
  else p

/-- GROUP CLOSE at the Claim Table (R162). -/
def orderGroupClose (n : Lane) (p : Part) : Part :=
  if (p.lane n).nest.isEmpty then p.emit [.orderEnds n { Result.bare .notClaimed with detail := some 0 }]
  else if p.levelSteady n then closeLevel n p
  else laneWaits n .groupClose p

/-- ABORT GROUP at the Claim Table (R163). -/
def orderAbortGroup (n : Lane) (p : Part) : Part :=
  if (p.lane n).nest.isEmpty then p.emit [.orderEnds n { Result.bare .notClaimed with detail := some 0 }]
  else nestAbort n .explicit (byteAt (p.currentBytes n) 12).toNat none none p

/-! ### The claim of an order (R154, R157) -/

/-- An order that has passed the Lane Engine's checks: its claim, then its owning block. -/
def passOrder (n : Lane) (p : Part) : Part :=
  match p.claimEntry (p.currentBytes n) with
  | none => p.emit [.blockOrder n]
  | some e =>
    if (p.lane n).nest.isEmpty then
      (if (p.claim e).openTo n then (takeImplicit n e p).emit [.blockOrder n, .steadyReport e]
       else waitForClaim n (entryBit e) false p)
    else if (p.claim e).inNest n then p.emit [.blockOrder n]
    else
      (retireCurrent n { Result.bare .notClaimed with detail := some (BitVec.ofNat 16 e.val) } p).emit
        [.nestAbort n .scope 0 none none]

end Sys2Proof.Machine
end

