-- ==== Sys2Proof/Machine/FieldLink.lean ====
section
/-! DEFINITION. The Field Link Controller (09): frames, the poll rotation, exchanges, misses, loss and recovery. -/

namespace Sys2Proof.Machine

/-! ### Stations (R169) -/

/-- The owner of a station. -/
inductive StationOwner where
  | mover (m : MoverId)
  | door (d : DoorId)
  | zone (k : ZoneId)
deriving DecidableEq, Repr

def ownerOf (st : StationId) : StationOwner :=
  if h : st.val < 8 then .mover ⟨st.val, h⟩
  else if h' : st.val < 32 then .door ⟨st.val - 8, by omega⟩
  else .zone ⟨st.val - 32, by omega⟩

/-- The station of a zone. -/
def zoneStation (k : ZoneId) : StationId := ⟨32 + k.val, by omega⟩

/-- The plan enables a station's owner. -/
def Plan.enables (plan : Plan) (st : StationId) : Bool :=
  match ownerOf st with
  | .mover m => (getAt plan.movers m).enabled
  | .door d => (getAt plan.doors d).enabled
  | .zone k => (getAt plan.zones k).enabled

/-- The miss limit of a station (R175). -/
def missLimit (st : StationId) : Nat :=
  match ownerOf st with
  | .mover _ => 3
  | .door _ | .zone _ => 2

/-! ### CRC and frames (R173, Table 9-3) -/

/-- One bit of the CRC: the generator x^16 + x^12 + x^5 + 1, most significant bit first. -/
def crcBit (crc : Half) (bit : Bool) : Half :=
  if crc.msb != bit then (crc <<< 1) ^^^ 0x1021#16 else crc <<< 1

/-- One byte enters the CRC, most significant bit first. -/
def crcByte (crc : Half) (b : Byte) : Half :=
  [7, 6, 5, 4, 3, 2, 1, 0].foldl (fun acc i => crcBit acc (b.getLsbD i)) crc

/-- The CRC over a run of bytes, from FFFFH. -/
def crcOf (bytes : List Byte) : Half := bytes.foldl crcByte 0xFFFF#16

/-- A frame with its CRC, least significant byte first. -/
def sealFrame (content : List Byte) : List Byte := content ++ halfBytes (crcOf content)

/-- The length of a station's reply. -/
def replyLength (st : StationId) : Nat :=
  match ownerOf st with
  | .mover _ => 6
  | .door _ | .zone _ => 4

/-- The address byte of a poll and of a reply. -/
def pollAddress (st : StationId) : Byte := BitVec.ofNat 8 st.val
def replyAddress (st : StationId) : Byte := BitVec.ofNat 8 (st.val + 0x80)

def boolByte (b : Bool) (i : Nat) : Byte := if b then 1#8 <<< i else 0

/-- The brake is released in these states (Table 2-4). -/
def MoverState.brakeReleased : MoverState → Bool
  | .releasing | .moving | .stopping | .settling | .floating => true
  | .offline | .idle | .localMode | .faulted => false

def DoorCommand.byte : DoorCommand → Byte
  | .idle => 0 | .close => 1 | .closeForced => 2 | .openUp => 3 | .stop => 4

/-- The poll of a station, built from the current state of its owner (R174). -/
def Part.pollFrame (p : Part) (st : StationId) : List Byte :=
  match ownerOf st with
  | .mover m =>
    let x := p.mover m
    sealFrame ([pollAddress st,
      boolByte x.motion.state.brakeReleased 0 ||| boolByte (x.motion.state == .floating) 1]
      ++ halfBytes (BitVec.ofInt 16 x.valve) ++ halfBytes (BitVec.ofNat 16 x.sent))
  | .door d => sealFrame [pollAddress st, (p.door d).command.byte, boolByte (p.door d).sounder 0]
  | .zone _ => sealFrame [pollAddress st, 0]

/-- A whole reply is valid: the CRC matches and the address is the station's (R173). -/
def replyValid (st : StationId) (bytes : List Byte) : Bool :=
  (byteAt bytes 0 == replyAddress st) &&
    (halfAt bytes (replyLength st - 2) == crcOf (bytes.take (replyLength st - 2)))

/-- The fields of a mover reply. -/
def moverReplyOf (bytes : List Byte) : MoverReply :=
  let b := byteAt bytes 1
  { brakeReleased := b.getLsbD 0, toeBroken := b.getLsbD 1, localMode := b.getLsbD 2, stationFault := b.getLsbD 3,
    position := (halfAt bytes 2).toNat }

/-- The fields of a door reply. -/
def doorReplyOf (bytes : List Byte) : DoorReply :=
  let b := byteAt bytes 1
  { openLimit := b.getLsbD 0, closedLimit := b.getLsbD 1, beamBroken := b.getLsbD 2, edge := b.getLsbD 3,
    localMode := b.getLsbD 4, motorFault := b.getLsbD 5 }

/-- The loop status of a zone reply. -/
def loopOf (b : Byte) : LoopStatus :=
  match (b &&& 3).toNat with
  | 0 => .normal
  | 1 => .one
  | 2 => .two
  | _ => .loopFault

/-! ### The poll rotation (R171) -/

/-- A station is due in the cycle of this number. -/
def Station.dueIn (s : Station) (st : StationId) (cycle : Nat) : Bool :=
  s.polled &&
    (if s.state = .lost then st.val == cycle
     else match ownerOf st with
       | .mover _ => true
       | .door _ | .zone _ => st.val % 4 == cycle % 4)

/-- The due stations of a cycle, ascending. -/
def Part.dueStations (p : Part) (cycle : Nat) : List StationId :=
  (List.finRange 44).filter (fun st => (p.station st).dueIn st cycle)

/-- The field link's part of a field cycle start: the number is raised, then the exchanges are fixed (R171). -/
def startCycle (p : Part) : Part :=
  let cycle := (p.field.cycleNumber + 1) % 64
  { p with field := { p.field with cycleNumber := cycle, due := p.dueStations cycle } }

/-- The next exchange can begin: none is under way and a station is still due. -/
def pollDue (p : Part) : Bool := p.field.exchange.isNone && !p.field.due.isEmpty

/-- POLL: the next due exchange begins and its poll is sent (R172, R174). -/
def poll (p : Part) : Part :=
  match p.field.due with
  | [] => p
  | st :: rest =>
    let released := match ownerOf st with
      | .mover m => (p.mover m).motion.state.brakeReleased
      | .door _ | .zone _ => false
    { p with field := { p.field with
        due := rest, exchange := some { station := st, released := released, discard := false },
        sentFrame := p.pollFrame st } }

/-! ### The outcome (R175, R176) -/

/-- A valid reply changes the station record. -/
def Station.onReply (s : Station) (status : Byte) (position : Nat) : Station :=
  { s with state := .online, misses := 0, status := status, position := position }

/-- A miss changes the station record (Table 9-4). -/
def Station.onMiss (s : Station) (limit : Nat) : Station :=
  if s.state = .lost then { s with misses := limit }
  else if s.misses + 1 < limit then
    { s with state := if s.state = .unknown then .unknown else .missing, misses := s.misses + 1 }
  else { s with state := .lost, misses := limit }

/-- Count an entry to LOST (R175). -/
def countLoss (st : StationId) (p : Part) : Part :=
  { p with field := { p.field with lastLost := some st, lossCount := p.field.lossCount + 1 } }

/-- The exchange of the other end of a pair is still to come in this cycle (R46). -/
def Part.otherEndDue (p : Part) (m : MoverId) : Bool :=
  match p.partner m with
  | some q => p.field.due.contains (moverStation q)
  | none => false

/-- No control step comes from this end: the input that the other end has stored is used alone (R176). -/
def flushPair (m : MoverId) (p : Part) : Part :=
  if (p.ends m).any (fun e => (p.mover e).step.isSome) && !p.otherEndDue m then controlStep m p else p

/-- A valid reply reaches the owning block (R176). -/
def deliverReply (st : StationId) (before : LinkCond) (released : Bool) (bytes : List Byte) (p : Part) : Part :=
  match ownerOf st with
  | .mover m => moverInput m { reply := some (moverReplyOf bytes), released := released } (p.otherEndDue m) p
  | .door d => doorReply d (doorReplyOf bytes) (p.setDoor d { p.door d with link := .online })
  | .zone k => zoneReply k (loopOf (byteAt bytes 1)) ((byteAt bytes 1).getLsbD 2) (before == .lost) p

/-- A miss reaches the owning block (R176). -/
def deliverMiss (st : StationId) (before after : LinkCond) (released : Bool) (p : Part) : Part :=
  match ownerOf st with
  | .mover m =>
    if before = .lost then flushPair m p
    else if after = .lost then flushPair m (moverLost m p)
    else moverInput m { reply := none, released := released } (p.otherEndDue m) p
  | .door d =>
    let p1 := p.setDoor d { p.door d with link := after }
    if after = .lost ∧ before ≠ .lost then doorLost d p1 else p1
  | .zone k =>
    if after = .lost ∧ before ≠ .lost then zoneLost k p else p.setZone k { p.zone k with link := after }

/-- The exchange completes (R172, R175, R176): with a whole reply, or with none at the close of the window. -/
def completeExchange (whole : Option (List Byte)) (p : Part) : Part :=
  match p.field.exchange with
  | none => p
  | some x =>
    let st := x.station
    let p0 := { p with field := { p.field with exchange := none } }
    if x.discard then p0
    else
      let s := p0.station st
      match whole.filter (replyValid st) with
      | some bytes =>
        let position := match ownerOf st with
          | .mover _ => (halfAt bytes 2).toNat
          | .door _ | .zone _ => 0
        deliverReply st s.state x.released bytes (p0.setStation st (s.onReply (byteAt bytes 1) position))
      | none =>
        let s' := s.onMiss (missLimit st)
        let p1 := p0.setStation st s'
        let p2 := if s'.state = .lost ∧ s.state ≠ .lost then countLoss st p1 else p1
        deliverMiss st s.state s'.state x.released p2

/-- REPLY: bytes arrive in the window (R172). With fewer bytes than the frame has, no whole reply is received and the
exchange goes on; bytes after a whole reply are discarded. -/
def replyBytes (bytes : List Byte) (p : Part) : Part :=
  match p.field.exchange with
  | none => p
  | some x =>
    let need := replyLength x.station
    if bytes.length < need then p else completeExchange (some (bytes.take need)) p

/-- REPLY_WINDOW_CLOSE: the exchange completes as a miss (R172). -/
def replyWindowClose (p : Part) : Part := completeExchange none p

end Sys2Proof.Machine
end

