-- ==== Sys2Proof/Machine/DeckPlan.lean ====
section
/-! DEFINITION. The Deck Plan (10): reading, testing and clamping a plan area, and adoption with what each block does in
the adoption event (R23, R55, R82, R120, R177). -/

namespace Sys2Proof.Machine

/-! ### Reading the plan area (R178) -/

/-- The bytes of a plan area as ADOPT PLAN reads them. -/
abbrev Area := Nat → Byte

def areaAt (m : List Host.Cell) (link : Half) : Area := fun i => readByte m (slotBase link + i)

def Area.byte (a : Area) (i : Nat) : Nat := (a i).toNat
def Area.half (a : Area) (i : Nat) : Nat := (a i).toNat + 256 * (a (i + 1)).toNat
def Area.bit (a : Area) (i : Nat) : Bool := (a i).getLsbD 0

def zoneBase (k : ZoneId) : Nat := 64 + 32 * k.val
def moverBase (m : MoverId) : Nat := 448 + 128 * m.val
def doorBase (d : DoorId) : Nat := 1472 + 32 * d.val
def patternBase (j : Fin 8) : Nat := 2240 + 8 * j.val
def messageBase (i : Nat) : Nat := 2304 + 2 * i

/-- A field that may name none holds FFH (R178). -/
def Area.named (n : Nat) [NeZero n] (a : Area) (i : Nat) : Option (Fin n) :=
  if a.byte i < n then some (Fin.ofNat n (a.byte i)) else none

def clampNat (lo hi x : Nat) : Nat := Nat.max lo (Nat.min hi x)

/-! ### Testing (R179) -/

/-- A field of the plan: its table, its entry index as the detail shows it, and its offset within the entry. -/
structure FieldRef where
  table  : Nat
  entry  : Nat
  offset : Nat
deriving DecidableEq, Repr

/-- The detail of R179: the table in the low byte, the entry in the high byte. -/
def FieldRef.detail (f : FieldRef) : Nat := f.table + 256 * f.entry

/-- The offsets of an entry with whether the field is fit, as references. -/
def refs (table entry : Nat) (l : List (Nat × Bool)) : List (FieldRef × Bool) :=
  l.map (fun c => ({ table := table, entry := entry, offset := c.1 }, c.2))

def inRange (lo hi x : Nat) : Bool := decide (lo ≤ x ∧ x ≤ hi)

def Area.headerTests (a : Area) : List (FieldRef × Bool) :=
  refs 0 0 [(4, inRange 1 8 (a.byte 4)), (5, inRange 0 8 (a.byte 5)), (7, inRange 1 8 (a.byte 7)),
            (8, inRange 1 8 (a.byte 8)), (9, inRange 1 8 (a.byte 9))]

def Area.zoneTests (a : Area) (k : ZoneId) : List (FieldRef × Bool) :=
  let b := zoneBase k
  if a.bit b then refs 1 k.val [(6, inRange 1 8 (a.byte (b + 6)))] else []

/-- The pair conditions on an enabled mover's partner field (R179). -/
def Area.partnerFit (a : Area) (m : MoverId) : Bool :=
  let b := moverBase m
  let q := a.byte (b + 3)
  if a.byte (b + 1) = 2 then
    (match a.named 8 (b + 3) with
     | none => false
     | some q' =>
       let b' := moverBase q'
       (q' != m) && a.bit b' && (a.byte (b' + 1) == 2) && (a.byte (b' + 3) == m.val) &&
         (a.byte (b' + 2) == a.byte (b + 2)))
  else q == 0xFF

def Area.moverTests (a : Area) (m : MoverId) : List (FieldRef × Bool) :=
  let b := moverBase m
  let pre := a.byte (b + 19)
  if a.bit b then
    refs 2 m.val
      [(1, inRange 0 2 (a.byte (b + 1))), (2, inRange 0 11 (a.byte (b + 2))), (3, a.partnerFit m),
       (4, decide (a.half (b + 4) < a.half (b + 6))),
       (19, (pre == 0xFF) || (inRange 0 7 pre && (pre != m.val))),
       (25, (pre == 0xFF) || inRange 1 8 (a.byte (b + 25))),
       (48, (a.byte (b + 1) != 2) ||
         decide (clampNat 1 1023 (a.half (b + 48)) < clampNat 1 1023 (a.half (b + 50))))]
  else []

def Area.doorTests (a : Area) (d : DoorId) : List (FieldRef × Bool) :=
  let b := doorBase d
  let zb := a.byte (b + 2)
  if a.bit b then
    refs 3 d.val [(1, inRange 0 11 (a.byte (b + 1))), (2, (zb == 0xFF) || (inRange 0 11 zb && (zb != a.byte (b + 1))))]
  else []

def Area.patternTests (a : Area) (j : Fin 8) : List (FieldRef × Bool) :=
  refs 4 (j.val + 1) [(0, decide (2 ≤ a.half (patternBase j)))]

/-- Every test of R179 in its order. -/
def Area.tests (a : Area) : List (FieldRef × Bool) :=
  a.headerTests ++ (List.finRange 12).flatMap a.zoneTests ++ (List.finRange 8).flatMap a.moverTests ++
    (List.finRange 24).flatMap a.doorTests ++ (List.finRange 8).flatMap a.patternTests

/-- The first condition of R179 that the area meets, if any. -/
def Area.invalid (a : Area) : Option FieldRef := (a.tests.find? (fun c => !c.2)).map (fun c => c.1)

/-! ### The clamped copy (R180) -/

def Area.planHeader (a : Area) : PlanHeader :=
  { claimWait := a.half 0, muster := BitVec.ofNat 16 (a.half 2), firePattern := a.byte 4, fireChime := a.byte 5,
    fireRepeats := clampNat 1 15 (a.byte 6), chimeRoutine := a.byte 7, chimeUrgent := a.byte 8,
    chimeEmergency := a.byte 9 }

/-- The warn pattern of a zone entry: R179 tests that of an enabled entry alone, and a door may sound on the line of a
zone that is not enabled (R57, R63). A byte that names no pattern stands for a free one (log entry 24). -/
def Area.warnPattern (a : Area) (k : ZoneId) : Nat :=
  let x := a.byte (zoneBase k + 6)
  if inRange 1 8 x then x else 1 + (Config.openPattern (a (zoneBase k + 6))).val

/-- The value of a clamped field: R180 takes that of an enabled entry to the nearer end of its range; the copy of an entry
that is not enabled holds what the area holds (R178; log entry 36). -/
def fitted (enabled : Bool) (lo hi x : Nat) : Nat := if enabled then clampNat lo hi x else x

/-- A zone entry, enabled or not (R178, Table 10-3). -/
def Area.planZone (a : Area) (k : ZoneId) : PlanZone :=
  let b := zoneBase k
  let on := a.bit b
  { enabled := on, autoShut := a.bit (b + 1), confirm := fitted on 0 12000 (a.half (b + 2)), fireMessage := a (b + 4),
    shutMessage := a (b + 5), warnPattern := a.warnPattern k }

/-- The kind that a byte codes (Table 10-4). No rule tells a byte above 2, which an entry that is not enabled may hold, from
PANEL_END: neither is a RAMP (R49; log entry 36). -/
def moverKindOf (code : Nat) : MoverKind := if code = 0 then .ramp else if code = 1 then .visor else .panelEnd

/-- A mover entry, enabled or not (R178, Table 10-4): R49 reads the kind of a mover that is not enabled. -/
def Area.planMover (a : Area) (m : MoverId) : PlanMover :=
  let b := moverBase m
  let on := a.bit b
  let lower := a.half (b + 4)
  let upper := a.half (b + 6)
  let vmax := fitted on 1 32767 (a.half (b + 8))
  let vapp := fitted on 1 vmax (a.half (b + 14))
  { enabled := on, kind := moverKindOf (a.byte (b + 1)), zoned := decide (a.byte (b + 2) < 12),
    zone := Fin.ofNat 12 (a.byte (b + 2)), partner := a.named 8 (b + 3), lower := lower, upper := upper, vmax := vmax,
    accel := fitted on 1 4095 (a.half (b + 10)), vc := fitted on 1 vapp (a.half (b + 12)), vapp := vapp,
    dapp := fitted on 0 4095 (a.half (b + 16)), kp := a.byte (b + 18), kf := fitted on 0 4095 (a.half (b + 20)),
    efollow := fitted on 1 4095 (a.half (b + 22)), etol := fitted on 1 255 (a.byte (b + 24)),
    prerequisite := a.named 8 (b + 19), prePreset := a.byte (b + 25),
    preTolerance := fitted on 0 4095 (a.half (b + 26)), settleLimit := a.half (b + 28),
    brakeTime := fitted on 0 500 (a.half (b + 30)),
    presets := tableOf 8 (fun i => fitted on lower upper (a.half (b + 32 + 2 * i.val))),
    shold := fitted on 1 1023 (a.half (b + 48)), sfault := fitted on 1 1023 (a.half (b + 50)),
    floatWindow := a.half (b + 52), floatMin := a.half (b + 54), floatMax := a.half (b + 56) }

/-- A door entry, enabled or not (R178, Table 10-5). -/
def Area.planDoor (a : Area) (d : DoorId) : PlanDoor :=
  let b := doorBase d
  let on := a.bit b
  let lead := fitted on 0 6000 (a.half (b + 4))
  { enabled := on, zoneA := Fin.ofNat 12 (a.byte (b + 1)), zoneB := a.named 12 (b + 2),
    retries := fitted on 0 7 (a.byte (b + 3)), lead := lead, fireLead := fitted on 0 lead (a.half (b + 6)),
    motionLimit := fitted on 100 12000 (a.half (b + 8)), retryDelay := fitted on 0 6000 (a.half (b + 10)) }

def Area.planPattern (a : Area) (j : Fin 8) : PlanPattern :=
  let b := patternBase j
  let period := clampNat 2 4095 (a.half b)
  { period := period, lead := clampNat 0 (period - 1) (a.half (b + 2)), count := a.byte (b + 4) }

/-- The copy that is adopted (R180). -/
def Area.plan (a : Area) : Plan :=
  { header := a.planHeader, zones := tableOf 12 a.planZone, movers := tableOf 8 a.planMover,
    doors := tableOf 24 a.planDoor, patterns := tableOf 8 a.planPattern,
    messages := (List.range 255).map (fun i => a.half (messageBase i)) }

/-- The clamped fields of an entry: the offset, the value read and the value adopted. -/
def clamps (table entry : Nat) (l : List (Nat × Nat × Nat)) : List FieldRef :=
  (l.filter (fun c => c.2.1 != c.2.2)).map (fun c => { table := table, entry := entry, offset := c.1 })

def Area.zoneClamps (a : Area) (k : ZoneId) : List FieldRef :=
  let b := zoneBase k
  clamps 1 k.val [(2, a.half (b + 2), (a.planZone k).confirm)]

def Area.moverClamps (a : Area) (m : MoverId) : List FieldRef :=
  let b := moverBase m
  let e := a.planMover m
  clamps 2 m.val
    ([(8, a.half (b + 8), e.vmax), (10, a.half (b + 10), e.accel), (12, a.half (b + 12), e.vc),
      (14, a.half (b + 14), e.vapp), (16, a.half (b + 16), e.dapp), (20, a.half (b + 20), e.kf),
      (22, a.half (b + 22), e.efollow), (24, a.byte (b + 24), e.etol), (26, a.half (b + 26), e.preTolerance),
      (30, a.half (b + 30), e.brakeTime)]
     ++ (List.finRange 8).map (fun i => (32 + 2 * i.val, a.half (b + 32 + 2 * i.val), getAt e.presets i))
     ++ [(48, a.half (b + 48), e.shold), (50, a.half (b + 50), e.sfault)])

def Area.doorClamps (a : Area) (d : DoorId) : List FieldRef :=
  let b := doorBase d
  let e := a.planDoor d
  clamps 3 d.val [(3, a.byte (b + 3), e.retries), (4, a.half (b + 4), e.lead), (6, a.half (b + 6), e.fireLead),
                  (8, a.half (b + 8), e.motionLimit), (10, a.half (b + 10), e.retryDelay)]

def Area.patternClamps (a : Area) (j : Fin 8) : List FieldRef :=
  let b := patternBase j
  let e := a.planPattern j
  clamps 4 (j.val + 1) [(0, a.half b, e.period), (2, a.half (b + 2), e.lead)]

/-- Every clamped field in the order of R179. -/
def Area.clamped (a : Area) : List FieldRef :=
  clamps 0 0 [(6, a.byte 6, a.planHeader.fireRepeats)] ++ (List.finRange 12).flatMap a.zoneClamps ++
    (List.finRange 8).flatMap a.moverClamps ++ (List.finRange 24).flatMap a.doorClamps ++
    (List.finRange 8).flatMap a.patternClamps

/-! ### The quiet deck (R181) -/

/-- The pair partner that the area gives a mover, read before R179 is applied: that of an entry enabled and of kind
PANEL_END, whether or not the other entry names it back. An entry that another one names so gets no partner by that: the mover's own
entry alone is read (log entry 46). -/
def Area.partner (a : Area) (m : MoverId) : Option MoverId :=
  if a.bit (moverBase m) && (a.byte (moverBase m + 1) == 2) then a.named 8 (moverBase m + 3) else none

/-- The area would disable the held actuator, which the plan in force enables, or change its pair (R181, test 4). The entries read are
that of the held mover and that of its partner in the plan in force (log entry 46). -/
def Part.upsets (p : Part) (a : Area) (e : EntryId) : Bool :=
  match actuatorOf e with
  | .mover m =>
    (p.ends m).any (fun x => ((p.planMover x).enabled && !a.bit (moverBase x)) || (a.partner x != p.partner x))
  | .door d => (p.planDoor d).enabled && !a.bit (doorBase d)

/-- The four BUSY tests in order: detail and first value. Of several that meet a test the lowest index is named (log entry
45). -/
def Part.adoptionBusy (p : Part) (n : Lane) (a : Area) : Option (Nat × Nat) :=
  let moving := fun (m : MoverId) =>
    (p.motion m).state.inMotionSet || ((p.motion m).state == .settling)
  match (List.finRange 8).find? moving with
  | some m => some (1, m.val)
  | none =>
    match (List.finRange 24).find? (fun d => (p.door d).state.inSequence || ((p.door d).state == .opening)) with
    | some d => some (2, d.val)
    | none =>
      match (List.finRange 4).find? (fun l => (l != n) && !(p.lane l).nest.isEmpty) with
      | some l => some (3, l.val)
      | none =>
        match (List.finRange 32).find? (fun e => (p.claim e).holder.isSome && p.upsets a e) with
        | some e => some (4, e.val)
        | none => none

/-! ### What each block does in the adoption event -/

/-- A mover under the new plan, taken alone (R55): newly enabled or disabled, or FLOATING and no RAMP any more. -/
def adoptMoverAlone (old : Plan) (m : MoverId) (p : Part) : Part :=
  let x := p.mover m
  let was := (getAt old.movers m).enabled
  let now := (p.planMover m).enabled
  let record : List Act := match x.motion.waiting with
    | some n => [.orderEnds n (moverResult n .stopped 0 none p)]
    | none => []
  if was != now then (p.setMover m Mover.reset).emit record
  else if (x.motion.state == .floating) && ((p.planMover m).kind != .ramp) then
    (p.setMover m ({ x with motion := { x.motion.atRest x.position with waiting := none } }.atRest x.position)).emit record
  else p

/-- The common state of two movers that the plan makes a pair, or the setpoint of an IDLE one (R55). Of two FAULTED ends
the leading end gives the cause, and a pair that is not IDLE sends the leading end's sp (log entry 39). -/
def adoptPair (m : MoverId) (p : Part) : Part :=
  let ends := p.ends m
  let motions := ends.map p.motion
  let quiet := fun (mo : Motion) =>
    forEach ends (fun e q => q.setMover e { q.mover e with motion := mo, valve := 0, sent := (p.mover m).sent }) p
  match motions.find? (fun mo => mo.state == .faulted) with
  | some mo => quiet mo
  | none =>
    match motions.find? (fun mo => mo.state == .localMode) with
    | some mo => quiet mo
    | none =>
      if motions.any (fun mo => mo.state == .offline) then quiet Motion.reset
      else if motions.any (fun mo => mo.state == .idle) then
        (let c := p.restCount m
         forEach ends (fun e q => q.setMover e (({ q.mover e with motion := (p.motion m).atRest c }).atRest c)) p)
      else p

/-- An end stores the outcome that it has kept for the other end; no control step comes of it. -/
def storeKept (m : MoverId) (p : Part) : Part :=
  let q := storeReply m p
  q.setMover m { q.mover m with step := none }

/-- The movers in the adoption event (R55). An end whose pair the plan changes stores the reply that it has kept for the
other end, and no control step comes of it (R46, R176; log entry 30). -/
def adoptMovers (old : Plan) (p : Part) : Part :=
  let p1 := forEach (List.finRange 8)
    (fun m q => if old.partner m = q.partner m then q else storeKept m q) p
  forEach ((List.finRange 8).filter (fun m => (p1.planMover m).enabled && (p1.leader m == m))) adoptPair
    (forEach (List.finRange 8) (adoptMoverAlone old) p1)

/-- The doors in the adoption event (R82). -/
def adoptDoors (old : Plan) (p : Part) : Part :=
  forEach (List.finRange 24)
    (fun d q => if (getAt old.doors d).enabled = (q.planDoor d).enabled then q else q.setDoor d Door.reset) p

/-- The stations in the adoption event (R171, R177). -/
def adoptStations (old : Plan) (p : Part) : Part :=
  let plan := p.inForce
  let p1 := forEach (List.finRange 44)
    (fun st q => if old.enables st = plan.enables st then q
                 else q.setStation st { Station.reset with polled := plan.enables st }) p
  let keep := fun st => old.enables st && plan.enables st
  { p1 with field := { p1.field with
      due := p1.field.due.filter keep,
      exchange := p1.field.exchange.map (fun x => if keep x.station then x else { x with discard := true }) } }

/-- The not-closed count of a zone from the door states (R3). -/
def Part.countNotClosed (p : Part) (k : ZoneId) : Nat :=
  ((p.zoneDoors k).filter (fun d => (p.door d).state != .closed)).length

/-- The doors of a zone before the adoption. -/
def Plan.zoneHadDoor (old : Plan) (k : ZoneId) (d : DoorId) : Bool :=
  let e := getAt old.doors d
  e.enabled && (getAt old.zones k).enabled && ((e.zoneA == k) || (e.zoneB == some k))

/-- A zone in the adoption event (R23). -/
def adoptZone (old : Plan) (k : ZoneId) (p : Part) : Part :=
  let was := (getAt old.zones k).enabled
  let now := (p.planZone k).enabled
  if !now then
    whenTrue was (fun q => q.emit [.endShutWaiters k .superseded]) (p.setZone k Zone.reset)
  else
    let z := if was then p.zone k else Zone.reset
    let count := p.countNotClosed k
    let reopens := (z.state == .shut) && (count != 0)
    let z' := { z with notClosed := count, state := if reopens then .shutting else z.state }
    let asked := (p.zoneDoors k).filter (fun d =>
      if reopens then (p.door d).state != .closed
      else (z'.state == .shutting) && !old.zoneHadDoor k d)
    (p.setZone k z').emit (asked.map (fun d => .doorZoneRequest d) ++ [.shutTest k])

/-- The waiters' needs under the new plan's pairs (R155). -/
def adoptWaiters (p : Part) : Part :=
  { p with waiters := p.waiters.map (fun w =>
      let r := p.currentBytes w.lane
      { w with need := if w.isGroup then p.normalSet (groupSet r)
                       else ((p.claimEntry r).map entryBit).getD w.need }) }

/-- The adoption event (R182). -/
def adopt (plan : Plan) (p : Part) : Part :=
  let old := p.inForce
  let p1 := { p with plan := some plan, generation := p.generation + 1,
                     port := { p.port with partState := .ready } }
  let p2 := adoptStations old (adoptDoors old (adoptMovers old p1))
  adoptWaiters (restartFireLines (syncFire (forEach (List.finRange 12) (adoptZone old) p2)))

/-- ADOPT PLAN at the Deck Plan (R178 to R182). -/
def orderAdoptPlan (m : List Host.Cell) (n : Lane) (p : Part) : Part :=
  let a := areaAt m (paramHalf (p.currentBytes n))
  match p.adoptionBusy n a with
  | some (detail, first) =>
    p.emit [.orderEnds n { Result.bare .busy with
      detail := some (BitVec.ofNat 16 detail), first := some (word first) }]
  | none =>
    match a.invalid with
    | some f => p.emit [.orderEnds n (Result.of .planInvalid f.detail p.generation (word f.offset))]
    | none =>
      let p1 := adopt a.plan p
      match a.clamped with
      | [] => p1.emit [.orderEnds n (Result.of .done 0 p1.generation 0)]
      | f :: rest =>
        (markClamped n p1).emit
          [.orderEnds n (Result.of .done f.detail p1.generation (word (f.offset + 65536 * (rest.length + 1))))]

end Sys2Proof.Machine
end

