-- ==== Sys2Proof/Machine/Lanes.lean ====
section
/-! DEFINITION. The Lane Engine (07): taking a record, the checks, the ends of orders, the lane-control orders, resting,
and the lane signals. -/

namespace Sys2Proof.Machine

/-! ### Links in exchange memory (R124, R142) -/

/-- Lane `n`'s start link in the header (Table 6-2). -/
def startLink (m : List Host.Cell) (n : Lane) : Half := readHalf m (16 + 8 * n.val)

/-- The next link of the record in a slot (Table 6-3). -/
def nextLinkOf (m : List Host.Cell) (link : Half) : Half := readHalf m (slotBase link + 4)

/-! ### The end of an order (R141) -/

/-- An order ends: its record retires, and the lane goes on by the class of the result with the links it kept. -/
def orderEnds (n : Lane) (r : Result) (p : Part) : Part :=
  match (p.lane n).current with
  | none => p
  | some held =>
    let p1 := retireCurrent n r p
    if !r.code.failure then followLink n held.next p1
    else if held.alternate ≠ 0 then followLink n held.alternate p1
    else if (p1.lane n).nest.isEmpty then stopLane n .failedOrder none p1
    else nestAbort n .order 0 none none p1

/-! ### Taking a record (R138, R139) -/

/-- A link cannot be taken (R143): the lane stops, or its nest aborts first. -/
def cannotTake (n : Lane) (cause : LaneCause) (link : Half) (p : Part) : Part :=
  if (p.lane n).nest.isEmpty then stopLane n cause (some link) p
  else nestAbort n .order 0 (some cause) (some link) p

/-- The kinds that need no plan (R139, check 2). -/
def OrderKind.needsNoPlan : OrderKind → Bool
  | .adoptPlan | .setClock | .hold | .mark | .detour | .ret | .haltLane => true
  | _ => false

/-- The orders that need bridge authority (R139, check 3). -/
def needsBridge (r : List Byte) : OrderKind → Bool
  | .forceClose | .disableDetection | .enableDetection | .resetAlarm | .reopenZone | .adoptPlan | .setClock => true
  | .call => callPriority r == .emergency
  | _ => false

/-- The expect precondition holds (R139, check 4). -/
def Part.expectMet (p : Part) (r : List Byte) : Bool :=
  (imageExpectMask r == 0) ||
    (imageExpectMask r).getLsbD (p.zone (Fin.ofNat 12 (imageExpectZone r).toNat)).state.num

/-- A refusal of R139 with its detail and first value. -/
def checkRefusal (code : ResultCode) (detail first : Nat) : Result :=
  { Result.bare code with detail := some (BitVec.ofNat 16 detail), first := some (word first) }

/-- The first refusal of R139 for the record with these bytes, if any. -/
def Part.refusal (p : Part) (n : Lane) (r : List Byte) : Option Result :=
  match p.badField r, imageKind r with
  | some offset, _ => some (checkRefusal .badRecord offset 0)
  | none, none => some (checkRefusal .badRecord 1 0)
  | none, some k =>
    if p.plan.isNone && !k.needsNoPlan then some (checkRefusal .noPlan k.num 0)
    else if needsBridge r k && !(p.lane n).bridge then some (checkRefusal .authority k.num 0)
    else if !p.expectMet r then
      some (checkRefusal .mismatch (imageExpectZone r).toNat
        (p.zone (Fin.ofNat 12 (imageExpectZone r).toNat)).state.num)
    else none

/-- The writes of a taking (R126): the accepted time, a result code of 00H, and ACTIVE over ARMED last. The bytes that
share a word with a field of one byte stay as they were (R122; log entry 48). -/
def writeTaken (link : Half) (standing : Bool) (p : Part) : Part :=
  let base := slotBase link
  let p1 := ((p.write (base + 48) (wordBytes p.now.seconds)).write (base + 56) [centisByte p.now]).write (base + 36) [0]
  if standing then p1 else p1.write base [ownerActive]

/-- The lane takes the record with image `r` in slot `link` (R138): it keeps the content, uses one of its budget, and
the order is refused or goes on. -/
def takeRecord (n : Lane) (link : Half) (r : List Byte) (p : Part) : Part :=
  let standing := imageOwner r == ownerStanding
  let held : HeldRecord := { link := link, standing := standing, bytes := r, clamped := false }
  let ctx := p.lane n
  let p1 := writeTaken link standing
    (p.setLane n { ctx with current := some held, link := none, budget := ctx.budget - 1, holdMarks := 0 })
  match p1.refusal n r with
  | some res => p1.emit [.orderEnds n res]
  | none => p1.emit [.passOrder n]

/-- The lane can take its link now (R138). -/
def Part.takesNow (p : Part) (n : Lane) : Option Half :=
  let ctx := p.lane n
  if ctx.state = .working ∧ 0 < ctx.budget then ctx.link else none

/-- LINK_TAKE (R138). -/
def linkTake (n : Lane) (m : List Host.Cell) (p : Part) : Part :=
  match p.takesNow n with
  | none => p
  | some link =>
    if linkValid link then
      (let r := readImage m link
       if (imageOwner r == ownerArmed) || (imageOwner r == ownerStanding) then takeRecord n link r p
       else cannotTake n .notArmed link p)
    else cannotTake n .linkInvalid link p

/-! ### Lane-control orders (R144 to R150) -/

/-- HOLD (R144). -/
def orderHold (n : Lane) (p : Part) : Part :=
  let r := p.currentBytes n
  if p.holdMet n r then p.emit [.orderEnds n (holdResult n .condition p)]
  else
    let p1 := laneWaits n .hold p
    p1.setLane n { p1.lane n with holdTimer := startTimer (holdDuration r) }

/-- DETOUR (R147). -/
def orderDetour (n : Lane) (p : Part) : Part :=
  let target := paramHalf (p.currentBytes n)
  match (p.lane n).returnAnchor, (p.lane n).current with
  | some l, _ => p.emit [.orderEnds n { Result.bare .nestedDetour with first := some (l.setWidth 32) }]
  | none, none => p
  | none, some held =>
    let p1 := retireCurrent n { Result.bare .done with first := some (target.setWidth 32) } p
    followLink n target (p1.setLane n { p1.lane n with returnAnchor := some held.link })

/-- RETURN (R148). -/
def orderReturn (n : Lane) (m : List Host.Cell) (p : Part) : Part :=
  match (p.lane n).returnAnchor with
  | some l =>
    let p1 := retireCurrent n { Result.bare .done with first := some (l.setWidth 32) } p
    let ctx := p1.lane n
    followLink n (nextLinkOf m l) (p1.setLane n { ctx with
      anchor := .record l, returnAnchor := none, nest := ctx.nest.map (fun x => { x with inDetour := false }) })
  | none => followLink n 0 (retireCurrent n { Result.bare .done with first := some 0 } p)

/-- MARK (R149). -/
def orderMark (n : Lane) (p : Part) : Part :=
  let code := paramHalf (p.currentBytes n)
  ((p.setLane n { p.lane n with lastMark := code }).forceSlot (laneSlot n)).emit
    [.orderEnds n { Result.bare .done with first := some (code.setWidth 32) }]

/-- HALT LANE (R150). -/
def orderHaltLane (n : Lane) (p : Part) : Part :=
  let p1 := retireCurrent n (Result.bare .done) p
  if (p1.lane n).nest.isEmpty then stopLane n .haltOrder none p1
  else nestAbort n .cancel 0 (some .haltOrder) none p1

/-- SET CLOCK at the Time Base (R111). -/
def orderSetClock (n : Lane) (p : Part) : Part :=
  let value := clockSeconds (p.currentBytes n)
  let old := p.time.clock.seconds
  { p with time := { p.time with clock := { seconds := value, centis := 0 }, restart := true } }.emit
    [.orderEnds n { Result.bare .done with first := some value, second := some old }]

/-- HOLD_EXPIRY (R144, Table 7-5). -/
def holdExpiry (n : Lane) (p : Part) : Part :=
  let code : ResultCode := if holdCondition (p.currentBytes n) = 0xFF then .done else .expired
  p.emit [.orderEnds n (holdResult n code p)]

def holdDue (n : Lane) (p : Part) : Bool :=
  ((p.lane n).waitKind == some .hold) && expired (p.lane n).holdTimer

/-- The lanes whose HOLD condition holds (R145), tested when an event has done everything else (log entry 8), in ascending order,
which no rule gives (log entry 51). -/
def Part.metHolds (p : Part) : List Lane :=
  (List.finRange 4).filter (fun n =>
    ((p.lane n).state == .waiting) && ((p.lane n).waitKind == some .hold) && p.holdMet n (p.currentBytes n))

/-- Every HOLD whose condition is met ends CONDITION (R145), by ascending lane (log entry 51). -/
def endMetHolds (p : Part) : Part := p.emit (p.metHolds.map (fun n => .orderEnds n (holdResult n .condition p)))

/-! ### The order at its owning block (R139, R140) -/

/-- The order of lane `n`'s current record reaches its owning block. -/
def blockOrder (n : Lane) (m : List Host.Cell) (p : Part) : Part :=
  match imageKind (p.currentBytes n) with
  | none => p
  | some .hold => orderHold n p
  | some .detour => orderDetour n p
  | some .ret => orderReturn n m p
  | some .mark => orderMark n p
  | some .haltLane => orderHaltLane n p
  | some .groupOpen => orderGroupOpen n p
  | some .groupClose => orderGroupClose n p
  | some .abortGroup => orderAbortGroup n p
  | some .setLoading => orderSetLoading n p
  | some .setSecure => orderSetSecure n p
  | some .shutZone => orderShutZone n p
  | some .reopenZone => orderReopenZone n p
  | some .disableDetection => orderDisableDetection n p
  | some .enableDetection => orderEnableDetection n p
  | some .resetAlarm => orderResetAlarm n p
  | some .move => orderMove n p
  | some .stopMover => orderStopMover n p
  | some .floatRamp => orderFloatRamp n p
  | some .clearMoverFault => orderClearMoverFault n p
  | some .closeDoor => orderCloseDoor n p
  | some .openDoor => orderOpenDoor n p
  | some .forceClose => orderForceClose n p
  | some .clearDoorFault => orderClearDoorFault n p
  | some .call => orderCall n p
  | some .cancelCall => orderCancelCall n p
  | some .setClock => orderSetClock n p
  | some .adoptPlan => orderAdoptPlan m n p

/-! ### Resting and the lane signals (R137, R142, R146, R151, R152) -/

/-- Reread the anchor of a RESTING lane (R142). -/
def reread (n : Lane) (m : List Host.Cell) (p : Part) : Part :=
  let ctx := p.lane n
  if ctx.state = .resting then
    followLink n
      (match ctx.anchor with
       | .record l => nextLinkOf m l
       | .start => startLink m n
       | .absent => 0) p
  else p

/-- A START takes effect on the lane (R137). -/
def Part.startable (p : Part) (n : Lane) : Bool :=
  (((p.lane n).state == .idle) || ((p.lane n).state == .stopped)) && p.port.lanesEnable &&
    ((p.port.partState == .planWait) || (p.port.partState == .ready))

/-- SIGNAL START for a lane (R137). -/
def laneStart (n : Lane) (m : List Host.Cell) (p : Part) : Part :=
  let ctx := p.lane n
  if p.startable n then
    followLink n (startLink m n) (p.setLane n { ctx with
      bridge := p.port.bridgeLanes.getLsbD n.val, cause := none, retired := 0, lastMark := 0, budget := 8,
      returnAnchor := none, anchor := .start, badLink := none })
  else if ctx.state = .resting then reread n m p
  else p.setLane n { ctx with cause := some .startIgnored }

/-- SIGNAL WAKE for a lane (R146). -/
def laneWake (n : Lane) (p : Part) : Part :=
  match (p.lane n).state, (p.lane n).waitKind with
  | .waiting, some .hold => p.emit [.orderEnds n (holdResult n .signalled p)]
  | .waiting, some .claim => (forgetLane n p).emit [.orderEnds n (Result.bare .signalled)]
  | _, _ => p

/-- A lane is cancelled (R151, R152), by SIGNAL CANCEL or by the clearing of CONTROL.LANES_ENABLE. -/
def laneCancel (n : Lane) (cause : LaneCause) (p : Part) : Part :=
  match (p.lane n).state with
  | .idle | .stopped => p
  | .aborting => nestAbort n .cancel 0 (some cause) none p
  | .resting | .working | .waiting =>
    let p1 := endCurrent n .cancelled p
    if (p1.lane n).nest.isEmpty then stopLane n cause none p1
    else nestAbort n .cancel 0 (some cause) none p1

/-- A running lane, as STATUS and board slot 51 show it (R187). -/
def LaneState.running : LaneState → Bool
  | .resting | .working | .waiting | .aborting => true
  | .idle | .stopped => false

end Sys2Proof.Machine
end

