-- ==== Sys2Proof/Machine/Flags.lean ====
section
/-! DEFINITION. What each board slot shows (R128 and Tables 1-3, 2-3, 3-3, 4-3, 4-7, 7-3, 9-2, 11-2): state codes, causes,
flags and values. -/

namespace Sys2Proof.Machine

/-! ### Packing (R128) -/

/-- One bit per item, from bit 0 in the order listed. -/
def packFlags : List Bool → Nat
  | [] => 0
  | b :: rest => (if b then 1 else 0) + 2 * packFlags rest

/-- One byte per item, from the least significant byte in the order listed. -/
def packBytes : List Nat → Word
  | [] => 0
  | n :: rest => word (n % 256) ||| (packBytes rest <<< 8)

/-- One 16-bit half per item: the first in the low half. -/
def packHalves (low high : Half) : Word := low.setWidth 32 ||| (high.setWidth 32 <<< 16)

/-- A cause code: 0 for none, otherwise 1 plus the place in the list. -/
def causeCode (c : Option Nat) : Nat := (c.map (fun n => n + 1)).getD 0

/-- The content of a slot, with the clock at the moment at which it is taken: that of the event that hands it over, not of the later
burst (R4, R26, R130, R170; log entry 52). -/
def Part.content (p : Part) (state cause flags : Nat) (first second : Word) : SlotContent :=
  { state := state, cause := cause, flags := flags, first := first, second := second, time := p.now }

/-! ### The sources -/

/-- A lane's slot (Table 7-3): depth takes three bits, the waiting kind three with none as 4. -/
def Part.laneContent (p : Part) (n : Lane) : SlotContent :=
  let c := p.lane n
  let flags := packFlags [c.bridge, c.returnAnchor.isSome] + 4 * c.nest.length +
    32 * ((c.waitKind.map WaitKind.num).getD 4) + 256 * packFlags [c.anchor == .start]
  p.content c.state.num (causeCode (c.cause.map LaneCause.num)) flags
    (packHalves c.headerLink (c.returnAnchor.getD 0)) (packHalves c.lastMark c.retired)

/-- A zone's slot (Table 1-3). -/
def Part.zoneContent (p : Part) (k : ZoneId) : SlotContent :=
  let z := p.zone k
  p.content z.state.num (causeCode (some z.level.num))
    (packFlags [z.detectionDisabled, z.fireLatched, z.confirmTimer.isSome, z.callPoint, z.callLost, z.link == .lost,
                z.link == .missing])
    (word z.notClosed) z.fireTime

/-- The cause of a mover's slot (Table 2-3, R128). -/
def Motion.causeShown (mo : Motion) : Nat :=
  match mo.state with
  | .faulted => causeCode (mo.cause.map MoverCause.num)
  | .moving => 0x101 + mo.phase.num
  | .offline | .idle | .releasing | .stopping | .settling | .floating | .localMode => 0

def Mover.flagsShown (x : Mover) : Nat :=
  packFlags [x.motion.reversal, x.motion.stopLatch, x.motion.floatAlarm, x.brakeReleased, x.toeBroken, x.localReported,
             x.faultReported]

/-- A mover's slot (Table 2-3). -/
def Part.moverContent (p : Part) (m : MoverId) : SlotContent :=
  let x := p.mover m
  p.content x.motion.state.num x.motion.causeShown x.flagsShown (word x.position) (word (x.motion.target.getD x.sent))

/-- A door's slot (Table 3-3). -/
def Part.doorContent (p : Part) (d : DoorId) : SlotContent :=
  let x := p.door d
  p.content x.state.num (if x.state = .faulted then causeCode (x.cause.map DoorCause.num) else 0)
    (packFlags [x.laneOrigin, x.zoneOrigin, x.forced, x.sounder, x.last.openLimit, x.last.closedLimit, x.last.beamBroken,
                x.last.edge, x.last.localMode, x.last.motorFault, x.link == .lost, x.link == .missing])
    (word x.retries) (word x.lead)

/-- The call queue slot (Table 4-3): FFH and priority 3 where no call is active. -/
def Part.callContent (p : Part) : SlotContent :=
  let c := p.calls
  let idOf := fun (e : Option CallEntry) => (e.map (fun x => x.id)).getD 0
  let mask := p.activityMask
  match c.active with
  | some e =>
    p.content e.state.num e.id (e.priority.num + 4 * packFlags [e.degraded, e.chimePending])
      (packBytes [c.queued, idOf c.suspendedRoutine, idOf c.suspendedUrgent, e.repeatsDone]) (packHalves mask e.lines)
  | none =>
    p.content 0xFF 0 3 (packBytes [c.queued, idOf c.suspendedRoutine, idOf c.suspendedUrgent, 0]) (packHalves mask 0)

/-- The cause of the player slot: a timeout kind, or 100H plus the ERR code (R128). -/
def PlayerCause.shown : PlayerCause → Nat
  | .none => 0
  | .timeout kind => kind.num + 1
  | .err code => 0x100 + code.toNat

/-- The player slot (Table 4-7). A PLAY is outstanding while its message is held, in CUTTING too (log entry 43). -/
def Part.playerContent (p : Part) : SlotContent :=
  let a := p.player
  p.content a.state.num a.cause.shown (packFlags [a.message != 0, a.startedSeen]) (a.message.setWidth 32)
    (packHalves a.faultCount a.discardCount)

/-- How many polled stations are in a state. -/
def Part.stationsIn (p : Part) (state : LinkCond) : Nat :=
  (p.field.stations.toList.filter (fun s => s.polled && (s.state == state))).length

/-- The field link slot (Table 9-2). -/
def Part.fieldContent (p : Part) : SlotContent :=
  let lost := p.stationsIn .lost
  let missing := p.stationsIn .missing
  p.content (if p.plan.isSome then 1 else 0) 0 (packFlags [lost != 0, missing != 0])
    (packBytes [p.stationsIn .online, lost, missing, (p.field.stations.toList.filter (fun s => s.polled)).length])
    (packHalves ((p.field.lastLost.map (fun st => BitVec.ofNat 16 st.val)).getD 0xFFFF) p.field.lossCount)

/-- The lanes running mask (R187). -/
def Part.runningMask (p : Part) : Nat := packFlags ((List.finRange 4).map (fun n => (p.lane n).state.running))

/-- The part slot (Table 11-2). -/
def Part.partContent (p : Part) : SlotContent :=
  p.content p.port.partState.num 0 (packFlags [p.port.lanesEnable, p.port.intEn, p.plan.isSome]) p.generation
    (packBytes [p.port.bridgeLanes.toNat, p.runningMask])

/-! ### The slots (Table 6-7) -/

/-- The source of a board slot. -/
inductive Source where
  | lane (n : Lane)
  | zone (k : ZoneId)
  | mover (m : MoverId)
  | door (d : DoorId)
  | calls
  | player
  | field
  | part
deriving DecidableEq, Repr

def sourceOf (j : SlotId) : Source :=
  if h : j.val < 4 then .lane ⟨j.val, h⟩
  else if h1 : j.val < 16 then .zone ⟨j.val - 4, by omega⟩
  else if h2 : j.val < 24 then .mover ⟨j.val - 16, by omega⟩
  else if h3 : j.val < 48 then .door ⟨j.val - 24, by omega⟩
  else if j.val = 48 then .calls
  else if j.val = 49 then .player
  else if j.val = 50 then .field
  else .part

/-- The board slot of a mover. -/
def moverSlot (m : MoverId) : SlotId := ⟨16 + m.val, by omega⟩

/-- What slot `j` shows now, with the clock of now as its timestamp (log entry 52). -/
def Part.slotContent (p : Part) (j : SlotId) : SlotContent :=
  match sourceOf j with
  | .lane n => p.laneContent n
  | .zone k => p.zoneContent k
  | .mover m => p.moverContent m
  | .door d => p.doorContent d
  | .calls => p.callContent
  | .player => p.playerContent
  | .field => p.fieldContent
  | .part => p.partContent

/-- What an event must change for slot `j` to be rewritten (R4, R26, R58, R84, R101, R136, R170, R187). -/
def Part.slotKey (p : Part) (j : SlotId) : List Nat :=
  let whole := fun (c : SlotContent) => [c.state, c.cause, c.flags, c.first.toNat, c.second.toNat]
  match sourceOf j with
  | .lane n =>
    let c := p.lane n
    [c.state.num, causeCode (c.cause.map LaneCause.num), packFlags [c.bridge, c.returnAnchor.isSome], c.nest.length,
     causeCode (c.waitKind.map WaitKind.num)]
  | .mover m => let x := p.mover m; [x.motion.state.num, x.motion.causeShown, x.flagsShown]
  | .field =>
    (p.fieldContent.state) ::
      p.field.stations.toList.map (fun s =>
        (match s.state with | .unknown => 0 | .online => 1 | .missing => 2 | .lost => 3) + 4 * packFlags [s.polled])
  | .zone k => whole (p.zoneContent k)
  | .door d => whole (p.doorContent d)
  | .calls => whole p.callContent
  | .player => whole p.playerContent
  | .part => whole p.partContent

end Sys2Proof.Machine
end

