-- ==== Sys2Proof/Machine/Board.lean ====
section
/-! DEFINITION. The Exchange Port (06, R128 to R134): the status board, the header, seen-count reads, pending slots and
nINT, and equalisation. -/

namespace Sys2Proof.Machine

/-! ### Addresses (R128, Table 6-6) -/

/-- The first byte of board slot `j`. -/
def boardBase (j : SlotId) : Nat := 512 + 32 * j.val

/-- The host's seen count and notify enable of a slot. -/
def readSeen (m : List Host.Cell) (j : SlotId) : Half := readHalf m (boardBase j + 2)
def readNotify (m : List Host.Cell) (j : SlotId) : Bool := (readByte m (boardBase j + 4)).getLsbD 0

/-- The bytes 5..31 of a slot. -/
def SlotContent.bytes (c : SlotContent) : List Byte :=
  [BitVec.ofNat 8 c.state] ++ halfBytes (BitVec.ofNat 16 c.cause) ++ halfBytes (BitVec.ofNat 16 c.flags) ++ [0, 0] ++
    wordBytes c.first ++ wordBytes c.second ++ wordBytes c.time.seconds ++ [centisByte c.time] ++ List.replicate 7 0

/-- One burst (R130): the content, then the change count. -/
def writeSlot (j : SlotId) (c : SlotContent) (count : Half) (p : Part) : Part :=
  (p.write (boardBase j + 5) c.bytes).write (boardBase j) (halfBytes count)

/-! ### The header (R124, Table 6-2) -/

def writeLaneLink (n : Lane) (p : Part) : Part := p.write (18 + 8 * n.val) (halfBytes (p.lane n).headerLink)
/-- The lane state is one byte of a word; its neighbour in the word stays as it was (R122; log entry 48). -/
def writeLaneState (n : Lane) (p : Part) : Part := p.write (20 + 8 * n.val) [BitVec.ofNat 8 (p.lane n).state.num]
def writeGeneration (p : Part) : Part := p.write 4 (halfBytes (p.generation.setWidth 16))

/-- The layout word of the header (R187). -/
def layoutWord (m : List Host.Cell) : Half := readHalf m 0

/-- The header's part-owned fields are written in every event that changes the value they mirror. -/
def updateHeader (pre p : Part) : Part :=
  let p1 := forEach (List.finRange 4) (fun n q =>
    whenTrue ((pre.lane n).state != (q.lane n).state) (writeLaneState n)
      (whenTrue ((pre.lane n).headerLink != (q.lane n).headerLink) (writeLaneLink n) q)) p
  whenTrue (pre.generation != p.generation) writeGeneration p1

/-! ### Hand-over (R129, R130) -/

/-- The part has left STARTING and LAYOUT_WAIT: the board is equalised (R133, R187). -/
def PartState.equalised : PartState → Bool
  | .planWait | .ready => true
  | .starting | .layoutWait => false

def Part.equalised (p : Part) : Bool := p.port.partState.equalised

/-- A source hands over its slot: the newest content is kept, with the clock of this event as its timestamp whenever the burst
follows (log entry 52), and a burst waits once the board is equalised. -/
def handOver (j : SlotId) (p : Part) : Part :=
  p.setSlot j { p.slot j with content := p.slotContent j, waiting := p.equalised }

/-- Every slot that the event has changed or that it must rewrite is handed over. -/
def handOverAll (pre p : Part) : Part :=
  forEach (List.finRange 52)
    (fun j q => if p.forced.contains j || (pre.slotKey j != p.slotKey j) then handOver j q else q) p

/-- BOARD_WRITE (R130): the burst of a slot is written with the newest content and the next change count. -/
def boardWrite (j : SlotId) (p : Part) : Part :=
  let b := p.slot j
  let count := b.shadow + 1
  writeSlot j b.content count (p.setSlot j { b with shadow := count, waiting := false })

/-- The slots whose burst waits, ascending. -/
def Part.waitingSlots (p : Part) : List SlotId := (List.finRange 52).filter (fun j => (p.slot j).waiting)

/-- The first words of the content that the burst of a waiting slot writes before its change count, the content's first byte
sharing a word with the host's notify enable. Which slot it is, if any, is a free value (R134; log entry 44). -/
def cutBurst (p : Part) : List Host.Cell × Part :=
  let (which, p1) := p.takeOpen
  let (words, p2) := p1.takeOpen
  match p.waitingSlots[which.toNat]? with
  | some j => (cellsFrom (boardBase j + 5) ((p.slot j).content.bytes.take (2 * words.toNat - 1)), p2)
  | none => ([], p2)

/-! ### Seen-count reads (R131) -/

/-- A check mark or a RESCAN starts a read, or joins a further one. -/
def startRead (p : Part) : Part :=
  if p.equalised then
    { p with board := { p.board with read := match p.board.read with
        | .idle => .underWay
        | .underWay | .further => .further } }
  else p

def readDue (p : Part) : Bool := p.board.read != .idle

/-- SEEN_COUNT_READ (R131): the read of slot 51 completes and the values read are taken together (log entry 14). -/
def seenCountRead (m : List Host.Cell) (p : Part) : Part :=
  let p1 := forEach (List.finRange 52)
    (fun j q => q.setSlot j { q.slot j with seen := readSeen m j, notify := readNotify m j }) p
  { p1 with board := { p1.board with read := match p.board.read with
      | .further => .underWay
      | .idle | .underWay => .idle } }

/-! ### Pending slots and nINT (R132) -/

/-- A slot is pending: its notify enable is set and its seen count differs from the shadow count. -/
def BoardSlot.pending (b : BoardSlot) : Bool := b.notify && (b.seen != b.shadow)

/-- The pending slots, ascending. -/
def Part.pendingSlots (p : Part) : List SlotId := (List.finRange 52).filter (fun j => (p.slot j).pending)

/-- The pending count, the lowest pending slot and nINT follow their terms. -/
def settleInt (p : Part) : Part :=
  let l := p.pendingSlots
  { p with board := { p.board with
      pendingCount := l.length, lowest := l.head?, nIntLow := p.port.intEn && decide (0 < l.length) } }

/-! ### Equalisation (R133) -/

/-- One slot in the equalisation: the change count is written equal to the seen count read. -/
def equaliseSlot (m : List Host.Cell) (j : SlotId) (p : Part) : Part :=
  let c := p.slotContent j
  let seen := readSeen m j
  writeSlot j c seen (p.setSlot j
    { shadow := seen, seen := seen, notify := readNotify m j, content := c, waiting := false })

/-- The equalisation: the slots from 0 to 51, then the header. -/
def equalise (m : List Host.Cell) (p : Part) : Part :=
  let p1 := forEach (List.finRange 52) (equaliseSlot m) p
  writeGeneration (forEach (List.finRange 4) (fun n q => writeLaneState n (writeLaneLink n q)) p1)

/-! ### The end of an event -/

/-- What every event ends with: equalisation where the event has left LAYOUT_WAIT or STARTING for PLAN_WAIT, otherwise
the hand-over of the slots and the header; then the pending slots and nINT. -/
def closeEvent (m : List Host.Cell) (pre p : Part) : Part :=
  let p1 :=
    if p.equalised then
      (if pre.equalised then updateHeader pre (handOverAll pre p) else equalise m p)
    else handOverAll pre p
  settleInt { p1 with forced := [] }

end Sys2Proof.Machine
end

