-- ==== Sys2Proof/Machine/Events.lean ====
section
/-! DEFINITION. How one event runs: the micro-operations that blocks ask of one another, the agenda, the tests at the
event's end, and the writes to exchange memory (log entry 8). -/

namespace Sys2Proof.Machine

/-- One micro-operation, at the block it belongs to. -/
def perform (m : List Host.Cell) (a : Act) (p : Part) : Part :=
  match a with
  | .orderEnds n r => orderEnds n r p
  | .passOrder n => passOrder n p
  | .blockOrder n => blockOrder n m p
  | .laneCancel n cause => laneCancel n cause p
  | .nestAbort n cause code stop badLink => nestAbort n cause code stop badLink p
  | .abortTest n => abortTest n p
  | .closeTest n => closeTest n p
  | .arbitrate => arbitrate p
  | .steadyReport e => steadyReport e p
  | .faultReport e => faultReport e p
  | .endShutWaiters k code => endShutWaiters k code p
  | .zoneRetire n => zoneRetire n p
  | .moverStop mv byZone => moverStop mv byZone p
  | .moverReturn mv position => moverReturn mv position p
  | .moversClear k => moversClear k p
  | .doorZoneRequest d => doorZoneRequest d p
  | .doorHalt d => doorHalt d p
  | .doorReturn d bridge => doorReturn d bridge p
  | .doorClosed d => doorClosed d p
  | .doorLeft d => doorLeft d p
  | .shutTest k => shutTest k p
  | .zoneAborts k => zoneAborts k p
  | .zoneCall k priority message lines repeats chime => zoneCall k priority message lines repeats chime p
  | .selectCall => selectCall p

/-- Perform the first micro-operation of the agenda: what it asks for comes before the rest. Arbitration waits until
everything else of the event is done, so that it follows all the releases of the event (R156). -/
def performNext (m : List Host.Cell) (p : Part) : Part :=
  match p.agenda with
  | [] => p
  | .arbitrate :: rest =>
    match rest.filter (fun a => a != .arbitrate) with
    | [] => arbitrate { p with agenda := [] }
    | others => { p with agenda := others ++ [.arbitrate] }
  | a :: rest =>
    let q := perform m a { p with agenda := [] }
    { q with agenda := q.agenda ++ rest }

/-- Perform up to `n` micro-operations. -/
def drain (m : List Host.Cell) : Nat → Part → Part
  | 0, p => p
  | n + 1, p => if p.agenda.isEmpty then p else drain m n (performNext m p)

/-- The part after the event `f`: what it asks for is performed, HOLD conditions are tested, the board is handed over. -/
def eventPart (f : List Host.Cell → Part → Part) (m : List Host.Cell) (p : Part) : Part :=
  let p1 := drain m Config.agendaBound (f m p)
  let p2 := drain m Config.agendaBound (endMetHolds p1)
  closeEvent m p p2

/-- One event: `f` reads exchange memory as it stands before the event, and the event's writes are made at its end. What a
soft reset leaves of an event that it cuts is SOFT_RESET's (R134; log entry 44). -/
def runEvent (f : List Host.Cell → Part → Part) (s : State) : State :=
  let p := eventPart f s.mem s.part
  { s with mem := writeCells s.mem p.writes, part := { p with writes := [] } }

/-- An event that reads no exchange memory. -/
def runLocal (f : Part → Part) (s : State) : State := runEvent (fun _ => f) s

/-- An event of the part that takes place only when it is due (log entry 6). -/
def runWhen (due : Part → Bool) (f : Part → Part) (s : State) : State := if due s.part then runLocal f s else s

/-- Nothing reaches a block while a soft reset is in progress (R184, R185). -/
def unlessReset (f : State → State) (s : State) : State := if s.part.port.inReset then s else f s

/-- Run a list of events, in order. -/
def runAll : List (State → State) → State → State
  | [], s => s
  | f :: rest, s => runAll rest (f s)

end Sys2Proof.Machine
end

