-- ==== Sys2Proof/Machine/Time.lean ====
section
/-! DEFINITION. The Time Base (05, R107 to R110): deck ticks, field cycle starts, check marks, centisecond marks, and the
expiries that fall at a mark. -/

namespace Sys2Proof.Machine

/-! ### Expiries (R110): each is an event of its own, taken when its duration has counted its last mark -/

def confirmTick (k : ZoneId) : State → State :=
  runWhen (fun p => expired (p.zone k).confirmTimer) (confirmTimerExpiry k)

def brakeTick (m : MoverId) : State → State :=
  runWhen (fun p => expired (p.mover m).motion.brakeTimer) (brakeTimerExpiry m)

def settleTick (m : MoverId) : State → State :=
  runWhen (fun p => expired (p.mover m).motion.settleTimer) (settleTimerExpiry m)

def leadTick (d : DoorId) : State → State := runWhen (fun p => leadReached (p.door d)) (leadExpiry d)

def motionTick (d : DoorId) : State → State := runWhen (fun p => expired (p.door d).motionTimer) (motionTimerExpiry d)

def retryTick (d : DoorId) : State → State := runWhen (fun p => expired (p.door d).retryTimer) (retryDelayExpiry d)

def replyTick : State → State := runWhen replyTimerDue replyTimerExpiry

def probeTick : State → State := runWhen probeTimerDue probeTimerExpiry

def claimTick (n : Lane) : State → State := runWhen (claimWaitDue n) (claimWaitExpiry n)

def holdTick (n : Lane) : State → State := runWhen (holdDue n) (holdExpiry n)

/-- Every expiry, block by block (log entry 7). -/
def allExpiries : List (State → State) :=
  (List.finRange 12).map confirmTick ++ (List.finRange 8).map brakeTick ++ (List.finRange 8).map settleTick ++
    (List.finRange 24).map leadTick ++ (List.finRange 24).map motionTick ++ (List.finRange 24).map retryTick ++
    [replyTick, probeTick] ++ (List.finRange 4).map claimTick ++ (List.finRange 4).map holdTick

/-! ### The centisecond mark (R108 to R110) -/

/-- The length of centisecond interval `k` in ticks (R108). -/
def intervalLength (k : Nat) : Nat := if k % 25 ∈ [0, 4, 8, 12, 16, 20] then 11 else 10

/-- The mark at the Time Base (R108, R109). After a SET CLOCK that has come between the tick and its mark, the divider
and the clock stand as the order has set them (R111). -/
def TimeBase.mark (t : TimeBase) : TimeBase :=
  if t.restart then { t with markDue := false }
  else if t.interval = 99 then
    { t with markDue := false, tickCount := 0, interval := 0,
             clock := { seconds := t.clock.seconds + 1, centis := 0 } }
  else { t with markDue := false, tickCount := 0, interval := t.interval + 1,
                clock := { t.clock with centis := t.clock.centis + 1 } }

/-- The mark at a mover: its brake and settle timers. -/
def Motion.mark (mo : Motion) : Motion :=
  { mo with brakeTimer := countMark mo.brakeTimer, settleTimer := countMark mo.settleTimer }

/-- The mark at a lane: a HOLD's duration and the marks it has counted (R144). -/
def LaneContext.mark (c : LaneContext) : LaneContext :=
  { c with holdTimer := countMark c.holdTimer,
           holdMarks := if c.holdTimer.isSome && !expired c.holdTimer then c.holdMarks + 1 else c.holdMarks }

/-- The mark at every block that has a duration running (R110). -/
def markDurations (p : Part) : Part :=
  playerMark { p with
    zones := mapAll (fun z => { z with confirmTimer := countMark z.confirmTimer }) p.zones,
    movers := mapAll (fun x => { x with motion := x.motion.mark }) p.movers,
    doors := mapAll Door.mark p.doors,
    lanes := mapAll LaneContext.mark p.lanes,
    waiters := p.waiters.map (fun w => { w with timer := w.timer - 1 }) }

def takeMark (p : Part) : Part := markDurations { p with time := p.time.mark }

/-- The mark as an event: first the expiries of the mark before that have not been taken (log entry 7). -/
def markEvent (s : State) : State :=
  if s.part.time.markDue then runLocal takeMark (runAll allExpiries s) else s

/-- The mark that ends interval 99 (R109). -/
def secondEvent (s : State) : State :=
  if s.part.time.interval = 99 ∧ s.part.time.restart = false then markEvent s else s

/-! ### Field cycle starts and check marks (R107) -/

/-- The field cycle start: the field link fixes its exchanges (R171), each lane's budget is set to 8 (R138). -/
def takeCycle (p : Part) : Part :=
  let p1 := startCycle { p with time := { p.time with cycleDue := false } }
  { p1 with lanes := mapAll (fun c => { c with budget := Config.recordBudget }) p1.lanes,
            movers := mapAll (fun x => { x with step := none }) p1.movers }

def cycleEvent : State → State := runWhen (fun p => p.time.cycleDue) takeCycle

/-- The movers whose slots a check mark has rewritten (R26). -/
def MoverState.rewritten : MoverState → Bool
  | .releasing | .moving | .stopping | .settling | .floating => true
  | .offline | .idle | .localMode | .faulted => false

/-- The check mark: the seen counts, the resting lanes, the moving movers' slots (R26, R131, R142). -/
def takeCheck (m : List Host.Cell) (p : Part) : Part :=
  let p1 := startRead { p with time := { p.time with checkDue := false } }
  let p2 := forEach (List.finRange 4) (fun n => reread n m) p1
  forEach (List.finRange 8)
    (fun v q => whenTrue (q.mover v).motion.state.rewritten (fun r => r.forceSlot (moverSlot v)) q) p2

def checkEvent (s : State) : State := if s.part.time.checkDue then runEvent takeCheck s else s

/-! ### Period ends and chimes -/

def periodEvent (k : LineId) : State → State := runWhen (fun p => (p.line k).endDue) (periodEnd k)

def chimeEvent : State → State := runWhen (chimeDue false) chimeEnd

def chimeOnlyEvent : State → State := runWhen (chimeDue true) chimeOnlyRepeatEnd

/-! ### The deck tick (R107, R108, R113) -/

/-- The tick at the Time Base: the cycle count and the centisecond divider. -/
def TimeBase.tick (t : TimeBase) : TimeBase :=
  let t1 := if t.restart then { t with interval := 0, tickCount := 0, restart := false } else t
  let cycle := (t1.cycleCount + 1) % 64
  let count := t1.tickCount + 1
  { t1 with divider := 0, cycleCount := cycle, tickCount := count,
            markDue := decide (intervalLength t1.interval ≤ count),
            cycleDue := cycle % 16 == 0, checkDue := cycle == 0 }

/-- The tick at every block that takes it: the generators that run, a chime being counted, the wait count. -/
def takeTick (p : Part) : Part :=
  callTick { p with time := p.time.tick, lines := mapAll Generator.tick p.lines, claimTicks := p.claimTicks + 1 }

/-- Everything that the tick before has brought and that has not been taken (log entry 7). -/
def leftOver : List (State → State) :=
  [cycleEvent, checkEvent, markEvent] ++ (List.finRange 16).map periodEvent ++ [chimeEvent, chimeOnlyEvent]

def tickEvent (s : State) : State := runLocal takeTick (runAll leftOver s)

end Sys2Proof.Machine
end

