-- ==== Sys2Proof/Machine/Port.lean ====
section
/-! DEFINITION. The Control Port and start-up (11, R184 to R188), the host's accesses to exchange memory (R122), and the
commands of the host, of time and of the links. -/

namespace Sys2Proof.Machine

/-! ### Registers (R184, R187, R188) -/

/-- STATUS (Table 11-1). -/
def Part.statusRegister (p : Part) : Half :=
  BitVec.ofNat 16 (p.port.partState.num + 4 * packFlags [p.port.partState == .layoutWait] + 16 * p.runningMask)

/-- CONTROL (Table 11-1). -/
def Part.controlRegister (p : Part) : Half :=
  BitVec.ofNat 16 (packFlags [p.port.lanesEnable, p.port.intEn] + 16 * p.port.bridgeLanes.toNat)

/-- PENDING (R188). -/
def Part.pendingRegister (p : Part) : Half :=
  BitVec.ofNat 16 (((p.board.lowest.map (fun j => j.val)).getD 0x3F) + 256 * p.board.pendingCount)

/-- What a read of a register returns (R184). During a soft reset it is the Default column. -/
def readRegister (s : State) (address : BitVec 3) : Half :=
  match address.toNat with
  | 0 => 0x3401
  | 1 => if s.part.port.inReset then 0 else s.part.controlRegister
  | 3 => if s.part.port.inReset then 0 else s.part.statusRegister
  | 4 => if s.part.port.inReset then 0x003F else s.part.pendingRegister
  | _ => 0

/-- What MISO carries in the data bits of a read (R184): nothing while nRESET is low, since the port then takes no
transaction and MISO is high impedance. -/
def portRead (s : State) (address : BitVec 3) : Option Half :=
  if s.part.port.nResetLow then none else some (readRegister s address)

/-! ### Transactions as commands (R184 to R186; log entry 5) -/

/-- The commands of one lane's SIGNAL bits: CANCEL first, then WAKE and START (R137, R186). -/
def signalLane (data : Half) (n : Lane) : List Instr :=
  (if data.getLsbD (8 + n.val) then [.cancel n] else []) ++ (if data.getLsbD (4 + n.val) then [.wake n] else []) ++
    (if data.getLsbD n.val then [.start n] else [])

/-- The commands that a write of `data` to a register is. -/
def writeCommands (address : BitVec 3) (data : Half) : List Instr :=
  match address.toNat with
  | 1 =>
    if data.getLsbD 2 then [.softReset]
    else [.bridgeLanes (data.extractLsb' 4 4), .intEn (data.getLsbD 1), .lanesEnable (data.getLsbD 0)]
  | 2 => (List.finRange 4).flatMap (signalLane data) ++ (if data.getLsbD 12 then [.rescan] else [])
  | _ => [.ignoredRegisterWrite address data 24]

/-- The commands that a transaction is, its command byte first; a read is none, and a transaction that CS ends before
the 24th bit writes nothing. -/
def portCommands (command : Byte) (data : Half) (bits : Nat) : List Instr :=
  if command.getLsbD 7 then []
  else if bits < 24 then [.ignoredRegisterWrite (command.setWidth 3) data bits]
  else writeCommands (command.setWidth 3) data

/-! ### The host's side of exchange memory (R122; log entry 3) -/

/-- The host writes a 16-bit word at an even address of exchange memory; an address outside it has no word. -/
def hostWriteWord (address : Nat) (value : Half) (s : State) : Host.Outcome State Fault Refusal :=
  if address % 2 = 0 ∧ address + 1 < Config.memoryBytes then
    .next { s with mem := writeCells s.mem (cellsFrom address (halfBytes value)) }
  else .fault (.outsideMemory address)

/-! ### Resets and start-up (R185, R187) -/

/-- The nRESET pin falls (R184, R185; log entry 38): every block at its values, the voyage clock seconds 0, and nothing
reaches the part until POWER_ON_RESET, which is the pin's release. -/
def nResetFalls (s : State) : State :=
  { s with part := { Part.reset 0 true s.part.openValues s.part.openCount with
      port := { ControlPort.reset true with nResetLow := true } } }

/-- POWER_ON_RESET (R187), the release of nRESET: every block at its values, the voyage clock seconds 0; exchange memory
keeps its contents (R121). -/
def execPowerOnReset (s : State) : Host.Outcome State Fault Refusal :=
  .next { s with part := Part.reset 0 false s.part.openValues s.part.openCount }

/-- SOFT_RESET (R185): every block but the voyage clock seconds; the part is held in reset until RESET_END. A burst and a
retirement under way are abandoned where they stand (R134; log entry 44). -/
def execSoftReset (s : State) : Host.Outcome State Fault Refusal :=
  if s.part.port.inReset then .next s
  else
    let (burst, p1) := cutBurst s.part
    let (block, p2) := cutRetirement p1
    .next { s with
      mem := writeCells s.mem (burst ++ block),
      part := Part.reset s.part.time.clock.seconds true p2.openValues p2.openCount }

/-- The part state after the layout word has been read (R187). -/
def stateByLayout (m : List Host.Cell) : PartState := if layoutWord m = 1 then .planWait else .layoutWait

/-- The first event after a reset (R101, R107, R187). No reset ends while nRESET is low. -/
def endReset (m : List Host.Cell) (p : Part) : Part :=
  if p.port.partState = .starting ∧ p.port.nResetLow = false then
    sendStatus { p with port := { p.port with inReset := false, partState := stateByLayout m },
                        time := { p.time with cycleDue := true, checkDue := true } }
  else p

/-- RESET_END (R187). -/
def execResetEnd (s : State) : Host.Outcome State Fault Refusal := .next (runEvent endReset s)

/-! ### CONTROL and SIGNAL (R137, R146, R151, R152, R185, R186) -/

/-- LANES_ENABLE is written; a change from 1 to 0 cancels every running lane (R152), in ascending order, which no rule gives (log
entry 51). -/
def writeLanesEnable (on : Bool) (p : Part) : Part :=
  let p1 := { p with port := { p.port with lanesEnable := on } }
  if p.port.lanesEnable && !on then p1.emit ((List.finRange 4).map (fun n => .laneCancel n .lanesDisabled)) else p1

/-- LANES_ENABLE (R152). -/
def execLanesEnable (on : Bool) (s : State) : Host.Outcome State Fault Refusal :=
  .next (unlessReset (runLocal (writeLanesEnable on)) s)

/-- INT_EN (R132, R185): nINT follows at the end of the event. -/
def execIntEn (on : Bool) (s : State) : Host.Outcome State Fault Refusal :=
  .next (unlessReset (runLocal (fun p => { p with port := { p.port with intEn := on } })) s)

/-- BRIDGE_LANES (R185). -/
def execBridgeLanes (mask : BitVec 4) (s : State) : Host.Outcome State Fault Refusal :=
  .next (unlessReset (runLocal (fun p => { p with port := { p.port with bridgeLanes := mask } })) s)

/-- START (R137). -/
def execStart (n : Lane) (s : State) : Host.Outcome State Fault Refusal := .next (unlessReset (runEvent (laneStart n)) s)

/-- WAKE (R146). -/
def execWake (n : Lane) (s : State) : Host.Outcome State Fault Refusal := .next (unlessReset (runLocal (laneWake n)) s)

/-- CANCEL (R151). -/
def execCancel (n : Lane) (s : State) : Host.Outcome State Fault Refusal :=
  .next (unlessReset (runLocal (laneCancel n .cancelled)) s)

/-- RESCAN by the part state (R131, R142, R186, R187). -/
def takeRescan (m : List Host.Cell) (p : Part) : Part :=
  match p.port.partState with
  | .starting => p
  | .layoutWait => { p with port := { p.port with partState := stateByLayout m } }
  | .planWait | .ready => forEach (List.finRange 4) (fun n => reread n m) (startRead p)

/-- RESCAN (R186). -/
def execRescan (s : State) : Host.Outcome State Fault Refusal := .next (unlessReset (runEvent takeRescan) s)

/-- IGNORED_REGISTER_WRITE (R184): nothing changes. -/
def execIgnoredRegisterWrite (_address : BitVec 3) (_data : Half) (_bits : Nat) (s : State) :
    Host.Outcome State Fault Refusal := .next s

/-! ### Time (05) -/

/-- DECK_TICK (R107). -/
def execDeckTick (s : State) : Host.Outcome State Fault Refusal := .next (unlessReset tickEvent s)

/-- FIELD_CYCLE_START (R171). -/
def execFieldCycleStart (s : State) : Host.Outcome State Fault Refusal := .next (unlessReset cycleEvent s)

/-- CHECK_MARK (R107). -/
def execCheckMark (s : State) : Host.Outcome State Fault Refusal := .next (unlessReset checkEvent s)

/-- CENTISECOND_MARK (R108). -/
def execCentisecondMark (s : State) : Host.Outcome State Fault Refusal := .next (unlessReset markEvent s)

/-- SECOND_END (R109). -/
def execSecondEnd (s : State) : Host.Outcome State Fault Refusal := .next (unlessReset secondEvent s)

/-- PERIOD_END (R113). -/
def execPeriodEnd (k : LineId) (s : State) : Host.Outcome State Fault Refusal := .next (unlessReset (periodEvent k) s)

/-- CONFIRM_TIMER_EXPIRY (R6). -/
def execConfirmTimerExpiry (k : ZoneId) (s : State) : Host.Outcome State Fault Refusal :=
  .next (unlessReset (confirmTick k) s)

/-- BRAKE_TIMER_EXPIRY (R32). -/
def execBrakeTimerExpiry (m : MoverId) (s : State) : Host.Outcome State Fault Refusal :=
  .next (unlessReset (brakeTick m) s)

/-- SETTLE_TIMER_EXPIRY (R45). -/
def execSettleTimerExpiry (m : MoverId) (s : State) : Host.Outcome State Fault Refusal :=
  .next (unlessReset (settleTick m) s)

/-- LEAD_EXPIRY (R64). -/
def execLeadExpiry (d : DoorId) (s : State) : Host.Outcome State Fault Refusal := .next (unlessReset (leadTick d) s)

/-- MOTION_TIMER_EXPIRY (R78). -/
def execMotionTimerExpiry (d : DoorId) (s : State) : Host.Outcome State Fault Refusal :=
  .next (unlessReset (motionTick d) s)

/-- RETRY_DELAY_EXPIRY (R67). -/
def execRetryDelayExpiry (d : DoorId) (s : State) : Host.Outcome State Fault Refusal :=
  .next (unlessReset (retryTick d) s)

/-- CHIME_END (R93). -/
def execChimeEnd (s : State) : Host.Outcome State Fault Refusal := .next (unlessReset chimeEvent s)

/-- CHIME_ONLY_REPEAT_END (R105). -/
def execChimeOnlyRepeatEnd (s : State) : Host.Outcome State Fault Refusal := .next (unlessReset chimeOnlyEvent s)

/-- REPLY_TIMER_EXPIRY (R103). -/
def execReplyTimerExpiry (s : State) : Host.Outcome State Fault Refusal := .next (unlessReset replyTick s)

/-- PROBE_TIMER_EXPIRY (R104). -/
def execProbeTimerExpiry (s : State) : Host.Outcome State Fault Refusal := .next (unlessReset probeTick s)

/-- CLAIM_WAIT_EXPIRY (R155). -/
def execClaimWaitExpiry (n : Lane) (s : State) : Host.Outcome State Fault Refusal := .next (unlessReset (claimTick n) s)

/-- HOLD_EXPIRY (R144). -/
def execHoldExpiry (n : Lane) (s : State) : Host.Outcome State Fault Refusal := .next (unlessReset (holdTick n) s)

/-! ### The field link (09) -/

/-- POLL (R172, R174). -/
def execPoll (s : State) : Host.Outcome State Fault Refusal := .next (unlessReset (runWhen pollDue poll) s)

/-- REPLY (R172, R173, R176). -/
def execReply (bytes : List Byte) (s : State) : Host.Outcome State Fault Refusal :=
  .next (unlessReset (runLocal (replyBytes bytes)) s)

/-- REPLY_WINDOW_CLOSE (R172, R175). -/
def execReplyWindowClose (s : State) : Host.Outcome State Fault Refusal :=
  .next (unlessReset (runLocal replyWindowClose) s)

/-! ### The announcement link (04) -/

/-- STARTED (R102). -/
def execStarted (message : Byte) (s : State) : Host.Outcome State Fault Refusal :=
  .next (unlessReset (runLocal (receiveStarted message)) s)

/-- DONE (R102). -/
def execDone (message : Byte) (s : State) : Host.Outcome State Fault Refusal :=
  .next (unlessReset (runLocal (receiveDone message)) s)

/-- CUT_DONE (R97, R102). -/
def execCutDone (s : State) : Host.Outcome State Fault Refusal := .next (unlessReset (runLocal receiveCutDone) s)

/-- READY (R104). -/
def execReady (s : State) : Host.Outcome State Fault Refusal := .next (unlessReset (runLocal receiveReady) s)

/-- ERR (R102). -/
def execErr (code : Byte) (s : State) : Host.Outcome State Fault Refusal :=
  .next (unlessReset (runLocal (receiveErr code)) s)

/-- FRAME_DISCARD (R100). -/
def execFrameDiscard (_kind : DiscardKind) (s : State) : Host.Outcome State Fault Refusal :=
  .next (unlessReset (runLocal frameDiscard) s)

/-! ### The exchange port (06) -/

/-- BOARD_WRITE (R130). -/
def execBoardWrite (j : SlotId) (s : State) : Host.Outcome State Fault Refusal :=
  .next (unlessReset (runWhen (fun p => (p.slot j).waiting) (boardWrite j)) s)

/-- SEEN_COUNT_READ (R131). -/
def execSeenCountRead (s : State) : Host.Outcome State Fault Refusal :=
  .next (unlessReset (fun t => if readDue t.part then runEvent seenCountRead t else t) s)

end Sys2Proof.Machine
end

