-- ==== Sys2Proof/Machine/Orders.lean ====
section
/-! DEFINITION. The orders as commands (log entry 4): the host has the record, ARMED or STANDING, in the slot that the
lane's link to follow names, and the lane takes it. Each order's own rules stand in its block's file. -/

namespace Sys2Proof.Machine

/-- LINK_TAKE as an event (R138). -/
def takeEvent (n : Lane) : State → State := runEvent (linkTake n)

/-- The host's record with this image stands in the slot that lane `n` takes next; with no link to take, or one that
names no record, nothing is placed. -/
def placeOrder (n : Lane) (image : List Byte) (s : State) : State :=
  match s.part.takesNow n with
  | some link => if linkValid link then { s with mem := writeCells s.mem (imageCells link image) } else s
  | none => s

/-- An order as a command: the record is in place and lane `n` takes it. A lane that takes no record now leaves the
order alone. -/
def runOrder (n : Lane) (image : List Byte) (s : State) : State :=
  if (s.part.takesNow n).isSome then takeEvent n (placeOrder n image s) else s

/-- An order row of the table: the record is written from the operands by Table 6-3 and R125. -/
def orderCommand (n : Lane) (head : OrderHead) (kind : OrderKind) (params : List Byte) (s : State) :
    Host.Outcome State Fault Refusal :=
  .next (unlessReset (runOrder n (orderImage head kind params)) s)

/-- LINK_TAKE (R138). -/
def execLinkTake (n : Lane) (s : State) : Host.Outcome State Fault Refusal := .next (unlessReset (takeEvent n) s)

/-- HOLD (R144). -/
def execHold (n : Lane) (head : OrderHead) (duration : Half) (condition index state : Byte) (s : State) :
    Host.Outcome State Fault Refusal := orderCommand n head .hold (holdParams duration condition index state) s

/-- DETOUR (R147). -/
def execDetour (n : Lane) (head : OrderHead) (target : Half) (s : State) :
    Host.Outcome State Fault Refusal := orderCommand n head .detour (halfBytes target) s

/-- RETURN (R148). -/
def execRet (n : Lane) (head : OrderHead) (s : State) :
    Host.Outcome State Fault Refusal := orderCommand n head .ret [] s

/-- MARK (R149). -/
def execMark (n : Lane) (head : OrderHead) (code : Half) (s : State) :
    Host.Outcome State Fault Refusal := orderCommand n head .mark (halfBytes code) s

/-- HALT LANE (R150). -/
def execHaltLane (n : Lane) (head : OrderHead) (s : State) :
    Host.Outcome State Fault Refusal := orderCommand n head .haltLane [] s

/-- GROUP OPEN (R158 to R160). -/
def execGroupOpen (n : Lane) (head : OrderHead) (mode : Byte) (claimSet : Word) (s : State) :
    Host.Outcome State Fault Refusal := orderCommand n head .groupOpen (groupParams mode claimSet) s

/-- GROUP CLOSE (R162). -/
def execGroupClose (n : Lane) (head : OrderHead) (s : State) :
    Host.Outcome State Fault Refusal := orderCommand n head .groupClose [] s

/-- ABORT GROUP (R163). -/
def execAbortGroup (n : Lane) (head : OrderHead) (code : Byte) (s : State) :
    Host.Outcome State Fault Refusal := orderCommand n head .abortGroup [code] s

/-- SET LOADING (R16). -/
def execSetLoading (n : Lane) (head : OrderHead) (zone : Byte) (s : State) :
    Host.Outcome State Fault Refusal := orderCommand n head .setLoading [zone] s

/-- SET SECURE (R17). -/
def execSetSecure (n : Lane) (head : OrderHead) (zone : Byte) (s : State) :
    Host.Outcome State Fault Refusal := orderCommand n head .setSecure [zone] s

/-- SHUT ZONE (R18). -/
def execShutZone (n : Lane) (head : OrderHead) (zone : Byte) (s : State) :
    Host.Outcome State Fault Refusal := orderCommand n head .shutZone [zone] s

/-- REOPEN ZONE (R20). -/
def execReopenZone (n : Lane) (head : OrderHead) (zone : Byte) (s : State) :
    Host.Outcome State Fault Refusal := orderCommand n head .reopenZone [zone] s

/-- DISABLE DETECTION (R21). -/
def execDisableDetection (n : Lane) (head : OrderHead) (zone : Byte) (s : State) :
    Host.Outcome State Fault Refusal := orderCommand n head .disableDetection [zone] s

/-- ENABLE DETECTION (R21). -/
def execEnableDetection (n : Lane) (head : OrderHead) (zone : Byte) (s : State) :
    Host.Outcome State Fault Refusal := orderCommand n head .enableDetection [zone] s

/-- RESET ALARM (R22). -/
def execResetAlarm (n : Lane) (head : OrderHead) (zone : Byte) (s : State) :
    Host.Outcome State Fault Refusal := orderCommand n head .resetAlarm [zone] s

/-- MOVE (R29 to R33). -/
def execMove (n : Lane) (head : OrderHead) (mover mode share : Byte) (value : Word) (s : State) :
    Host.Outcome State Fault Refusal := orderCommand n head .move (moveParams mover mode share value) s

/-- STOP MOVER (R36). -/
def execStopMover (n : Lane) (head : OrderHead) (mover : Byte) (s : State) :
    Host.Outcome State Fault Refusal := orderCommand n head .stopMover [mover] s

/-- FLOAT RAMP (R49). -/
def execFloatRamp (n : Lane) (head : OrderHead) (mover : Byte) (s : State) :
    Host.Outcome State Fault Refusal := orderCommand n head .floatRamp [mover] s

/-- CLEAR MOVER FAULT (R53). -/
def execClearMoverFault (n : Lane) (head : OrderHead) (mover : Byte) (s : State) :
    Host.Outcome State Fault Refusal := orderCommand n head .clearMoverFault [mover] s

/-- CLOSE DOOR (R72). -/
def execCloseDoor (n : Lane) (head : OrderHead) (door : Byte) (s : State) :
    Host.Outcome State Fault Refusal := orderCommand n head .closeDoor [door] s

/-- OPEN DOOR (R73). -/
def execOpenDoor (n : Lane) (head : OrderHead) (door : Byte) (s : State) :
    Host.Outcome State Fault Refusal := orderCommand n head .openDoor [door] s

/-- FORCE CLOSE (R76). -/
def execForceClose (n : Lane) (head : OrderHead) (door : Byte) (s : State) :
    Host.Outcome State Fault Refusal := orderCommand n head .forceClose [door] s

/-- CLEAR DOOR FAULT (R79). -/
def execClearDoorFault (n : Lane) (head : OrderHead) (door : Byte) (s : State) :
    Host.Outcome State Fault Refusal := orderCommand n head .clearDoorFault [door] s

/-- CALL (R85 to R89). -/
def execCall (n : Lane) (head : OrderHead) (priority message : Byte) (lines : Half) (repeats policy chime : Byte) (s : State) :
    Host.Outcome State Fault Refusal := orderCommand n head .call (callParams priority message lines repeats policy chime) s

/-- CANCEL CALL (R99). -/
def execCancelCall (n : Lane) (head : OrderHead) (callId : Half) (s : State) :
    Host.Outcome State Fault Refusal := orderCommand n head .cancelCall (halfBytes callId) s

/-- SET CLOCK (R111). -/
def execSetClock (n : Lane) (head : OrderHead) (seconds : Word) (s : State) :
    Host.Outcome State Fault Refusal := orderCommand n head .setClock (wordBytes seconds) s

/-- ADOPT PLAN (R178 to R182). -/
def execAdoptPlan (n : Lane) (head : OrderHead) (link : Half) (s : State) :
    Host.Outcome State Fault Refusal := orderCommand n head .adoptPlan (halfBytes link) s

end Sys2Proof.Machine
end

