-- ==== Sys2Proof/Machine/Dispatch.lean ====
section
/-! DEFINITION. The meaning of every command: one arm per constructor, one direct call each. -/

namespace Sys2Proof.Machine

/-- The effect of a command on everything but the queue. -/
def exec (i : Instr) (s : State) : Host.Outcome State Fault Refusal :=
  match i with
  | .powerOnReset => Sys2Proof.Machine.execPowerOnReset s
  | .softReset => Sys2Proof.Machine.execSoftReset s
  | .resetEnd => Sys2Proof.Machine.execResetEnd s
  | .lanesEnable on => Sys2Proof.Machine.execLanesEnable on s
  | .intEn on => Sys2Proof.Machine.execIntEn on s
  | .bridgeLanes mask => Sys2Proof.Machine.execBridgeLanes mask s
  | .start lane => Sys2Proof.Machine.execStart lane s
  | .wake lane => Sys2Proof.Machine.execWake lane s
  | .cancel lane => Sys2Proof.Machine.execCancel lane s
  | .rescan => Sys2Proof.Machine.execRescan s
  | .ignoredRegisterWrite address data bits => Sys2Proof.Machine.execIgnoredRegisterWrite address data bits s
  | .deckTick => Sys2Proof.Machine.execDeckTick s
  | .fieldCycleStart => Sys2Proof.Machine.execFieldCycleStart s
  | .checkMark => Sys2Proof.Machine.execCheckMark s
  | .centisecondMark => Sys2Proof.Machine.execCentisecondMark s
  | .secondEnd => Sys2Proof.Machine.execSecondEnd s
  | .periodEnd line => Sys2Proof.Machine.execPeriodEnd line s
  | .confirmTimerExpiry zone => Sys2Proof.Machine.execConfirmTimerExpiry zone s
  | .brakeTimerExpiry mover => Sys2Proof.Machine.execBrakeTimerExpiry mover s
  | .settleTimerExpiry mover => Sys2Proof.Machine.execSettleTimerExpiry mover s
  | .leadExpiry door => Sys2Proof.Machine.execLeadExpiry door s
  | .motionTimerExpiry door => Sys2Proof.Machine.execMotionTimerExpiry door s
  | .retryDelayExpiry door => Sys2Proof.Machine.execRetryDelayExpiry door s
  | .chimeEnd => Sys2Proof.Machine.execChimeEnd s
  | .chimeOnlyRepeatEnd => Sys2Proof.Machine.execChimeOnlyRepeatEnd s
  | .replyTimerExpiry => Sys2Proof.Machine.execReplyTimerExpiry s
  | .probeTimerExpiry => Sys2Proof.Machine.execProbeTimerExpiry s
  | .claimWaitExpiry lane => Sys2Proof.Machine.execClaimWaitExpiry lane s
  | .holdExpiry lane => Sys2Proof.Machine.execHoldExpiry lane s
  | .poll => Sys2Proof.Machine.execPoll s
  | .reply bytes => Sys2Proof.Machine.execReply bytes s
  | .replyWindowClose => Sys2Proof.Machine.execReplyWindowClose s
  | .started message => Sys2Proof.Machine.execStarted message s
  | .done message => Sys2Proof.Machine.execDone message s
  | .cutDone => Sys2Proof.Machine.execCutDone s
  | .ready => Sys2Proof.Machine.execReady s
  | .err code => Sys2Proof.Machine.execErr code s
  | .frameDiscard kind => Sys2Proof.Machine.execFrameDiscard kind s
  | .boardWrite slot => Sys2Proof.Machine.execBoardWrite slot s
  | .seenCountRead => Sys2Proof.Machine.execSeenCountRead s
  | .hold lane head duration condition index state => Sys2Proof.Machine.execHold lane head duration condition index state s
  | .detour lane head target => Sys2Proof.Machine.execDetour lane head target s
  | .ret lane head => Sys2Proof.Machine.execRet lane head s
  | .mark lane head code => Sys2Proof.Machine.execMark lane head code s
  | .haltLane lane head => Sys2Proof.Machine.execHaltLane lane head s
  | .groupOpen lane head mode claimSet => Sys2Proof.Machine.execGroupOpen lane head mode claimSet s
  | .groupClose lane head => Sys2Proof.Machine.execGroupClose lane head s
  | .abortGroup lane head code => Sys2Proof.Machine.execAbortGroup lane head code s
  | .setLoading lane head zone => Sys2Proof.Machine.execSetLoading lane head zone s
  | .setSecure lane head zone => Sys2Proof.Machine.execSetSecure lane head zone s
  | .shutZone lane head zone => Sys2Proof.Machine.execShutZone lane head zone s
  | .reopenZone lane head zone => Sys2Proof.Machine.execReopenZone lane head zone s
  | .disableDetection lane head zone => Sys2Proof.Machine.execDisableDetection lane head zone s
  | .enableDetection lane head zone => Sys2Proof.Machine.execEnableDetection lane head zone s
  | .resetAlarm lane head zone => Sys2Proof.Machine.execResetAlarm lane head zone s
  | .move lane head mover mode share value => Sys2Proof.Machine.execMove lane head mover mode share value s
  | .stopMover lane head mover => Sys2Proof.Machine.execStopMover lane head mover s
  | .floatRamp lane head mover => Sys2Proof.Machine.execFloatRamp lane head mover s
  | .clearMoverFault lane head mover => Sys2Proof.Machine.execClearMoverFault lane head mover s
  | .closeDoor lane head door => Sys2Proof.Machine.execCloseDoor lane head door s
  | .openDoor lane head door => Sys2Proof.Machine.execOpenDoor lane head door s
  | .forceClose lane head door => Sys2Proof.Machine.execForceClose lane head door s
  | .clearDoorFault lane head door => Sys2Proof.Machine.execClearDoorFault lane head door s
  | .call lane head priority message lines repeats policy chime => Sys2Proof.Machine.execCall lane head priority message lines repeats policy chime s
  | .cancelCall lane head callId => Sys2Proof.Machine.execCancelCall lane head callId s
  | .setClock lane head seconds => Sys2Proof.Machine.execSetClock lane head seconds s
  | .adoptPlan lane head link => Sys2Proof.Machine.execAdoptPlan lane head link s
  | .linkTake lane => Sys2Proof.Machine.execLinkTake lane s

end Sys2Proof.Machine
end

