-- ==== Sys2Proof/Safety.lean ====
section
/-! DEFINITION. What holds of the machine between events, and what an event leaves, in the terms the statements use. -/

namespace Sys2Proof.Machine

/-! ### The invariant -/

/-- No event has left a write or a forced slot behind. -/
def Part.settled (p : Part) : Prop := p.writes = [] ∧ p.forced = []

/-- The pending count, the lowest pending slot and nINT follow their terms (R132). -/
def Part.intHolds (p : Part) : Prop :=
  p.board.pendingCount = p.pendingSlots.length ∧ p.board.lowest = p.pendingSlots.head? ∧
    p.board.nIntLow = (p.port.intEn && decide (0 < p.board.pendingCount))

/-- The invariant of the machine: exchange memory is canonical, no write and no forced slot is left over, nINT follows its
terms. -/
def State.Inv (s : State) : Prop := Memory.wf s.mem = true ∧ s.part.settled ∧ s.part.intHolds

/-- A run of steps that never stops and keeps the invariant. -/
def safeFor : Nat → State → Prop
  | 0, s => s.Inv
  | n + 1, s => s.Inv ∧ ∃ t, step s = .next t ∧ safeFor n t

/-! ### What an event leaves -/

/-- `q` holds what `p` holds in every block but the Exchange Port. -/
structure Part.Follows (p q : Part) : Prop where
  time       : q.time = p.time
  zones      : q.zones = p.zones
  movers     : q.movers = p.movers
  doors      : q.doors = p.doors
  calls      : q.calls = p.calls
  player     : q.player = p.player
  lines      : q.lines = p.lines
  lanes      : q.lanes = p.lanes
  claims     : q.claims = p.claims
  waiters    : q.waiters = p.waiters
  claimTicks : q.claimTicks = p.claimTicks
  field      : q.field = p.field
  plan       : q.plan = p.plan
  generation : q.generation = p.generation
  port       : q.port = p.port

/-- Nothing of an earlier event is in hand (log entry 9), no reset is in progress, and no lane but `n`, where one is named,
waits in a HOLD, so that what a command does is its own effect alone. -/
structure State.QuietBut (s : State) (n : Option Lane) : Prop where
  running : s.part.port.inReset = false
  agenda  : s.part.agenda = []
  settled : s.part.settled
  mem     : Memory.wf s.mem = true
  noHold  : ∀ l, n ≠ some l → (s.part.lane l).waitKind ≠ some .hold

abbrev State.Quiet (s : State) : Prop := s.QuietBut none

/-- The event has taken the part of `s` to what `p` holds, in every block but the Exchange Port, and has written nothing
to exchange memory. -/
structure State.Ran (s t : State) (p : Part) : Prop where
  follows : p.Follows t.part
  mem     : t.mem = s.mem
  queue   : t.pending = s.pending
  done    : t.part.agenda = []

/-- Command `c` leads from `s` to a state that holds `p` in every block but the Exchange Port, with nothing written to exchange
memory. -/
def State.Leads (s : State) (c : Instr) (p : Part) : Prop := ∃ t, exec c s = .next t ∧ s.Ran t p

/-- Address `a` lies outside lane `n`'s link and state in the header (Table 6-2); the byte after the state, which no rule gives
to the part, lies outside (log entry 48). -/
def outsideLane (n : Lane) (a : Nat) : Prop := a < 18 + 8 * n.val ∨ 20 + 8 * n.val < a

/-- Address `a` lies outside the record slot `link`. -/
def outsideSlot (link : Half) (a : Nat) : Prop := a < slotBase link ∨ slotBase link + 64 ≤ a

/-- The same for an event that changes lane `n`: the header's link and state of the lane may be written. -/
structure State.RanLane (s t : State) (n : Lane) (p : Part) : Prop where
  follows : p.Follows t.part
  keeps   : ∀ a, outsideLane n a → readByte t.mem a = readByte s.mem a
  queue   : t.pending = s.pending
  done    : t.part.agenda = []

/-- The same for an event that changes several lanes: every lane's link and state in the header may be written. -/
structure State.RanLanes (s t : State) (p : Part) : Prop where
  follows : p.Follows t.part
  keeps   : ∀ a, (∀ n, outsideLane n a) → readByte t.mem a = readByte s.mem a
  queue   : t.pending = s.pending
  done    : t.part.agenda = []

/-- The event that leads to `t` has equalised the board (R133): every slot shows its source and the seen count that was read
as its change count, the header shows the lanes and the generation, no slot is pending, and every other byte of
exchange memory reads as before. -/
structure State.Equalised (s t : State) : Prop where
  slots   : ∀ j, t.part.slot j =
    { shadow := readHalf s.mem (boardBase j + 2), seen := readHalf s.mem (boardBase j + 2),
      notify := (readByte s.mem (boardBase j + 4)).getLsbD 0, content := t.part.slotContent j, waiting := false }
  shown   : ∀ j, readBytes t.mem (boardBase j + 5) 27 = (t.part.slotContent j).bytes
  counts  : ∀ j, readHalf t.mem (boardBase j) = readHalf s.mem (boardBase j + 2)
  hosts   : ∀ j, readBytes t.mem (boardBase j + 2) 3 = readBytes s.mem (boardBase j + 2) 3
  links   : ∀ n : Lane, readHalf t.mem (18 + 8 * n.val) = (t.part.lane n).headerLink
  states  : ∀ n : Lane, readByte t.mem (20 + 8 * n.val) = BitVec.ofNat 8 (t.part.lane n).state.num
  plan    : readHalf t.mem 4 = t.part.generation.setWidth 16
  keeps   : ∀ a, a < 512 ∨ 2176 ≤ a → (∀ n, outsideLane n a) → a ≠ 4 → a ≠ 5 → readByte t.mem a = readByte s.mem a
  quiet   : t.part.board.pendingCount = 0 ∧ t.part.board.lowest = none ∧ t.part.board.nIntLow = false

/-- A whole valid reply of the station polled arrives (R172, R173); `released` says that its poll carried the brake
released. -/
structure State.Answers (s : State) (st : StationId) (released : Bool) (bytes : List Byte) : Prop where
  quiet    : s.Quiet
  exchange : s.part.field.exchange = some { station := st, released := released, discard := false }
  whole    : replyLength st ≤ bytes.length
  valid    : replyValid st (bytes.take (replyLength st)) = true

/-- The exchange of station `st` has completed with a valid reply (R175, R176). -/
def Part.stationHeard (st : StationId) (status : Byte) (position : Nat) (p : Part) : Part :=
  Part.setStation st
    { state := .online, misses := 0, polled := (p.station st).polled, status := status, position := position }
    { p with field := { p.field with exchange := none } }

/-- The same at a mover's station: the mover keeps the fields of its reply (R38, step 1). -/
def Part.moverHeard (m : MoverId) (status : Byte) (r : MoverReply) (p : Part) : Part :=
  Part.setMover m { p.mover m with
      position := r.position, brakeReleased := r.brakeReleased, toeBroken := r.toeBroken, localReported := r.localMode,
      faultReported := r.stationFault, step := none }
    (Part.stationHeard (moverStation m) status r.position p)

/-! ### What an order leaves -/

/-- Lane `n` takes the record in slot `link` now. -/
structure State.Takes (s : State) (n : Lane) (link : Half) : Prop where
  quiet : s.Quiet
  now   : s.part.takesNow n = some link
  valid : linkValid link = true

/-- The head of an order record passes the checks of R139: its flags and its expect precondition. -/
def headPasses (h : OrderHead) (p : Part) : Prop :=
  h.flags.toNat < 4 ∧ h.expectMask.toNat < 16 ∧
    (h.expectMask = 0 ∨
      ∃ k : ZoneId, h.expectZone.toNat = k.val ∧ h.expectMask.getLsbD (p.zone k).state.num = true)

/-- The WAIT flag of an order (R124). -/
def headWaits (h : OrderHead) : Bool := h.flags.getLsbD 0

/-- The lane has taken a record (R138): one of its budget is used. -/
def LaneContext.taken (c : LaneContext) : LaneContext := { c with budget := c.budget - 1, holdMarks := 0 }

/-- The lane after its record in slot `link` has retired and it follows `next` (R141, R142). -/
def LaneContext.goesOn (c : LaneContext) (link next : Half) : LaneContext :=
  { c with state := if next = 0 then .resting else .working, current := none,
           link := if next = 0 then none else some next, anchor := .record link, retired := c.retired + 1,
           waitKind := none, holdTimer := none }

/-- The lane follows link `next`: a null link leaves it RESTING (R141, R142). -/
def LaneContext.follows (c : LaneContext) (next : Half) : LaneContext :=
  { c with state := if next = 0 then .resting else .working, link := if next = 0 then none else some next }

/-- Lane `n` after its anchor has been read again (R142): a RESTING lane follows the next link of its anchor record, or its
start link; every other lane is left alone. -/
def LaneContext.rereads (n : Lane) (m : List Host.Cell) (c : LaneContext) : LaneContext :=
  if c.state = .resting then
    c.follows (match c.anchor with
      | .record l => readHalf m (slotBase l + 4)
      | .start => readHalf m (16 + 8 * n.val)
      | .absent => 0)
  else c

/-- The lane while its record waits (R140). -/
def LaneContext.waitsOn (c : LaneContext) (held : HeldRecord) (kind : WaitKind) : LaneContext :=
  { c with state := .waiting, waitKind := some kind, current := some held, link := none }

/-- The lane after it has stopped (R143). -/
def LaneContext.stopped (c : LaneContext) (cause : LaneCause) : LaneContext :=
  { c with state := .stopped, cause := some cause, current := none, link := none, returnAnchor := none, waitKind := none,
           badLink := none, holdTimer := none, abort := none }

/-- The lane once its record in slot `link` has retired, no longer followed: what is left of it is stopped (R143, R151). -/
def LaneContext.retiredAt (c : LaneContext) (link : Half) : LaneContext :=
  { c with retired := c.retired + 1, anchor := .record link }

/-- A 32-bit field of exchange memory. -/
def readWord (m : List Host.Cell) (a : Nat) : Word := wordAt (readBytes m a 4) 0

/-- The record in slot `link` shows a result (R127): the values that the result gives. -/
structure ShowsResult (m : List Host.Cell) (link : Half) (r : Result) : Prop where
  code   : readByte m (slotBase link + 36) = r.code.byte
  flags  : readByte m (slotBase link + 37) = r.flags
  detail : ∀ h, r.detail = some h → readHalf m (slotBase link + 38) = h
  first  : ∀ w, r.first = some w → readWord m (slotBase link + 40) = w
  second : ∀ w, r.second = some w → readWord m (slotBase link + 44) = w

/-- The owner byte of a record that has retired, and of one that is held (R126): a STANDING record stays STANDING. -/
def retiredOwner (standing : Bool) : Byte := if standing then ownerStanding else ownerRetired
def heldOwner (standing : Bool) : Byte := if standing then ownerStanding else ownerActive

/-- Lane `n`'s record in slot `link` has retired with result `r`: the blocks hold what `p` holds, the owner byte is `o`, the
record shows the result, and outside the record and the lane's header exchange memory reads as before. -/
structure State.Retires (s t : State) (n : Lane) (link : Half) (o : Byte) (r : Result) (p : Part) : Prop where
  follows : p.Follows t.part
  owner   : readByte t.mem (slotBase link) = o
  result  : ShowsResult t.mem link r
  keeps   : ∀ a, outsideSlot link a → outsideLane n a → readByte t.mem a = readByte s.mem a
  queue   : t.pending = s.pending
  done    : t.part.agenda = []

/-- Two records of lane `n` have retired in the event, in the slots `a` and `b`. -/
structure State.RetiresBoth (s t : State) (n : Lane) (a b : Half) (oa ob : Byte) (ra rb : Result) (p : Part) : Prop where
  follows : p.Follows t.part
  ownerA  : readByte t.mem (slotBase a) = oa
  ownerB  : readByte t.mem (slotBase b) = ob
  resultA : ShowsResult t.mem a ra
  resultB : ShowsResult t.mem b rb
  keeps   : ∀ x, outsideSlot a x → outsideSlot b x → outsideLane n x → readByte t.mem x = readByte s.mem x
  queue   : t.pending = s.pending
  done    : t.part.agenda = []

/-- Lane `n` holds the record in slot `link` and waits: the blocks hold what `p` holds, the record is ACTIVE (or STANDING)
with a result code of 00H. -/
structure State.Holds (s t : State) (n : Lane) (link : Half) (standing : Bool) (p : Part) : Prop where
  follows : p.Follows t.part
  owner   : readByte t.mem (slotBase link) = heldOwner standing
  result  : readByte t.mem (slotBase link + 36) = 0
  keeps   : ∀ a, outsideSlot link a → outsideLane n a → readByte t.mem a = readByte s.mem a
  queue   : t.pending = s.pending
  done    : t.part.agenda = []

/-- Lane `n`'s order in slot `link` has ended with result `r` in the event that took it, with the deck as in `p`: the
record has retired and the lane follows the link of the result's class (R141). -/
def State.OrderEnds (s t : State) (n : Lane) (link : Half) (head : OrderHead) (r : Result) (p : Part) : Prop :=
  s.Retires t n link (retiredOwner head.standing) r
    (p.setLane n ((p.lane n).taken.goesOn link (if r.code.failure then head.alternate else head.next)))

/-- Lane `n` keeps the order in slot `link` and waits, with the deck as in `p` (R140). -/
def State.OrderWaits (s t : State) (n : Lane) (link : Half) (head : OrderHead) (image : List Byte) (kind : WaitKind)
    (p : Part) : Prop :=
  s.Holds t n link head.standing
    (p.setLane n ((p.lane n).taken.waitsOn
      { link := link, standing := head.standing, bytes := image, clamped := false } kind))

/-- Lane `n` takes an order with this head in slot `link` now, and the head passes its checks. -/
structure State.TakesOrder (s : State) (n : Lane) (link : Half) (head : OrderHead) : Prop where
  takes  : s.Takes n link
  passes : headPasses head s.part

/-- The order that a command is: its lane, the head, the kind and the parameter bytes (R125). -/
def orderOf : Instr → Option (Lane × OrderHead × OrderKind × List Byte)
  | .hold n h duration condition index state => some (n, h, .hold, holdParams duration condition index state)
  | .detour n h target => some (n, h, .detour, halfBytes target)
  | .ret n h => some (n, h, .ret, [])
  | .mark n h code => some (n, h, .mark, halfBytes code)
  | .haltLane n h => some (n, h, .haltLane, [])
  | .groupOpen n h mode claimSet => some (n, h, .groupOpen, groupParams mode claimSet)
  | .groupClose n h => some (n, h, .groupClose, [])
  | .abortGroup n h code => some (n, h, .abortGroup, [code])
  | .setLoading n h zone => some (n, h, .setLoading, [zone])
  | .setSecure n h zone => some (n, h, .setSecure, [zone])
  | .shutZone n h zone => some (n, h, .shutZone, [zone])
  | .reopenZone n h zone => some (n, h, .reopenZone, [zone])
  | .disableDetection n h zone => some (n, h, .disableDetection, [zone])
  | .enableDetection n h zone => some (n, h, .enableDetection, [zone])
  | .resetAlarm n h zone => some (n, h, .resetAlarm, [zone])
  | .move n h mover mode share value => some (n, h, .move, moveParams mover mode share value)
  | .stopMover n h mover => some (n, h, .stopMover, [mover])
  | .floatRamp n h mover => some (n, h, .floatRamp, [mover])
  | .clearMoverFault n h mover => some (n, h, .clearMoverFault, [mover])
  | .closeDoor n h door => some (n, h, .closeDoor, [door])
  | .openDoor n h door => some (n, h, .openDoor, [door])
  | .forceClose n h door => some (n, h, .forceClose, [door])
  | .clearDoorFault n h door => some (n, h, .clearDoorFault, [door])
  | .call n h priority message lines repeats policy chime =>
    some (n, h, .call, callParams priority message lines repeats policy chime)
  | .cancelCall n h callId => some (n, h, .cancelCall, halfBytes callId)
  | .setClock n h seconds => some (n, h, .setClock, wordBytes seconds)
  | .adoptPlan n h link => some (n, h, .adoptPlan, halfBytes link)
  | .powerOnReset | .softReset | .resetEnd | .lanesEnable _ | .intEn _ | .bridgeLanes _ | .start _ | .wake _ | .cancel _
  | .rescan | .ignoredRegisterWrite _ _ _ | .deckTick | .fieldCycleStart | .checkMark | .centisecondMark | .secondEnd
  | .periodEnd _ | .confirmTimerExpiry _ | .brakeTimerExpiry _ | .settleTimerExpiry _ | .leadExpiry _
  | .motionTimerExpiry _ | .retryDelayExpiry _ | .chimeEnd | .chimeOnlyRepeatEnd | .replyTimerExpiry | .probeTimerExpiry
  | .claimWaitExpiry _ | .holdExpiry _ | .poll | .reply _ | .replyWindowClose | .started _ | .done _ | .cutDone | .ready
  | .err _ | .frameDiscard _ | .boardWrite _ | .seenCountRead | .linkTake _ => none

/-- The condition, index and state of a HOLD are in their ranges (R144). -/
def holdFits (condition index state : Byte) : Prop :=
  (condition = 0 ∧ index.toNat < 12 ∧ state.toNat < 4) ∨ (condition = 1 ∧ index.toNat < 8 ∧ state = 0) ∨
    (condition = 2 ∧ index.toNat < 24 ∧ state.toNat < 2) ∨ ((condition = 3 ∨ condition = 0xFF) ∧ index = 0 ∧ state = 0)

/-- The mode, the share and the value of a MOVE are in their ranges (R29). -/
def moveFits (mode share : Byte) (value : Word) : Prop :=
  share.toNat ≤ 100 ∧ ((mode = 0 ∧ 0 ≤ value.toInt ∧ value.toInt ≤ 65535) ∨
    (mode = 1 ∧ -65535 ≤ value.toInt ∧ value.toInt ≤ 65535) ∨ (mode = 2 ∧ 1 ≤ value.toInt ∧ value.toInt ≤ 8))

/-- The parameters of a CALL are in their ranges, and its priority byte stands for `pr` (R85). -/
def callFits (priority message : Byte) (lines : Half) (repeats policy chime : Byte) (pr : Priority) : Prop :=
  priority.toNat = pr.num ∧ message ≠ 0 ∧ lines ≠ 0 ∧ 1 ≤ repeats.toNat ∧ repeats.toNat ≤ 15 ∧ policy.toNat ≤ 1 ∧
    chime.toNat ≤ 8

/-- A HOLD's condition is met (R144, R145): a zone is in the state, a mover is at rest, a door is CLOSED or OPEN, the
lane's last call has ended. -/
def holdIsMet (p : Part) (n : Lane) (condition index state : Byte) : Prop :=
  (condition = 0 ∧ ∃ k : ZoneId, k.val = index.toNat ∧ (p.zone k).state.num = state.toNat) ∨
    (condition = 1 ∧ ∃ m : MoverId, m.val = index.toNat ∧ (p.mover m).motion.state = .idle) ∨
    (condition = 2 ∧ ∃ d : DoorId, d.val = index.toNat ∧
      ((state = 0 ∧ (p.door d).state = .closed) ∨ (state = 1 ∧ (p.door d).state = .opened))) ∨
    (condition = 3 ∧ getAt p.calls.lastEnded n = true)

/-- The result of a zone order (chapter 1.5). -/
def zoneShown (code : ResultCode) (k : ZoneId) (state : ZoneState) (level : AlarmLevel) : Result :=
  Result.of code k.val (word state.num) (word level.num)

/-- The result of a mover order (R30, R34). -/
def moverShown (code : ResultCode) (m : MoverId) (position second : Nat) : Result :=
  Result.of code m.val (word position) (word second)

/-- The result of a door order (R71). -/
def doorShown (code : ResultCode) (d : DoorId) (state : DoorState) (retries : Nat) : Result :=
  Result.of code d.val (word state.num) (word retries)

/-- The chime-only repeat of call `e` (R105): the active call chimes with its pattern or the plan's default. -/
def Part.chimesOnly (p : Part) (e : CallEntry) (q : Part) : Prop :=
  ∀ n, n = (if e.chime = 0 then p.inForce.header.defaultChime e.priority else e.chime) →
    q = { p with
      lines := (forEach (linesOf e.lines) (fun k => postChime k n) p).lines,
      calls := { p.calls with active := some { e with
        state := .chime, chimePending := false, chimeOnly := true, playSent := false,
        chimeLeft := some ((p.pattern n).period * (if (p.pattern n).count = 0 then 1 else (p.pattern n).count)) } } }

/-- `q` is the part `p`, with no call active, once call `e`, whose message has a length, has become active (R93, R94, R105): by
the link's state it chimes, has its PLAY sent, waits for the link, or is served chime-only. -/
def Part.Serves (p : Part) (e : CallEntry) (q : Part) : Prop :=
  (p.player.state = .fault → p.chimesOnly e q) ∧
  (p.player.state ≠ .fault → e.chimePending = true → e.chime ≠ 0 →
    q = { p with
      lines := (forEach (linesOf e.lines) (fun k => postChime k e.chime) p).lines,
      calls := { p.calls with active := some { e with
        state := .chime, chimePending := false, chimeOnly := false, playSent := false,
        chimeLeft := some ((p.pattern e.chime).period *
          (if (p.pattern e.chime).count = 0 then 1 else (p.pattern e.chime).count)) } } }) ∧
  (p.player.state = .ready → e.chimePending = false ∨ e.chime = 0 →
    q = { p with
      calls := { p.calls with active := some { e with
        state := .playing, chimePending := false, chimeLeft := none, chimeOnly := false, playSent := true } },
      player := { p.player with
        state := .playing, message := e.message, startedSeen := false, length := p.messageLength e.message,
        replyTimer := some (.started, 100), sentFrame := playFrame e.message e.lines } }) ∧
  (p.player.state = .unknown ∨ p.player.state = .cutting ∨ p.player.state = .playing → e.chimePending = false ∨ e.chime = 0 →
    q = { p with calls := { p.calls with active := some { e with
      state := .playing, chimePending := false, chimeLeft := none, chimeOnly := false, playSent := false } } })

/-- Call `e` in a suspend slot (R91, R96). -/
def CallEntry.suspends (e : CallEntry) : CallEntry :=
  { e with state := .suspended, cutReason := none, chimeLeft := none, chimeOnly := false, playSent := false }

/-- The last-call-ended flags once the call of this id has ended (R95). -/
def CallStore.ended (c : CallStore) (id : Nat) : Vector Bool 4 :=
  tableOf 4 (fun l => getAt c.lastEnded l || decide (getAt c.lastCall l = some id))

/-- An entry that lane `n` holds as an implicit claim (R154). -/
def implicitOf (n : Lane) : Claim :=
  { holder := some n, kind := some .implicit, level := 0, saved := none, status := .none }

/-- No actuator and no call keeps a record of lane `n` waiting. -/
structure Part.Unwaited (p : Part) (n : Lane) : Prop where
  movers : ∀ m, (p.mover m).motion.waiting ≠ some n
  doors  : ∀ d, (p.door d).waiting ≠ some n
  calls  : ∀ e ∈ p.calls.entries, n ∉ e.waiting

/-- Lane `n` has no open group, the entry is FREE or the lane's own implicit claim, and no lane waits for a claim. -/
structure Part.ClaimOpen (p : Part) (n : Lane) (e : EntryId) : Prop where
  nest    : (p.lane n).nest = []
  entry   : p.claim e = Claim.free ∨ p.claim e = implicitOf n
  waiters : p.waiters = []

/-- Lane `n` has no open group, the entry is FREE and no lane waits for a claim. -/
structure Part.ClaimFree (p : Part) (n : Lane) (e : EntryId) : Prop where
  nest    : (p.lane n).nest = []
  free    : p.claim e = Claim.free
  waiters : p.waiters = []

end Sys2Proof.Machine
end

