-- ==== Sys2Proof/Certificates/Slice0/Obligations.lean ====
section
/-! DEFINITION. The statements for the provers, in the order of OBLIGATIONS.json. -/

open Sys2Proof Sys2Proof.Machine

/-! ### The machine as a whole -/

/-- A step is the effect of the command at the front of the queue on the state with the queue's rest; with no command waiting
the block idles, which is the model's choice (log entry 12). -/
def Obligations.StepRunsFrontCommand : Prop :=
  (∀ (s : State) (c : Instr) (rest : List Instr),
     s.pending = c :: rest → step s = exec c { s with pending := rest }) ∧
  (∀ s : State, s.pending = [] → step s = .next s)

/-- No command of the table stops the machine, in any state, and none touches the queue. -/
def Obligations.EveryCommandCompletes : Prop :=
  ∀ (c : Instr) (s : State), ∃ t, exec c s = .next t ∧ t.pending = s.pending

/-- R121, R130, R132: from every state in which exchange memory is canonical, no write to it and no forced slot is left over,
and the pending count, the lowest pending slot and nINT are as their terms give them, every step leads to such a state. -/
def Obligations.StepKeepsInvariant : Prop := ∀ s t : State, s.Inv → step s = .next t → t.Inv

/-- The state after power-on reset has the invariant. Log entry 1. -/
def Obligations.ResetHoldsInvariant : Prop := State.reset.Inv

/-- R184, R185: while a soft reset is in progress nothing but the two resets' own events reaches a block; a write that
is ignored changes nothing at any time. Log entry 5. -/
def Obligations.NothingHappensInReset : Prop :=
  (∀ (c : Instr) (s : State), s.part.port.inReset = true → c ≠ .powerOnReset → c ≠ .resetEnd → exec c s = .next s) ∧
  (∀ (s : State) (address : BitVec 3) (data : Half) (bits : Nat),
     exec (.ignoredRegisterWrite address data bits) s = .next s)

/-! ### Resets (R121, R185, R187) -/

/-- Lane `n` holds the record `held`: as its current record, or as the GROUP OPEN record of a level of its nest. -/
def holdsRecord (p : Machine.Part) (n : Lane) (held : HeldRecord) : Prop :=
  (p.lane n).current = some held ∨ ∃ l ∈ (p.lane n).nest, l.record = held

/-- What the abandoned burst of a soft reset leaves on the board (R134): of one waiting slot the first `k` of the 27 content bytes
are new; every other byte of the board, the change counts among it, reads as before. -/
def burstAbandoned (s t : State) : Prop :=
  ∃ (j : SlotId) (k : Nat), k ≤ 27 ∧ (k = 0 ∨ (s.part.slot j).waiting = true) ∧
    ∀ a, 512 ≤ a → a < 2176 → readByte t.mem a =
      if boardBase j + 5 ≤ a ∧ a < boardBase j + 5 + k then byteAt (s.part.slot j).content.bytes (a - (boardBase j + 5))
      else readByte s.mem a

/-- What the interrupted retirement of a soft reset leaves outside the board (R134, R127): of one record that a lane holds the first
`k` bytes of a result block and the finished time; every other byte, each owner among it, reads as before. -/
def retirementInterrupted (s t : State) : Prop :=
  ∃ (link : Half) (block : List Byte) (k : Nat), block.length = 12 ∧
    (k = 0 ∨ ∃ n held, holdsRecord s.part n held ∧ held.link = link) ∧
    ∀ a, a < 512 ∨ 2176 ≤ a → readByte t.mem a =
      if slotBase link + 36 ≤ a ∧ a < slotBase link + 48 ∧ a < slotBase link + 36 + k then
        byteAt block (a - (slotBase link + 36))
      else if slotBase link + 52 ≤ a ∧ a < slotBase link + 56 ∧ a < slotBase link + 40 + k then
        byteAt (wordBytes s.part.time.clock.seconds) (a - (slotBase link + 52))
      else if a = slotBase link + 57 ∧ 17 ≤ k then BitVec.ofNat 8 s.part.time.clock.centis
      else readByte s.mem a

/-- R187, R185, R121, R109, R134, R188: after POWER_ON_RESET every block stands at its reset values, the voyage clock at
0, nINT is released, exchange memory is as it was, and STATUS and PENDING read their defaults. SOFT_RESET does the
same to every block except the voyage clock seconds, and holds the part in reset. Exchange memory is as it was where no burst
waits and no lane holds a record; elsewhere the one burst under way may have left the first content bytes of its slot, with the
old change count, and the one retirement under way the first bytes of its result block, with the owner as it was. Which they
are and how far they have come is free, as is the interrupted result (log entry 44). Log entries 1 and 44. -/
def Obligations.ResetsLeaveDefaults : Prop :=
  (∀ s : State, ∃ t, exec .powerOnReset s = .next t ∧ t.mem = s.mem ∧ t.pending = s.pending ∧
     (Part.reset 0 false [] 0).Follows t.part ∧ t.part.board = ExchangePort.reset ∧
     t.part.time.clock = { seconds := 0, centis := 0 } ∧ t.part.port.partState = .starting ∧
     (∀ n, t.part.lane n = LaneContext.reset) ∧ (∀ e, t.part.claim e = Claim.free) ∧ t.part.plan = none ∧
     t.part.board.nIntLow = false ∧ readRegister t 1 = 0 ∧ readRegister t 3 = 0 ∧ readRegister t 4 = 0x003F) ∧
  (∀ s : State, s.part.port.inReset = false → Memory.wf s.mem = true →
     (∀ n held, holdsRecord s.part n held → linkValid held.link = true) →
     ∃ t, exec .softReset s = .next t ∧ burstAbandoned s t ∧ retirementInterrupted s t ∧
     ((∀ j, (s.part.slot j).waiting = false) → (∀ n held, ¬ holdsRecord s.part n held) → t.mem = s.mem) ∧
     t.pending = s.pending ∧ (Part.reset s.part.time.clock.seconds true [] 0).Follows t.part ∧
     t.part.board = ExchangePort.reset ∧ t.part.time.clock = { seconds := s.part.time.clock.seconds, centis := 0 } ∧
     t.part.port.inReset = true ∧ (∀ n, t.part.lane n = LaneContext.reset))

/-- R187, R101, R107: at RESET_END the part reads the layout word and enters PLAN_WAIT where it is 1, LAYOUT_WAIT otherwise;
STATUS is sent to the player; the first field cycle start and check mark fall due. R133: with a layout word of 1 the board
is equalised in the same event. Log entries 1, 38 and 48. -/
def Obligations.ResetEndReadsLayout : Prop :=
  ∀ s : State, s.part.port.partState = .starting → s.part.port.nResetLow = false → s.part.agenda = [] → s.part.settled →
    Memory.wf s.mem = true → (∀ n, (s.part.lane n).waitKind ≠ some .hold) →
    ∃ t, exec .resetEnd s = .next t ∧
      t.part.port.partState = (if readHalf s.mem 0 = 1 then .planWait else .layoutWait) ∧
      t.part.port.inReset = false ∧ t.part.time.cycleDue = true ∧ t.part.time.checkDue = true ∧
      t.part.player.sentFrame = [0x33, 0, 0, 0, 0xCD] ∧ t.part.player.replyTimer = some (.status, 500) ∧
      t.part.lanes = s.part.lanes ∧ t.part.zones = s.part.zones ∧ t.part.plan = s.part.plan ∧
      (readHalf s.mem 0 = 1 → s.Equalised t) ∧ (readHalf s.mem 0 ≠ 1 → t.mem = s.mem)

/-! ### CONTROL and SIGNAL (R131, R137, R146, R151, R152, R184 to R187) -/

/-- What command `c`, which cancels lane `n` with cause `cause`, does to a lane that waits, has an open group or is in
ABORTING (R151, R152, R168). `p` is the deck with what else the command changes. In a HOLD and in a claim wait the record
retires CANCELLED and the lane stops. With one open group at rest the nest aborts with the cause CANCEL, its records retire
and the lane stops. In ABORTING a first CANCEL is a further cause that makes the abort a HALT and sets the stop cause, and a
second one changes nothing. -/
def cancelEnds (c : Instr) (cause : LaneCause) (s : State) (n : Lane) (p : Machine.Part) : Prop :=
  (∀ held : HeldRecord, s.QuietBut (some n) → (p.lane n).state = .waiting → (p.lane n).nest = [] →
    (p.lane n).current = some held → linkValid held.link = true → held.clamped = false → p.Unwaited n →
    ((p.lane n).waitKind = some .hold → imageKind held.bytes = some .hold → (∀ w ∈ p.waiters, w.lane ≠ n) →
      ∃ t, exec c s = .next t ∧
        s.Retires t n held.link (if held.standing then readByte s.mem (slotBase held.link) else ownerRetired)
          { code := .cancelled, flags := 0, detail := some ((holdCondition held.bytes).setWidth 16),
            first := some (word (p.lane n).holdMarks), second := p.holdWatched n held.bytes }
          (p.setLane n (((p.lane n).retiredAt held.link).stopped cause))) ∧
    ((p.lane n).waitKind = some .claim →
      ∃ t, exec c s = .next t ∧
        s.Retires t n held.link (if held.standing then readByte s.mem (slotBase held.link) else ownerRetired)
          (Result.bare .cancelled)
          (({ p with waiters := p.waiters.filter (fun w => w.lane != n) }).setLane n
            (((p.lane n).retiredAt held.link).stopped cause)))) ∧
  (∀ (top : Level) (l : Half), s.Quiet → (p.lane n).state = .resting ∨ (p.lane n).state = .working →
    (p.lane n).current = none → (p.lane n).waitKind = none → (p.lane n).nest = [top] → (p.lane n).anchor = .record l →
    linkValid top.record.link = true → top.record.clamped = false →
    (∀ e, (p.claim e).inNest n = true → p.steady e = true ∧ (p.claim e).status ≠ .pending) → p.waiters = [] →
    p.Unwaited n →
    ∃ t, exec c s = .next t ∧
      s.Retires t n top.record.link (if top.record.standing then readByte s.mem (slotBase top.record.link) else ownerRetired)
        (Result.of .aborted 8 1 (l.setWidth 32))
        (Part.setLane n ({ (p.lane n).retiredAt top.record.link with nest := [] }.stopped cause)
          { p with claims := mapAll (fun c => if c.inNest n then Claim.free else c) p.claims })) ∧
  (∀ a : AbortRecord, s.Quiet → (p.lane n).state = .aborting → (p.lane n).abort = some a → (p.lane n).nest ≠ [] →
    (∃ e, (p.claim e).inNest n = true ∧ p.steady e = false) →
    (∀ e, (p.claim e).inNest n = true → (p.claim e).status ≠ .underWay ∧ (p.claim e).status ≠ .pending) →
    ∃ t, exec c s = .next t ∧ s.Ran t (p.setLane n (if a.cause = .cancel then p.lane n else { p.lane n with
      abort := some { a with
        furtherCause := true, returns := false,
        stopCause := if a.stopCause = some .cancelled ∨ a.stopCause = some .lanesDisabled ∨ a.stopCause = some .haltOrder then
          a.stopCause else some cause } })))

/-- R132, R185, R152: INT_EN and BRIDGE_LANES write their bits and nothing else of the deck; nINT follows INT_EN in the same
event, low with INT_EN set and a slot pending. Setting LANES_ENABLE writes the bit alone; clearing it stops each RESTING or
WORKING lane of no open group with cause LANES_DISABLED and leaves IDLE and STOPPED lanes alone. R151, R168: a lane that
waits in a HOLD or for a claim, that has an open group at rest or that is in ABORTING, alone among IDLE and STOPPED ones,
ends as under a CANCEL, with that cause. The first and the second value of a HOLD that ends so are the model's choices: the
marks since its take (log entry 19), and the code of a mover or door state (log entry 49). Lanes in ABORTING with a return
under way, deeper nests and other waits are not stated. Log entries 5, 19, 48 and 49. -/
def Obligations.ControlWritesTakeEffect : Prop :=
  (∀ (s : State) (on : Bool) (mask : BitVec 4), s.Quiet → s.part.intHolds →
     (∃ t, exec (.intEn on) s = .next t ∧ s.Ran t { s.part with port := { s.part.port with intEn := on } } ∧
       t.part.pendingSlots = s.part.pendingSlots ∧ t.part.board.nIntLow = (on && !s.part.pendingSlots.isEmpty)) ∧
     (∃ t, exec (.bridgeLanes mask) s = .next t ∧ s.Ran t { s.part with port := { s.part.port with bridgeLanes := mask } } ∧
       t.part.board.nIntLow = s.part.board.nIntLow)) ∧
  (∀ s : State, s.Quiet →
     (∃ t, exec (.lanesEnable true) s = .next t ∧
       s.Ran t { s.part with port := { s.part.port with lanesEnable := true } }) ∧
     ((∀ n, (s.part.lane n).nest = [] ∧ (s.part.lane n).current = none ∧ (s.part.lane n).state ≠ .waiting ∧
         (s.part.lane n).state ≠ .aborting) → s.part.port.lanesEnable = true →
       ∃ t, exec (.lanesEnable false) s = .next t ∧ t.part.port.lanesEnable = false ∧ t.pending = s.pending ∧
         ∀ n, t.part.lane n =
           (match (s.part.lane n).state with
            | .resting | .working => (s.part.lane n).stopped .lanesDisabled
            | .idle | .stopped | .waiting | .aborting => s.part.lane n))) ∧
  (∀ (s : State) (n : Lane), s.part.port.lanesEnable = true →
     (∀ l, l ≠ n → (s.part.lane l).state = .idle ∨ (s.part.lane l).state = .stopped) →
     cancelEnds (.lanesEnable false) .lanesDisabled s n
       { s.part with port := { s.part.port with lanesEnable := false } })

/-- R137: START on an IDLE or STOPPED lane, with the lanes enabled in PLAN_WAIT or READY, fixes the lane's authority from
BRIDGE_LANES, clears its cause, counts and anchors, and makes it WORKING on the header's start link, or RESTING where that
is null. R142: on a RESTING lane it rereads the anchor: the lane follows the next link of its anchor record, or the start
link, and rests on where that is null. On a lane in another state, with LANES_ENABLE clear, or in STARTING or LAYOUT_WAIT,
it only sets the cause START_IGNORED. Log entries 5 and 48. -/
def Obligations.StartBeginsAtStartLink : Prop :=
  ∀ (s : State) (n : Lane), s.Quiet →
    ((s.part.lane n).state = .idle ∨ (s.part.lane n).state = .stopped → s.part.port.lanesEnable = true →
      s.part.port.partState = .planWait ∨ s.part.port.partState = .ready →
      ∃ t, exec (.start n) s = .next t ∧
        s.RanLane t n (s.part.setLane n { s.part.lane n with
          state := if readHalf s.mem (16 + 8 * n.val) = 0 then .resting else .working,
          link := if readHalf s.mem (16 + 8 * n.val) = 0 then none else some (readHalf s.mem (16 + 8 * n.val)),
          bridge := s.part.port.bridgeLanes.getLsbD n.val, cause := none, retired := 0, lastMark := 0, budget := 8,
          returnAnchor := none, anchor := .start, badLink := none })) ∧
    ((s.part.lane n).state = .working ∨ (s.part.lane n).state = .waiting ∨ (s.part.lane n).state = .aborting ∨
        ((s.part.lane n).state ≠ .resting ∧ (s.part.port.lanesEnable = false ∨ s.part.port.partState = .starting ∨
          s.part.port.partState = .layoutWait)) →
      ∃ t, exec (.start n) s = .next t ∧
        s.RanLane t n (s.part.setLane n { s.part.lane n with cause := some .startIgnored })) ∧
    ((s.part.lane n).state = .resting →
      ∃ t, exec (.start n) s = .next t ∧ s.RanLane t n (s.part.setLane n ((s.part.lane n).rereads n s.mem)))

/-- R151: CANCEL stops a RESTING or WORKING lane of no open group with cause CANCELLED; an IDLE or STOPPED lane is left as
it is. R140, R155: a lane that waits in a HOLD or for a claim stops so, its record retired CANCELLED with the HOLD's values
or with none, and its waiter gone. R164, R167, R168: the nest of a lane with one open group at rest aborts with the cause
CANCEL: its claims become FREE, the GROUP OPEN record retires ABORTED and the lane stops CANCELLED; in ABORTING the first
CANCEL is a further cause that makes the abort a HALT and sets the stop cause, unless a cancel has set one, and a second
changes nothing. The first and the second value of a HOLD that ends so are the model's choices: the marks since its take (log
entry 19), and the code of a mover or door state (log entry 49). Log entries 5, 19, 48 and 49. -/
def Obligations.CancelStopsLane : Prop :=
  (∀ (s : State) (n : Lane), cancelEnds (.cancel n) .cancelled s n s.part) ∧
  ∀ (s : State) (n : Lane), s.Quiet → (s.part.lane n).nest = [] → (s.part.lane n).current = none →
    ∃ t, exec (.cancel n) s = .next t ∧ t.pending = s.pending ∧ t.part.time = s.part.time ∧
      t.part.zones = s.part.zones ∧ t.part.plan = s.part.plan ∧ t.part.claims = s.part.claims ∧
      (∀ l, l ≠ n → t.part.lane l = s.part.lane l) ∧
      ((s.part.lane n).state = .resting ∨ (s.part.lane n).state = .working →
        t.part.lane n = (s.part.lane n).stopped .cancelled) ∧
      ((s.part.lane n).state = .idle ∨ (s.part.lane n).state = .stopped → t.part.lane n = s.part.lane n) ∧
      (∀ a, outsideLane n a → readByte t.mem a = readByte s.mem a)

/-- R131, R186, R187, R133: RESCAN in LAYOUT_WAIT reads the layout word again and equalises the board where it is 1; in
PLAN_WAIT and READY it starts a seen-count read, or joins one further read to the one under way, and (R142) has every
RESTING lane reread its anchor; with no lane RESTING it changes no block but the Exchange Port. Log entries 5 and 48. -/
def Obligations.RescanByPartState : Prop :=
  ∀ s : State, s.Quiet →
    (s.part.port.partState = .layoutWait →
      ∃ t, exec .rescan s = .next t ∧
        t.part.port.partState = (if readHalf s.mem 0 = 1 then .planWait else .layoutWait) ∧
        (readHalf s.mem 0 = 1 → s.Equalised t) ∧ (readHalf s.mem 0 ≠ 1 → s.Ran t s.part)) ∧
    (s.part.port.partState = .planWait ∨ s.part.port.partState = .ready →
      ((∀ n, (s.part.lane n).state ≠ .resting) →
        ∃ t, exec .rescan s = .next t ∧ s.Ran t s.part ∧
          t.part.board.read = (if s.part.board.read = .idle then .underWay else .further)) ∧
      ∃ t, exec .rescan s = .next t ∧
        s.RanLanes t { s.part with lanes := tableOf 4 (fun n => (s.part.lane n).rereads n s.mem) } ∧
        t.part.board.read = (if s.part.board.read = .idle then .underWay else .further))

/-! ### Time (R93, R103 to R113) -/

/-- Nothing that a tick has brought is still to be taken. -/
def nothingLeftOver (p : Part) : Prop :=
  p.time.cycleDue = false ∧ p.time.checkDue = false ∧ p.time.markDue = false ∧ (∀ k, (p.line k).endDue = false) ∧
    chimeDue false p = false ∧ chimeDue true p = false

/-- R107, R108, R111, R113, R155: a DECK_TICK raises the cycle count, wrapping at 64, and the tick count of the
interval, which a SET CLOCK before it has restarted; the field cycle start falls due at every 16th count, the check
mark at count 0, the centisecond mark at the interval's length of 11 or 10 ticks; each running generator and a chime
being counted take the tick. The voyage clock does not move. Log entries 6 and 7. -/
def Obligations.DeckTickAdvancesDivider : Prop :=
  ∀ s : State, s.Quiet → nothingLeftOver s.part →
    ∃ t, exec .deckTick s = .next t ∧ s.Ran t { s.part with
        time := t.part.time, lines := mapAll Generator.tick s.part.lines, claimTicks := s.part.claimTicks + 1,
        calls := { s.part.calls with
          active := s.part.calls.active.map (fun e => { e with chimeLeft := countMark e.chimeLeft }) } } ∧
      t.part.time.clock = s.part.time.clock ∧ t.part.time.restart = false ∧
      t.part.time.cycleCount = (s.part.time.cycleCount + 1) % 64 ∧
      t.part.time.interval = (if s.part.time.restart then 0 else s.part.time.interval) ∧
      t.part.time.tickCount = (if s.part.time.restart then 0 else s.part.time.tickCount) + 1 ∧
      (t.part.time.cycleDue = true ↔ t.part.time.cycleCount % 16 = 0) ∧
      (t.part.time.checkDue = true ↔ t.part.time.cycleCount = 0) ∧
      (t.part.time.markDue = true ↔
        (if t.part.time.interval % 25 ∈ [0, 4, 8, 12, 16, 20] then 11 else 10) ≤ t.part.time.tickCount)

/-- R171, R138: at a field cycle start the field link raises its cycle number, wrapping at 64, and fixes the due
stations, ascending: of the polled ones each mover station that is not LOST, each door and zone station that is not LOST and
whose number has the cycle's remainder modulo 4, and the LOST station whose number is the cycle's. Every lane's record
budget is 8. Log entry 6. -/
def Obligations.CycleStartFixesExchanges : Prop :=
  ∀ s : State, s.Quiet → s.part.time.cycleDue = true →
    ∃ t, exec .fieldCycleStart s = .next t ∧ s.Ran t { s.part with
        time := { s.part.time with cycleDue := false },
        field := { s.part.field with
          cycleNumber := (s.part.field.cycleNumber + 1) % 64,
          due := (List.finRange 44).filter
            (fun st => (s.part.station st).dueIn st ((s.part.field.cycleNumber + 1) % 64)) },
        lanes := mapAll (fun c => { c with budget := 8 }) s.part.lanes,
        movers := mapAll (fun x => { x with step := none }) s.part.movers } ∧
      t.part.field.due.Pairwise (fun a b => a.val < b.val) ∧
      ∀ st : StationId, st ∈ t.part.field.due ↔
        ((s.part.station st).polled = true ∧
          (((s.part.station st).state = .lost ∧ st.val = (s.part.field.cycleNumber + 1) % 64) ∨
           ((s.part.station st).state ≠ .lost ∧
             (st.val < 8 ∨ st.val % 4 = ((s.part.field.cycleNumber + 1) % 64) % 4))))

/-- R107, R131, R26, R142: a check mark starts a seen-count read on an equalised board, or joins one further read, has the
slots of the moving movers rewritten and every RESTING lane reread its anchor; nothing else changes, and with no lane
RESTING nothing is written to exchange memory. Log entries 6 and 48. -/
def Obligations.CheckMarkStartsRead : Prop :=
  ∀ s : State, s.Quiet → s.part.time.checkDue = true → s.part.equalised = true →
    ∃ t, exec .checkMark s = .next t ∧
      s.RanLanes t { s.part with
        time := { s.part.time with checkDue := false }, lanes := tableOf 4 (fun n => (s.part.lane n).rereads n s.mem) } ∧
      ((∀ n, (s.part.lane n).state ≠ .resting) →
        s.Ran t { s.part with time := { s.part.time with checkDue := false } }) ∧
      t.part.board.read = (if s.part.board.read = .idle then .underWay else .further) ∧
      ∀ m : MoverId, (s.part.mover m).motion.state.rewritten = true →
        (t.part.slot (moverSlot m)).waiting = true ∧ (t.part.slot (moverSlot m)).content = s.part.moverContent m

/-- No duration of any block has counted its last mark. -/
def nothingExpired (p : Part) : Prop :=
  (∀ k, expired (p.zone k).confirmTimer = false) ∧
    (∀ m, expired (p.mover m).motion.brakeTimer = false ∧ expired (p.mover m).motion.settleTimer = false) ∧
    (∀ d, leadReached (p.door d) = false ∧ expired (p.door d).motionTimer = false ∧
      expired (p.door d).retryTimer = false) ∧
    replyTimerDue p = false ∧ probeTimerDue p = false ∧
    ∀ n, claimWaitDue n p = false ∧ holdDue n p = false

/-- R108 to R110, R144: a centisecond mark, and the mark that ends interval 99, advances the voyage clock by a
centisecond, at interval 99 to the next second, begins the next interval, and is counted by every duration running;
nothing else of the blocks changes. Log entries 6 and 7. -/
def Obligations.MarkAdvancesClock : Prop :=
  ∀ (s : State) (c : Instr), s.Quiet → s.part.time.markDue = true → s.part.time.restart = false →
    nothingExpired s.part → (c = .centisecondMark ∨ (c = .secondEnd ∧ s.part.time.interval = 99)) →
    ∃ t, exec c s = .next t ∧ s.Ran t { s.part with
        time := { s.part.time with
          markDue := false, tickCount := 0,
          interval := if s.part.time.interval = 99 then 0 else s.part.time.interval + 1,
          clock := if s.part.time.interval = 99 then { seconds := s.part.time.clock.seconds + 1, centis := 0 }
                   else { s.part.time.clock with centis := s.part.time.clock.centis + 1 } },
        zones := mapAll (fun z => { z with confirmTimer := countMark z.confirmTimer }) s.part.zones,
        movers := mapAll (fun x => { x with motion := { x.motion with
          brakeTimer := countMark x.motion.brakeTimer, settleTimer := countMark x.motion.settleTimer } }) s.part.movers,
        doors := mapAll (fun x => { x with
          leadCounter := if x.state = .warning then Nat.min 65535 (x.leadCounter + 1) else x.leadCounter,
          motionTimer := countMark x.motionTimer, retryTimer := countMark x.retryTimer }) s.part.doors,
        lanes := mapAll LaneContext.mark s.part.lanes,
        waiters := s.part.waiters.map (fun w => { w with timer := w.timer - 1 }),
        player := { s.part.player with
          replyTimer := s.part.player.replyTimer.map (fun t => (t.1, t.2 - 1)),
          probeTimer := countMark s.part.player.probeTimer } }

/-- R113, R116: at a period end the generator begins the next period at counter 0 with the pattern of the highest demand
present, FIRE before WARN before CHIME, and with the P and D the plan gives it now; with no demand it stops. Log
entry 6. -/
def Obligations.PeriodEndTakesHighestDemand : Prop :=
  ∀ (s : State) (k : LineId), s.Quiet → (s.part.line k).endDue = true →
    ∃ t g, exec (.periodEnd k) s = .next t ∧ s.Ran t (s.part.setLine k g) ∧
      g.fire = (s.part.line k).fire ∧ g.warn = (s.part.line k).warn ∧ g.chime = (s.part.line k).chime ∧
      g.endDue = false ∧ g.counter = 0 ∧
      (g.fire = false → g.warn = false → g.chime = none → g.state = .stopped ∧ g.shown = none) ∧
      (∀ n, ((g.fire = true ∧ n = s.part.inForce.header.firePattern) ∨
          (g.fire = false ∧ g.warn = true ∧ ∃ z : ZoneId, z.val = k.val ∧ n = (s.part.planZone z).warnPattern) ∨
          (g.fire = false ∧ g.warn = false ∧ g.chime = some n)) →
        g.state = .running ∧
          g.shown = some { number := n, period := (s.part.pattern n).period, lead := (s.part.pattern n).lead })

/-- A generator after `i` deck ticks (R113). -/
def afterTicks : Nat → Generator → Generator
  | 0, g => g
  | i + 1, g => (afterTicks i g).tick

/-- A generator of line `k` after `i` deck ticks with each period end taken as it comes, its demands unchanged (R113). -/
def afterPeriods (p : Part) (k : LineId) : Nat → Generator → Generator
  | 0, g => g
  | i + 1, g =>
    if (afterPeriods p k i g).tick.endDue then p.restartLine k (afterPeriods p k i g).tick
    else (afterPeriods p k i g).tick

/-- `post` posts a demand on line `k` whose pattern is `n` (R114). -/
def postsPattern (p : Part) (k : LineId) (n : Nat) (post : Part → Part) : Prop :=
  (post = postFire k ∧ n = p.inForce.header.firePattern) ∨
    (post = postWarn k ∧ ∃ z : ZoneId, z.val = k.val ∧ n = (p.planZone z).warnPattern) ∨ post = postChime k n

/-- R115: a demand posted on a line that is STOPPED, of no demand, starts its generator in the posting: RUNNING at
counter 0 with the demand's pattern, its P and D those of the adopted plan, high at once where D is 0 and low otherwise. At the
ticks that follow the counter rises by one, the line is high from D on, and the Pth tick is the first that ends the
period. With the period ends taken and the demand standing, every tick whose number is a multiple of P ends a period, so the
count of a chime, P times its C, or P for a C of 0, which starts with the first tick, ends on a period end. Nothing else of
the part changes. -/
def Obligations.PostStartsStoppedLine : Prop :=
  ∀ (p : Part) (k : LineId) (n : Nat) (post : Part → Part), postsPattern p k n post → (p.line k).state = .stopped →
    (p.line k).fire = false → (p.line k).warn = false → (p.line k).chime = none → 2 ≤ (p.pattern n).period →
    ∃ g, post p = p.setLine k g ∧ g.state = .running ∧ g.counter = 0 ∧
      g.shown = some { number := n, period := (p.pattern n).period, lead := (p.pattern n).lead } ∧
      g.output = decide ((p.pattern n).lead = 0) ∧
      (∀ i, i < (p.pattern n).period → (afterTicks i g).counter = i ∧ (afterTicks i g).endDue = false ∧
        (afterTicks i g).output = decide ((p.pattern n).lead ≤ i)) ∧
      (afterTicks (p.pattern n).period g).endDue = true ∧
      (∀ c, 0 < c → (afterPeriods p k (c * (p.pattern n).period - 1) g).tick.endDue = true) ∧
      (afterPeriods p k ((p.pattern n).chimeTicks - 1) g).tick.endDue = true

/-! ### The profile of a mover (R39 to R41) -/

/-- R39 to R41, R35, R47: one run of the profile. -/
def profileInBounds : Prop :=
  ∀ (pm : PlanMover) (mo : Motion) (s : Int), pm.lower ≤ pm.upper → pm.vc ≤ pm.vapp → pm.vapp ≤ pm.vmax →
    mo.setpoint = some s → 256 * (pm.lower : Int) ≤ s → s ≤ 256 * (pm.upper : Int) → mo.speed ≤ pm.vmax →
    mo.share ≤ 100 → (∀ t, mo.target = some t → pm.lower ≤ t ∧ t ≤ pm.upper) →
    (∃ s', (pm.profile mo).motion.setpoint = some s' ∧ 256 * (pm.lower : Int) ≤ s' ∧ s' ≤ 256 * (pm.upper : Int) ∧
      (mo.state = .stopping → s' = max (256 * (pm.lower : Int))
        (min (256 * (pm.upper : Int)) (s + (if mo.up then 1 else -1) * ((mo.speed - pm.accel : Nat) : Int))) ∧
        (∀ c, (pm.profile mo).settles = some c → (c : Int) = (s' + 128) / 256))) ∧
    (pm.profile mo).motion.speed ≤ pm.vmax ∧
    (∀ c, (pm.profile mo).settles = some c → pm.lower ≤ c ∧ c ≤ pm.upper ∧ (pm.profile mo).motion.speed = 0) ∧
    (∀ t, mo.stopLatch = false → mo.target = some t → mo.state = .moving → mo.reversal = false →
      mo.up = decide (s < 256 * (t : Int)) →
      if (256 * (t : Int) - s).natAbs ≤ (pm.profile mo).speed then
        (pm.profile mo).settles = some t ∧ (pm.profile mo).motion.setpoint = some (256 * (t : Int)) ∧
          (pm.profile mo).motion.speed = 0
      else
        (pm.profile mo).settles = none ∧ (pm.profile mo).motion.speed = (pm.profile mo).speed ∧
          (pm.profile mo).motion.setpoint = some (s + (if mo.up then 1 else -1) * (pm.profile mo).speed)) ∧
    (mo.state = .stopping → (pm.profile mo).motion.speed ≤ mo.speed - pm.accel ∧
      ((pm.profile mo).settles.isSome = true ↔ (pm.profile mo).motion.speed = 0)) ∧
    (mo.stopLatch = true → (pm.profile mo).motion.target = none ∧ (pm.profile mo).motion.stopLatch = false ∧
      (pm.profile mo).motion.reversal = false) ∧
    (mo.hold.setpoint = some s ∧ mo.hold.speed = 0 ∧ mo.hold.phase = (if mo.phase = .decel then .decel else .accel))

/-- A motion that has ended in LOCAL or FAULTED (R51, R52). -/
def endedIn (state : MoverState) (cause : Option MoverCause) (mo : Motion) : Motion :=
  { mo with state := state, cause := cause, reversal := false, setpoint := none, speed := 0, target := none,
            pending := none, stopLatch := false, floatAlarm := false, brakeJudged := false, brakeTimer := none,
            settleTimer := none }

/-- Mover record `x` in IDLE at count `c`, no record waiting on it (R28, R35, R45). -/
def idleAt (c : Nat) (x : Mover) : Mover :=
  { x with
    sent := c, valve := 0, followRun := 0, settleRun := 0, endJudged := false,
    motion := { x.motion with
      state := .idle, cause := none, reversal := false, setpoint := some (256 * (c : Int)), speed := 0, target := none,
      pending := none, stopLatch := false, floatAlarm := false, brakeJudged := false, brakeTimer := none,
      settleTimer := none } }

/-- The motion with which a control step goes on to the profile after the brake and the toe beam (R32, R37): a mover that goes
on as it was, one whose brake is judged released, one that its beam stops. -/
def goesOnWith (x : Mover) (r : MoverReply) (released panel : Bool) (mo : Motion) : Prop :=
  r.brakeReleased = true ∧
    ((x.motion.state = .stopping ∧ mo = x.motion) ∨
     (x.motion.state = .moving ∧ x.motion.pending = none ∧ (x.motion.up = true ∨ r.toeBroken = false ∨ panel = true) ∧
       mo = x.motion) ∨
     (x.motion.state = .moving ∧ x.motion.pending = none ∧ x.motion.up = false ∧ r.toeBroken = true ∧ panel = false ∧
       mo = { x.motion with state := .stopping, stopLatch := true }) ∨
     (x.motion.state = .releasing ∧ x.motion.pending = none ∧ x.motion.brakeTimer = none ∧ released = true ∧
       (x.motion.up = true ∨ r.toeBroken = false ∨ panel = true) ∧
       mo = { x.motion with state := .moving, phase := .accel, speed := 0, reversal := false, brakeJudged := true }))

/-- The following run after a step with setpoint sent `sent` (R44). -/
def followAfter (pm : PlanMover) (x : Mover) (sent : Nat) : Nat :=
  if pm.efollow < ((sent : Int) - x.position).natAbs then Nat.min 8 (x.followRun + 1) else 0

/-- Mover `m`, at rest after the event, has the record `x`, and its claim, free or a lane's implicit one, is free (R154). -/
def restsFree (q : Machine.Part) (m : MoverId) (x : Mover) : Machine.Part :=
  (q.setMover m x).setClaim (moverEntry m) Claim.free

/-- The mover that is to act alone (R154): its claim is free or a lane's implicit one, no lane waits for a claim, no record waits
on it and no door waits for its zone. -/
structure actsAlone (p : Machine.Part) (m : MoverId) : Prop where
  partner : p.partner m = none
  record  : (p.mover m).motion.waiting = none
  doors   : ∀ d, (p.door d).state ≠ .waitClear
  waiters : p.waiters = []
  claim   : p.claim (moverEntry m) = Claim.free ∨ ∃ h, p.claim (moverEntry m) = implicitOf h

/-- A quotient truncated toward zero. -/
def truncated (x : Int) (n : Nat) : Int := if 0 ≤ x then x / (n : Int) else -(-x / (n : Int))

/-- R42: the valve command from the error, the direction and the speed of the step: trunc(Kp·e / 16) + trunc(Kf·d·v′ / 4096), within
-1000..+1000. -/
def valveByFormula : Prop :=
  ∀ (pm : PlanMover) (error : Int) (up : Bool) (speed : Nat), pm.valveOf error up speed =
    max (-1000) (min 1000 (truncated (pm.kp * error) 16 + truncated (pm.kf * (if up then 1 else -1) * speed) 4096))

/-- R39 to R42, R44: the rest of a control step of the mover `x` that runs the profile on the motion `mo`; the event is that of
command `c`, and `q` is the part but for the mover. -/
def profileStepActs (s : State) (c : Instr) (q : Machine.Part) (m : MoverId) (x : Mover) (pm : PlanMover) (mo : Motion)
    (judged : Bool) : Prop :=
  (∀ sent y, (pm.profile mo).settles = none → sent = (roundQ8 ((pm.profile mo).motion.setpoint.getD 0)).toNat →
    y = { x with motion := (pm.profile mo).motion, sent := sent, followRun := followAfter pm x sent, endJudged := judged } →
    (followAfter pm x sent < 8 → s.Leads c (q.setMover m { y with
      valve := pm.valveOf ((sent : Int) - x.position) y.motion.up (pm.profile mo).speed })) ∧
    (followAfter pm x sent = 8 → s.Leads c
      (restsFree q m { y with motion := endedIn .faulted (some .following) y.motion, valve := 0, endJudged := false }))) ∧
  (∀ count, (pm.profile mo).settles = some count → pm.settleLimit ≠ 0 → followAfter pm x count < 8 →
    s.Leads c (q.setMover m { x with
      motion := { (pm.profile mo).motion with
        state := .settling, reversal := false, speed := 0, target := some count, pending := none, stopLatch := false,
        floatAlarm := false, settleTimer := some pm.settleLimit },
      sent := count, followRun := followAfter pm x count, settleRun := 0, endJudged := judged,
      valve := pm.valveOf ((count : Int) - x.position) (pm.profile mo).motion.up 0 }))

/-- R42, R44, R45: the same of a mover in SETTLING, with less than eight following errors. -/
def settleStepActs (s : State) (c : Instr) (q : Machine.Part) (m : MoverId) (x : Mover) (pm : PlanMover) : Prop :=
  ∀ run y, followAfter pm x x.sent < 8 →
    run = (if ((x.sent : Int) - x.position).natAbs ≤ pm.etol then Nat.min 4 (x.settleRun + 1) else 0) →
    y = { x with followRun := followAfter pm x x.sent, settleRun := run } →
    (run < 4 → s.Leads c (q.setMover m { y with valve := pm.valveOf ((x.sent : Int) - x.position) x.motion.up 0 })) ∧
    (run = 4 → s.Leads c (restsFree q m (idleAt (pm.clampPos x.position) y)))

/-- R38: what a whole valid reply does to a mover that is no end of a pair. -/
def moverReplyActs : Prop :=
  ∀ (s : State) (m : MoverId) (released : Bool) (bytes : List Byte) (r : MoverReply) (q : Machine.Part) (x : Mover)
    (pm : PlanMover), s.Answers (moverStation m) released bytes → r = moverReplyOf bytes → actsAlone s.part m →
    q = s.part.moverHeard m (byteAt bytes 1) r → x = q.mover m → pm = s.part.planMover m →
    (x.motion.state = .faulted ∨ (x.motion.state = .localMode ∧ r.localMode = true) → s.Leads (.reply bytes) q) ∧
    (x.motion.state ≠ .faulted → x.motion.state ≠ .localMode → r.localMode = true → s.Leads (.reply bytes)
      (restsFree q m { x with motion := endedIn .localMode none x.motion, valve := 0, endJudged := false })) ∧
    (x.motion.state ≠ .faulted → r.localMode = false → r.stationFault = true → s.Leads (.reply bytes)
      (restsFree q m { x with motion := endedIn .faulted (some .station) x.motion, valve := 0, endJudged := false })) ∧
    (r.localMode = false → r.stationFault = false →
      (x.motion.state = .offline ∨ x.motion.state = .localMode →
        s.Leads (.reply bytes) (restsFree q m (idleAt (pm.clampPos r.position) x))) ∧
      (x.motion.state = .idle → s.Leads (.reply bytes) (q.setMover m (idleAt (pm.clampPos r.position) x))) ∧
      (r.brakeReleased = false → x.motion.pending = none →
        (x.motion.state = .releasing ∧ x.motion.brakeTimer = none ∧ released = true) ∨
          x.motion.state = .moving ∨ x.motion.state = .stopping ∨ x.motion.state = .settling →
        s.Leads (.reply bytes)
          (restsFree q m { x with motion := endedIn .faulted (some .brake) x.motion, valve := 0, endJudged := false })) ∧
      (∀ target, x.motion.state = .releasing → x.motion.brakeTimer.isSome = true ∨ released = false → x.endJudged = false →
        x.motion.target = some target →
        if r.toeBroken = true ∧ pm.kind ≠ .panelEnd ∧ 256 * (target : Int) < x.motion.setpoint.getD 0 then
          s.Leads (.reply bytes) (restsFree q m (idleAt (pm.clampPos r.position) x))
        else s.Leads (.reply bytes) (q.setMover m { x with valve := 0 })) ∧
      (∀ mo judged, goesOnWith x r released (pm.kind == .panelEnd) mo →
        judged = (x.endJudged || (x.motion.state == .releasing)) → profileStepActs s (.reply bytes) q m x pm mo judged) ∧
      (x.motion.state = .settling → r.brakeReleased = true → settleStepActs s (.reply bytes) q m x pm) ∧
      (x.motion.state = .floating → x.motion.brakeJudged = true → r.brakeReleased = true →
        s.Leads (.reply bytes) (q.setMover m { x with valve := 0, motion := { x.motion with
          floatAlarm := decide (r.position < pm.floatMin ∨ pm.floatMax < r.position) } })))

/-- The part once the exchange of station `st` has completed as a miss (R175): the state and the count of Table 9-4 with the
station's miss limit; an entry to LOST is counted and named. -/
def stationMissed (st : StationId) (limit : Nat) (p : Machine.Part) : Machine.Part :=
  let y := p.station st
  let loses := decide (y.state ≠ .lost ∧ limit ≤ y.misses + 1)
  Part.setStation st
    { y with state := if y.state = .lost ∨ loses = true then .lost else if y.state = .unknown then .unknown else .missing,
             misses := if y.state = .lost ∨ loses = true then limit else y.misses + 1 }
    { p with field := { p.field with
        exchange := none, lastLost := if loses then some st else p.field.lastLost,
        lossCount := if loses then p.field.lossCount + 1 else p.field.lossCount } }

/-- R38, R52, R175, R176: what a miss does to a mover that is no end of a pair and keeps no reply for a step. Entry to LOST, at
the third miss, takes it to FAULTED with cause LINK, but a FAULTED one stays as it is; of a LOST station nothing reaches it. Any
other miss is a control step with the position of the station's last reply: IDLE follows that position, the profile runs in
MOVING and STOPPING and the tests in SETTLING; the brake, the toe beam and the float range are not judged. -/
def moverMissActs : Prop :=
  ∀ (s : State) (m : MoverId) (released : Bool) (q : Machine.Part) (y : Station) (x : Mover) (pm : PlanMover), s.Quiet →
    s.part.field.exchange = some { station := moverStation m, released := released, discard := false } →
    actsAlone s.part m → (s.part.mover m).step = none → q = stationMissed (moverStation m) 3 s.part →
    y = s.part.station (moverStation m) → pm = s.part.planMover m →
    (y.state = .lost → s.Leads .replyWindowClose q) ∧
    (y.state ≠ .lost → 3 ≤ y.misses + 1 → x = s.part.mover m →
      (x.motion.state = .faulted → s.Leads .replyWindowClose q) ∧
      (x.motion.state ≠ .faulted → s.Leads .replyWindowClose
        (restsFree q m { x with motion := endedIn .faulted (some .link) x.motion, valve := 0, endJudged := false }))) ∧
    (y.state ≠ .lost → y.misses + 1 < 3 → x = { s.part.mover m with position := y.position } →
      (x.motion.state = .faulted ∨ x.motion.state = .localMode ∨ x.motion.state = .offline →
        s.Leads .replyWindowClose (q.setMover m x)) ∧
      (x.motion.state = .idle → s.Leads .replyWindowClose (q.setMover m (idleAt (pm.clampPos x.position) x))) ∧
      (x.motion.state = .floating ∧ (x.motion.brakeJudged = true ∨ x.endJudged = false) ∨
          x.motion.state = .releasing ∧ x.endJudged = false →
        s.Leads .replyWindowClose (q.setMover m { x with valve := 0 })) ∧
      (x.motion.state = .moving ∧ x.motion.pending = none ∨ x.motion.state = .stopping →
        profileStepActs s .replyWindowClose q m x pm x.motion x.endJudged) ∧
      (x.motion.state = .settling → settleStepActs s .replyWindowClose q m x pm))

/-- R46: of a pair, the end polled first in a cycle only stores its reply for the step that the other end's brings. -/
def pairWaitsForBothEnds : Prop :=
  ∀ (s : State) (m e : MoverId) (released : Bool) (bytes : List Byte) (r : MoverReply),
    s.Answers (moverStation m) released bytes → r = moverReplyOf bytes → s.part.partner m = some e →
    moverStation e ∈ s.part.field.due →
    ∃ t, exec (.reply bytes) s = .next t ∧
      s.Ran t (Part.setMover m { s.part.mover m with step := some { reply := some r, released := released } }
        (Part.stationHeard (moverStation m) (byteAt bytes 1) r.position s.part))

/-- The cases of R40: the new speed from the speed `v` and the speed limit `vlim`, and the phase. -/
def speedByCases : Prop :=
  ∀ (pm : PlanMover) (brakes : Bool) (phase : Phase) (v vlim : Nat),
    (brakes = true → pm.newSpeed brakes phase v vlim = (v - pm.accel, phase)) ∧
    (brakes = false → phase = .decel → pm.newSpeed brakes phase v vlim = (max (v - pm.accel) pm.vc, .decel)) ∧
    (brakes = false → phase ≠ .decel → vlim < v →
      pm.newSpeed brakes phase v vlim = (max (v - pm.accel) vlim, .cruise)) ∧
    (brakes = false → phase ≠ .decel → v < vlim → pm.newSpeed brakes phase v vlim =
      (min (v + pm.accel) vlim, if min (v + pm.accel) vlim = vlim then .cruise else .accel)) ∧
    (brakes = false → phase ≠ .decel → v = vlim → pm.newSpeed brakes phase v vlim = (v, .cruise)) ∧
    (pm.vc ≤ pm.vapp → pm.vapp ≤ pm.vmax → v ≤ pm.vmax → ∀ (share : Nat) (up : Bool) (s : Int), share ≤ 100 →
      pm.vlim share up s ≤ pm.vmax ∧ (pm.newSpeed brakes phase v (pm.vlim share up s)).1 ≤ pm.vmax)

/-- The motion after `i` runs of the profile. -/
def afterRuns (pm : PlanMover) : Nat → Motion → Motion
  | 0, mo => mo
  | i + 1, mo => (pm.profile (afterRuns pm i mo)).motion

/-- R40: with a creep floor, a mover on its way settles at its target within as many steps as there are Q8 units to go; a plan that
is adopted keeps the floor at most Vmax. -/
def targetIsReached : Prop :=
  (∀ (pm : PlanMover) (mo : Motion) (s : Int) (t : Nat), 1 ≤ pm.vc → pm.vc ≤ pm.vapp → pm.vapp ≤ pm.vmax → 1 ≤ pm.accel →
    mo.state = .moving → mo.stopLatch = false → mo.reversal = false → mo.target = some t → pm.lower ≤ t → t ≤ pm.upper →
    mo.setpoint = some s → 256 * (pm.lower : Int) ≤ s → s ≤ 256 * (pm.upper : Int) → mo.up = decide (s < 256 * (t : Int)) →
    ∃ i, i ≤ (256 * (t : Int) - s).natAbs ∧ (pm.profile (afterRuns pm i mo)).settles = some t) ∧
  ∀ (a : Area) (m : MoverId), a.bit (448 + 128 * m.val) = true →
    1 ≤ (a.planMover m).vc ∧ (a.planMover m).vc ≤ (a.planMover m).vapp ∧ (a.planMover m).vapp ≤ (a.planMover m).vmax

/-- R39: the speed limit: Vshare, and no more than Vapp within the approach distance of the limit that the setpoint moves toward. -/
def limitByApproach : Prop :=
  ∀ (pm : PlanMover) (share vshare : Nat) (up near : Bool) (s : Int), vshare = max pm.vc (pm.vmax * share / 100) →
    (near = true ↔ (up = true ∧ 256 * (pm.upper : Int) - s ≤ 256 * (pm.dapp : Int)) ∨
      (up = false ∧ s - 256 * (pm.lower : Int) ≤ 256 * (pm.dapp : Int))) →
    pm.vlim share up s = (if near then min vshare pm.vapp else vshare)

/-- R39: a mover on its way to its target enters DECEL in the step in which the remaining distance is at most the braking distance
with the speed, and stays in it; farther off, and in STOPPING, the phase is not changed by that test. -/
def decelByDistance : Prop :=
  (∀ (pm : PlanMover) (mo : Motion) (s : Int) (t : Nat), mo.state = .moving → mo.stopLatch = false → mo.reversal = false →
    mo.target = some t → pm.lower ≤ t → t ≤ pm.upper → mo.setpoint = some s → 256 * (pm.lower : Int) ≤ s →
    s ≤ 256 * (pm.upper : Int) → mo.up = decide (s < 256 * (t : Int)) →
    (mo.phase = .decel ∨ (256 * (t : Int) - s).natAbs ≤ mo.speed * mo.speed / (2 * pm.accel) + mo.speed →
      (pm.profile mo).motion.phase = .decel ∧ (pm.profile mo).speed = max (mo.speed - pm.accel) pm.vc) ∧
    (mo.phase ≠ .decel → mo.speed * mo.speed / (2 * pm.accel) + mo.speed < (256 * (t : Int) - s).natAbs →
      ((pm.profile mo).speed, (pm.profile mo).motion.phase) =
        pm.newSpeed false mo.phase mo.speed (pm.vlim mo.share mo.up s))) ∧
  ∀ (pm : PlanMover) (mo : Motion), mo.state = .stopping → (pm.profile mo).motion.phase = mo.phase

/-- R39: the speed limit by the approach distance, and the entry to DECEL by the braking distance. R40: the new speed and
phase by the first case that applies: STOPPING or a reversal pending, phase DECEL, a speed above, below or at the speed limit;
the speed limit and the new speed are at most Vmax, and so is the creep floor of an adopted plan, with which a mover reaches
its target in a bounded number of steps. What follows from it in a run of the profile: from a setpoint inside the limits, the
setpoint stays inside and the speed at most Vmax. Moving toward its target the mover reaches it and settles exactly where the
step's speed covers the remaining distance. Stopping, its speed falls by A at least, and it settles at the rounded setpoint
exactly when the speed is 0. A step that finds the stop latch takes it: no target, no reversal. A held step keeps the
setpoint, and its speed is 0. -/
def Obligations.ProfileKeepsItsBounds : Prop :=
  limitByApproach ∧ decelByDistance ∧ speedByCases ∧ targetIsReached ∧ profileInBounds

/-! ### Expiries (R6, R32, R45, R64, R67, R78, R93, R103 to R105, R144, R155) -/

/-- What becomes of a mover of a zone that leaves LOADING (R15, R35): a MOVING one stops. -/
def stopMovers (ms : List MoverId) (p : Part) : Part :=
  forEach ms (fun m q =>
    if (q.motion m).state = .moving then
      setMotion m { q.motion m with state := .stopping, stopLatch := true, pending := none } q
    else q) p

/-- The lane of a HALT group of one level, with no current record, after its nest has aborted at rest (R164, R167): it goes on
by the group's fallback link, or stops where that is null. -/
def haltAborted (c : LaneContext) (top : Level) : LaneContext :=
  if top.record.alternate = 0 then { c.retiredAt top.record.link with nest := [] }.stopped .groupAborted
  else LaneContext.follows
    { c.retiredAt top.record.link with
      nest := [], abort := none, returnAnchor := if top.inDetour then c.returnAnchor else none } top.record.alternate

/-- The entry of a call that zone `k` hands over (R10, R90). -/
def zoneCallEntry (k : ZoneId) (pr : Priority) (message : Byte) (lines : Half) (repeats chime id : Nat) : CallEntry :=
  { id := id, origin := .zone k, priority := pr, message := message, lines := lines, repeats := repeats, repeatsDone := 0,
    continues := false, chime := chime, state := .queued, interrupted := false, chimePending := true, cutReason := none,
    degraded := false, waiting := [], chimeLeft := none, chimeOnly := false, playSent := false }

/-- R6, R9, R12: at the confirm timer's expiry the zone enters FIRE: level FIRE, FIRE latched, the timer stopped, the FIRE
time taken; the FIRE demands follow. SECURE, without auto-shut, a fire message and a claimed actuator, that is all. R15:
from LOADING the zone returns to SECURE and its MOVING movers stop. R14, R19: with auto-shut it enters SHUTTING: with every
door CLOSED and no mover to stop it is SHUT in the event; an OPEN door of it takes the ZONE origin and enters WARNING with
the fire lead. R10, R90: its fire message is handed over as an EMERGENCY call to the zone's line and the muster lines: it
joins the EMERGENCY list behind an active EMERGENCY call, and a message of no length sets the call lost flag. R13: the nest
of a lane that claims a door of the zone aborts with the cause ZONE: a HALT group at rest ends in the event. That the
sequence which the zone begins counts no retry is the model's choice (log entry 34). Log entries 6, 34 and 48. -/
def Obligations.ConfirmExpiryEntersFire : Prop :=
  ∀ (s : State) (k : ZoneId) (z : Zone) (q : Machine.Part), s.Quiet → (s.part.zone k).confirmTimer = some 0 →
    z = { s.part.zone k with level := .fire, fireLatched := true, confirmTimer := none, fireTime := s.part.time.clock.seconds } →
    q = syncFire (s.part.setZone k z) →
    (∀ l : LineId, (q.line l).fire =
      ((decide (∃ i : ZoneId, i.val = l.val ∧ ((s.part.setZone k z).zone i).level = .fire)) ||
        s.part.inForce.header.muster.getLsbD l.val)) ∧
    ((s.part.planZone k).fireMessage = 0 → (∀ n, s.part.nestEntries n = []) →
      ((s.part.planZone k).autoShut = false → z.state = .secure →
        ∃ t, exec (.confirmTimerExpiry k) s = .next t ∧ s.Ran t q) ∧
      ((s.part.planZone k).autoShut = false → z.state = .loading →
        (∀ m ∈ s.part.zoneMovers k, (s.part.mover m).motion.state = .idle ∨ ((s.part.mover m).motion.state = .moving ∧
          (s.part.mover m).motion.waiting = none ∧ (s.part.claim (s.part.entryOfMover m)).status ≠ .underWay)) →
        ∃ t, exec (.confirmTimerExpiry k) s = .next t ∧
          s.Ran t (stopMovers (s.part.zoneMovers k) (q.setZone k { z with state := .secure }))) ∧
      ((s.part.planZone k).autoShut = true → z.state = .secure ∨ z.state = .loading → (s.part.planZone k).shutMessage = 0 →
        (∀ m ∈ s.part.zoneMovers k, (s.part.mover m).motion.state = .idle) →
        (z.notClosed = 0 → (∀ d ∈ s.part.zoneDoors k, (s.part.door d).state = .closed) →
          (∀ l, (s.part.lane l).state ≠ .waiting) →
          ∃ t, exec (.confirmTimerExpiry k) s = .next t ∧ s.Ran t (q.setZone k { z with state := .shut })) ∧
        (∀ d, s.part.zoneDoors k = [d] → z.notClosed ≠ 0 → (s.part.door d).state = .opened →
          (s.part.planDoor d).fireLead ≠ 0 →
          ∃ t, exec (.confirmTimerExpiry k) s = .next t ∧
            s.Ran t (syncWarn d ((q.setZone k { z with state := .shutting }).setDoor d { s.part.door d with
              state := .warning, zoneOrigin := true, retries := 0, leadCounter := 0, motionTimer := none, retryTimer := none,
              lead := (s.part.planDoor d).fireLead }))))) ∧
    ((s.part.planZone k).autoShut = false → z.state = .secure →
      (∀ (message : Byte) (lines : Half) (c : CallStore), message = (s.part.planZone k).fireMessage → message ≠ 0 →
        (∀ n, s.part.nestEntries n = []) → lines = (1#16 <<< k.val) ||| s.part.inForce.header.muster →
        c = s.part.calls →
        (s.part.messageLength message = 0 →
          ∃ t, exec (.confirmTimerExpiry k) s = .next t ∧ s.Ran t (q.setZone k { z with callLost := true })) ∧
        (∀ active, s.part.messageLength message ≠ 0 → c.active = some active → active.priority = .emergency →
          c.queued < 16 → (∀ e ∈ c.emergency, e.message ≠ message ∨ e.lines ≠ lines) → (∀ e ∈ c.entries, e.id ≠ c.nextId) →
          ∃ t, exec (.confirmTimerExpiry k) s = .next t ∧ s.Ran t { q with calls := { c with
            emergency := c.emergency ++ [zoneCallEntry k .emergency message lines s.part.inForce.header.fireRepeats
              s.part.inForce.header.fireChime c.nextId],
            nextId := if c.nextId = 255 then 1 else c.nextId + 1 } })) ∧
      (∀ (n : Lane) (top : Level) (l : Half) (d : DoorId), (s.part.planZone k).fireMessage = 0 →
        (s.part.lane n).state = .resting ∨ (s.part.lane n).state = .working → (s.part.lane n).current = none →
        (s.part.lane n).waitKind = none → (s.part.lane n).nest = [top] → (s.part.lane n).anchor = .record l →
        top.returns = false → linkValid top.record.link = true → top.record.clamped = false →
        k ∈ s.part.doorZones d → (s.part.claim (doorEntry d)).inNest n = true →
        (∀ e, (s.part.claim e).inNest n = true → s.part.steady e = true ∧ (s.part.claim e).status ≠ .pending) →
        (∀ i, i ≠ n → s.part.nestEntries i = []) → s.part.waiters = [] → s.part.Unwaited n →
        ∃ t, exec (.confirmTimerExpiry k) s = .next t ∧
          s.Retires t n top.record.link
            (if top.record.standing then readByte s.mem (slotBase top.record.link) else ownerRetired)
            (Result.of .aborted 1 1 (l.setWidth 32))
            (Part.setLane n (haltAborted (s.part.lane n) top)
              { q with claims := mapAll (fun c => if c.inNest n then Claim.free else c) s.part.claims })))

/-- R32, R45, R154: the brake timer's expiry only lets the brake be judged. The settle timer's expiry ends the motion of a
SETTLING mover with no waiting record, held by a lane's implicit claim while no lane waits for a claim: IDLE, with the
setpoint at its clamped measured position, and the claim is given back. R38, R27, R28, R32, R37, R42, R44, R45, R50 to R52: a
whole valid reply at a mover that is no end of a pair runs its control step: the reply is stored; local mode, then a station
fault, ends any motion; OFFLINE and LOCAL become IDLE, IDLE follows the position; an engaged brake faults the mover; a broken
toe beam stops a downward motion; in MOVING and STOPPING the profile runs; the eighth following error faults, the fourth step
in tolerance ends a settling; the valve command follows by its formula. R46: the first end of a pair waits for the other.
R175, R176: a miss runs it too, with the position of the station's last reply; the third miss, which loses the station, faults
the mover with cause LINK, and of a LOST station nothing reaches it. That entry to LOCAL and FAULTED clears the reversal and
the brake judged marks is the model's choice (log entry 37). Log entries 6, 15 to 17, 22 and 37. -/
def Obligations.MoverTimersExpire : Prop :=
  valveByFormula ∧ moverReplyActs ∧ moverMissActs ∧ pairWaitsForBothEnds ∧ ∀ (s : State) (m : MoverId), s.Quiet →
    ((s.part.mover m).motion.brakeTimer = some 0 →
      ∃ t, exec (.brakeTimerExpiry m) s = .next t ∧
        s.Ran t (setMotion m { (s.part.mover m).motion with brakeTimer := none } s.part)) ∧
    (∀ h : Lane, (s.part.mover m).motion.settleTimer = some 0 → (s.part.mover m).motion.state = .settling →
      (s.part.mover m).motion.waiting = none → s.part.claim (s.part.entryOfMover m) = implicitOf h →
      s.part.waiters = [] →
      ∃ t, exec (.settleTimerExpiry m) s = .next t ∧
        s.Ran t ((setMotion m { (s.part.mover m).motion with
            state := .idle, cause := none, reversal := false, setpoint := some (256 * (s.part.restCount m : Int)),
            speed := 0, target := none, pending := none, stopLatch := false, floatAlarm := false, brakeJudged := false,
            brakeTimer := none, settleTimer := none }
          (mapEnds m (fun x => { x with
            sent := s.part.restCount m, valve := 0, followRun := 0, settleRun := 0, endJudged := false })
            s.part)).setClaim (s.part.entryOfMover m) Claim.free))

/-- Door `d` has the record `x`, its lines warn by it, and the zones that count it count it as `x` stands (R3, R63). -/
def doorMoved (p : Part) (d : DoorId) (x : Door) (q : Part) : Part :=
  forEach ((p.doorZones d).filter (fun k => (p.planZone k).enabled)) (fun k r => r.setZone k { r.zone k with
      notClosed :=
        if x.state = .closed ∧ (p.door d).state ≠ .closed then (r.zone k).notClosed - 1
        else if x.state ≠ .closed ∧ (p.door d).state = .closed then (r.zone k).notClosed + 1 else (r.zone k).notClosed })
    (syncWarn d (q.setDoor d x))

/-- Door record `x` at rest in a state: no origin of a lane, no forced flag, no duration running (R61, Table 3-1). -/
def doorRests (state : DoorState) (cause : Option DoorCause) (x : Door) : Door :=
  { x with state := state, laneOrigin := false, forced := false, leadCounter := 0, motionTimer := none, retryTimer := none,
           cause := cause }

/-- Door record `x` in CLOSED (R68). -/
def doorShuts (x : Door) : Door := { doorRests .closed none x with zoneOrigin := false, retries := 0 }

/-- R60: what a whole valid reply does to a door with no waiting record and no claim, whose zones are SECURE or LOADING. -/
def doorReplyActs : Prop :=
  ∀ (s : State) (d : DoorId) (released : Bool) (bytes : List Byte) (r : DoorReply) (x y : Door) (q : Machine.Part),
    s.Answers (doorStation d) released bytes → r = doorReplyOf bytes → x = s.part.door d →
    y = { x with link := .online, last := r } → q = s.part.stationHeard (doorStation d) (byteAt bytes 1) 0 →
    x.waiting = none → (s.part.claim (doorEntry d)).holder = none →
    (∀ k ∈ s.part.doorZones d, (s.part.zone k).state = .secure ∨ (s.part.zone k).state = .loading) →
    (x.state = .faulted ∨ (x.state = .localMode ∧ r.localMode = true) → s.Leads (.reply bytes) (q.setDoor d y)) ∧
    (x.state ≠ .faulted → x.state ≠ .localMode → r.localMode = true →
      s.Leads (.reply bytes) (doorMoved s.part d (doorRests .localMode none y) q)) ∧
    (∀ cause, x.state ≠ .faulted → r.localMode = false →
      (r.motorFault = true ∧ cause = .motor) ∨
        (r.motorFault = false ∧ r.openLimit = true ∧ r.closedLimit = true ∧ cause = .limits) →
      s.Leads (.reply bytes) (doorMoved s.part d (doorRests .faulted (some cause) y) q)) ∧
    (r.localMode = false → r.motorFault = false → r.openLimit = false ∨ r.closedLimit = false →
      (r.closedLimit = true → x.state ≠ .faulted → x.state ≠ .closed → x.state ≠ .reversing → x.state ≠ .opening →
        s.Leads (.reply bytes) (doorMoved s.part d (doorShuts y) q)) ∧
      (r.closedLimit = true → x.state = .closed → s.Leads (.reply bytes) (q.setDoor d y)) ∧
      (r.closedLimit = false → x.state = .closed →
        s.Leads (.reply bytes) (doorMoved s.part d { y with state := .halted, laneOrigin := false } q)) ∧
      (r.closedLimit = false → x.state = .closing →
        (r.edge = true → x.forced = true →
          s.Leads (.reply bytes) (doorMoved s.part d (doorRests .faulted (some .edge) y) q)) ∧
        (x.forced = false → r.edge = true ∨ r.beamBroken = true →
          s.Leads (.reply bytes) (doorMoved s.part d { y with
            state := .reversing, retries := Nat.min 8 (x.retries + 1),
            motionTimer := some (s.part.planDoor d).motionLimit } q)) ∧
        (r.edge = false → x.forced = true ∨ r.beamBroken = false → s.Leads (.reply bytes) (q.setDoor d y))) ∧
      (x.state = .reversing →
        (r.openLimit = false → s.Leads (.reply bytes) (q.setDoor d y)) ∧
        (r.openLimit = true → (s.part.planDoor d).retryDelay ≠ 0 →
          s.Leads (.reply bytes) (doorMoved s.part d { y with
            state := .retryWait, motionTimer := none, retryTimer := some (s.part.planDoor d).retryDelay } q))) ∧
      (x.state = .opening →
        (r.openLimit = false → s.Leads (.reply bytes) (q.setDoor d y)) ∧
        (r.openLimit = true →
          s.Leads (.reply bytes) (doorMoved s.part d { doorRests .opened x.cause y with retries := 0 } q))) ∧
      (∀ goal, r.closedLimit = false → goal = (if r.openLimit then DoorState.opened else .halted) →
        (x.state = goal → s.Leads (.reply bytes) (q.setDoor d y)) ∧
        ((x.state = .opened ∨ x.state = .halted) ∧ x.state ≠ goal →
          s.Leads (.reply bytes) (doorMoved s.part d { y with state := goal, laneOrigin := false } q)) ∧
        ((x.state = .offline ∨ x.state = .localMode) ∧ x.zoneOrigin = false →
          s.Leads (.reply bytes) (doorMoved s.part d { y with state := goal, laneOrigin := false, cause := none } q))) ∧
      (r.closedLimit = false →
        x.state = .blocked ∨ x.state = .warning ∨ x.state = .waitClear ∨ x.state = .retryWait →
        s.Leads (.reply bytes) (q.setDoor d y)))

/-- R78, R175, R176: what a miss does to a door with no waiting record and no claim, whose zones are SECURE or LOADING. Entry to
LOST, at the second miss, takes it to FAULTED with cause LINK, but a FAULTED one keeps its state and its cause; of a LOST station
nothing reaches it. Any other miss changes its copy of the link condition alone. -/
def doorMissActs : Prop :=
  ∀ (s : State) (d : DoorId) (released : Bool) (q : Machine.Part) (y : Station) (x : Door), s.Quiet →
    s.part.field.exchange = some { station := doorStation d, released := released, discard := false } →
    q = stationMissed (doorStation d) 2 s.part → y = s.part.station (doorStation d) → x = s.part.door d →
    x.waiting = none → (s.part.claim (doorEntry d)).holder = none →
    (∀ k ∈ s.part.doorZones d, (s.part.zone k).state = .secure ∨ (s.part.zone k).state = .loading) →
    (y.state = .lost → x.link = .lost → s.Leads .replyWindowClose q) ∧
    (y.state ≠ .lost → y.misses + 1 < 2 → s.Leads .replyWindowClose
      (q.setDoor d { x with link := if y.state = .unknown then .unknown else .missing })) ∧
    (y.state ≠ .lost → 2 ≤ y.misses + 1 →
      (x.state = .faulted → s.Leads .replyWindowClose (q.setDoor d { x with link := .lost })) ∧
      (x.state ≠ .faulted → s.Leads .replyWindowClose
        (doorMoved s.part d (doorRests .faulted (some .link) { x with link := .lost }) q)))

/-- R64, R78, R67: when the lead is reached a door in WARNING enters CLOSING with its motion timer started where no mover of
its zones is RELEASING, MOVING or STOPPING, and WAIT_CLEAR otherwise. The motion timer's expiry in CLOSING faults the door
with cause CLOSE_TIME; the retry delay's expiry begins a new WARNING with a fresh lead where the plan leaves a retry, with
no waiting record and no claim on the door. R60, R65 to R70, R77, R80: a whole valid reply of such a door's station, with
its zones SECURE or LOADING, is kept, and acts by the door's state: local mode, then the motor fault or both limits, end any
state but FAULTED; the closed limit closes the door but in REVERSING and OPENING; in CLOSING edge contact faults a forced
door and edge contact or a broken beam reverses any other; the open limit ends REVERSING in RETRY_WAIT and OPENING in OPEN;
OPEN, HALTED, LOCAL and OFFLINE follow the limits, and a CLOSED door that loses its limit is HALTED. The zones' counts of
doors not closed follow. R175, R176: a miss changes the door's link condition alone; the second, which loses the station,
faults the door with cause LINK. Log entry 6. -/
def Obligations.DoorTimersExpire : Prop :=
  doorReplyActs ∧ doorMissActs ∧
  (∀ (s : State) (d : DoorId), s.Quiet → (s.part.door d).state = .warning →
     (s.part.door d).lead ≤ (s.part.door d).leadCounter →
     ∃ t, exec (.leadExpiry d) s = .next t ∧
       s.Ran t (syncWarn d (s.part.setDoor d
         (if (∀ k ∈ s.part.doorZones d, ∀ m ∈ s.part.zoneMovers k, (s.part.mover m).motion.state ≠ .releasing ∧
               (s.part.mover m).motion.state ≠ .moving ∧ (s.part.mover m).motion.state ≠ .stopping) then
           { s.part.door d with state := .closing, motionTimer := some (s.part.planDoor d).motionLimit }
          else { s.part.door d with state := .waitClear })))) ∧
  (∀ (s : State) (d : DoorId), s.Quiet → (s.part.door d).waiting = none → (s.part.claim (doorEntry d)).holder = none →
     ((s.part.door d).motionTimer = some 0 → (s.part.door d).state = .closing →
       ∃ t, exec (.motionTimerExpiry d) s = .next t ∧
         s.Ran t (syncWarn d (s.part.setDoor d { s.part.door d with
           state := .faulted, cause := some .closeTime, laneOrigin := false, forced := false, leadCounter := 0,
           motionTimer := none, retryTimer := none }))) ∧
     ((s.part.door d).retryTimer = some 0 → (s.part.door d).state = .retryWait →
       (s.part.door d).retries ≤ (s.part.planDoor d).retries → s.part.chosenLead d (s.part.door d) ≠ 0 →
       ∃ t, exec (.retryDelayExpiry d) s = .next t ∧
         s.Ran t (syncWarn d (s.part.setDoor d { s.part.door d with
           state := .warning, leadCounter := 0, motionTimer := none, retryTimer := none,
           lead := s.part.chosenLead d (s.part.door d) }))))

/-- R93, R94, R105: when a chime has been counted the CHIME demand is withdrawn and, with the player READY, the
message's PLAY is sent and the link waits 100 centiseconds for STARTED. The end of a chime-only repeat counts it and
sets DEGRADED; with the link still in FAULT and repeats left the next one is served chime-only, with the call's
pattern or the plan's default, and the last repeat ends the call (R95). Log entry 6. -/
def Obligations.ChimeEndsAreCounted : Prop :=
  (∀ (s : State) (e : CallEntry), s.Quiet → s.part.calls.active = some e → e.state = .chime → e.chimeLeft = some 0 →
     e.chimeOnly = false → s.part.player.state = .ready → s.part.messageLength e.message ≠ 0 →
     ∃ t, exec .chimeEnd s = .next t ∧ s.Ran t { s.part with
       lines := (forEach (linesOf e.lines) withdrawChime s.part).lines,
       calls := { s.part.calls with active := some { e with
         state := .playing, chimePending := false, chimeLeft := none, chimeOnly := false, playSent := true } },
       player := { s.part.player with
         state := .playing, message := e.message, startedSeen := false, length := s.part.messageLength e.message,
         replyTimer := some (.started, 100), sentFrame := playFrame e.message e.lines } }) ∧
  (∀ (s : State) (e : CallEntry) (n : Nat), s.Quiet → s.part.calls.active = some e → e.state = .chime →
     e.chimeLeft = some 0 → e.chimeOnly = true → s.part.player.state = .fault → s.part.messageLength e.message ≠ 0 →
     e.repeatsDone + 1 ≠ e.repeats →
     n = (if e.chime = 0 then s.part.inForce.header.defaultChime e.priority else e.chime) →
     ∃ t, exec .chimeOnlyRepeatEnd s = .next t ∧ s.Ran t { s.part with
       lines := (forEach (linesOf e.lines) (fun k => postChime k n)
         (forEach (linesOf e.lines) withdrawChime s.part)).lines,
       calls := { s.part.calls with active := some { e with
         repeatsDone := e.repeatsDone + 1, degraded := true, interrupted := false, chimePending := false,
         chimeLeft := some ((s.part.pattern n).period * (if (s.part.pattern n).count = 0 then 1 else (s.part.pattern n).count)),
         playSent := false } } }) ∧
  (∀ (s : State) (e : CallEntry), s.Quiet → s.part.calls.entries = [e] → s.part.calls.active = some e → e.state = .chime →
     e.chimeLeft = some 0 → e.chimeOnly = true → e.repeatsDone + 1 = e.repeats → e.waiting = [] →
     s.Leads .chimeOnlyRepeatEnd { s.part with
       lines := (forEach (linesOf e.lines) withdrawChime s.part).lines,
       calls := { s.part.calls with active := none, lastEnded := s.part.calls.ended e.id } })

/-- The part of `s` with the announcement link in FAULT for `cause` (R104). -/
def linkFaulted (p : Machine.Part) (cause : PlayerCause) : Machine.Part :=
  { p with player := { p.player with
      state := .fault, cause := cause, faultCount := p.player.faultCount + 1, replyTimer := none, probeTimer := some 500,
      message := 0, startedSeen := false } }

/-- R103, R104: an expired reply timer takes the link to FAULT with its kind as the cause, counts the fault and starts
the probe timer of 500 centiseconds; an expired probe timer in FAULT sends STATUS and starts again. R106, R105: the fault has
an active call in PLAYING, with a PLAY outstanding or waiting for the link, serve its repeat chime-only in the same event, and
leaves a call in CHIME as it is. Log entry 6. -/
def Obligations.PlayerTimersExpire : Prop :=
  ∀ s : State, s.Quiet →
    (∀ kind e, s.part.player.replyTimer = some (kind, 0) → s.part.calls.active = some e →
      (e.state = .chime → s.Leads .replyTimerExpiry (linkFaulted s.part (.timeout kind))) ∧
      (∀ q, e.state = .playing → (linkFaulted s.part (.timeout kind)).chimesOnly e q →
        s.Leads .replyTimerExpiry q)) ∧
    (∀ kind, s.part.player.replyTimer = some (kind, 0) → s.part.calls.active = none →
      ∃ t, exec .replyTimerExpiry s = .next t ∧ s.Ran t { s.part with player := { s.part.player with
        state := .fault, cause := .timeout kind, faultCount := s.part.player.faultCount + 1, replyTimer := none,
        probeTimer := some 500, message := 0, startedSeen := false } }) ∧
    (s.part.player.state = .fault → s.part.player.probeTimer = some 0 →
      ∃ t, exec .probeTimerExpiry s = .next t ∧ s.Ran t { s.part with player := { s.part.player with
        probeTimer := some 500, sentFrame := [0x33, 0, 0, 0, 0xCD] } })

/-- The claim wait of an order of R154: an order of lane `n`, of no open group, that needs an entry which lane `h` holds. -/
def claimWaitBegins : Prop :=
  ∀ (s : State) (c : Instr) (n h : Lane) (link : Half) (head : OrderHead) (k : OrderKind) (b : Byte) (rest : List Byte)
    (e : EntryId), s.TakesOrder n link head → orderOf c = some (n, head, k, b :: rest) → s.part.plan.isSome = true →
    s.part.badField (orderImage head k (b :: rest)) = none → (k = .forceClose → (s.part.lane n).bridge = true) →
    (∃ m : MoverId, b.toNat = m.val ∧ (k = .move ∨ k = .stopMover ∨ k = .floatRamp) ∧ e = s.part.entryOfMover m) ∨
      (∃ d : DoorId, b.toNat = d.val ∧ (k = .closeDoor ∨ k = .openDoor ∨ k = .forceClose) ∧ e = doorEntry d) →
    (s.part.lane n).nest = [] → (s.part.claim e).holder = some h → h ≠ n →
    (s.part.inForce.header.claimWait ≠ 0 → s.part.waiters = [] →
      ∃ t, exec c s = .next t ∧
        s.OrderWaits t n link head (orderImage head k (b :: rest)) .claim
          { s.part with waiters := [{ lane := n, need := 1#32 <<< e.val, isGroup := false, start := s.part.claimTicks,
                                      timer := s.part.inForce.header.claimWait }] }) ∧
    (s.part.inForce.header.claimWait = 0 → head.alternate ≠ 0 →
      ∃ t, exec c s = .next t ∧
        s.OrderEnds t n link head
          { Result.bare .claimTimeout with detail := some (BitVec.ofNat 16 e.val), first := some (word h.val) } s.part)

/-- R155, R141: a claim wait that runs out retires the record CLAIM_TIMEOUT, with the first conflicting entry as detail and
its holder as first value, takes the lane from the waiter list, and the lane goes on by the alternate link. R154: an order
on a mover or a door whose entry another lane holds begins such a wait where the plan gives a claim wait limit: the lane
waits, holding nothing, with that entry as its need; with a limit of 0 it ends CLAIM_TIMEOUT at once. Log entries 4, 6 and
48. -/
def Obligations.ClaimWaitExpiryEndsOrder : Prop :=
  claimWaitBegins ∧
  ∀ (s : State) (n : Lane) (held : HeldRecord) (w : Waiter) (e : EntryId) (h : Lane), s.Quiet →
    s.part.waiterOf n = some w → w.timer = 0 → (s.part.lane n).current = some held → linkValid held.link = true →
    held.clamped = false → held.alternate ≠ 0 → s.part.conflict n w.need = some e → (s.part.claim e).holder = some h →
    ∃ t, exec (.claimWaitExpiry n) s = .next t ∧
      s.Retires t n held.link (if held.standing then readByte s.mem (slotBase held.link) else ownerRetired)
        { Result.bare .claimTimeout with detail := some (BitVec.ofNat 16 e.val), first := some (word h.val) }
        (({ s.part with waiters := s.part.waiters.filter (fun x => x.lane != n) }).setLane n
          ((s.part.lane n).goesOn held.link held.alternate))

/-- R144, R146, R141: a lane that waits in a HOLD goes on when its time runs out or it is woken: with no condition DONE and
the next link at the expiry; with one EXPIRED and the alternate link; SIGNALLED and the alternate link on WAKE. A lane that
waits for a claim is woken so too: its waiter goes and its order ends SIGNALLED. The codes of mover and door states in the
second value are the model's choice (log entry 49). Log entries 6, 19, 48 and 49. -/
def Obligations.HoldEndsByTimeOrWake : Prop :=
  (∀ (s : State) (n : Lane) (held : HeldRecord), s.Quiet → (s.part.lane n).state = .waiting →
    (s.part.lane n).waitKind = some .claim → (s.part.lane n).current = some held → linkValid held.link = true →
    held.clamped = false → held.alternate ≠ 0 → s.part.Unwaited n →
    ∃ t, exec (.wake n) s = .next t ∧
      s.Retires t n held.link (if held.standing then readByte s.mem (slotBase held.link) else ownerRetired)
        (Result.bare .signalled)
        (({ s.part with waiters := s.part.waiters.filter (fun w => w.lane != n) }).setLane n
          ((s.part.lane n).goesOn held.link held.alternate))) ∧
  ∀ (s : State) (n : Lane) (held : HeldRecord), s.QuietBut (some n) → (s.part.lane n).state = .waiting →
    (s.part.lane n).waitKind = some .hold → (s.part.lane n).current = some held → linkValid held.link = true →
    held.clamped = false → held.alternate ≠ 0 →
    (∀ code next, (s.part.lane n).holdTimer = some 0 →
      (holdCondition held.bytes = 0xFF ∧ code = ResultCode.done ∧ next = held.next) ∨
        (holdCondition held.bytes ≠ 0xFF ∧ code = ResultCode.expired ∧ next = held.alternate) →
      ∃ t, exec (.holdExpiry n) s = .next t ∧
        s.Retires t n held.link (if held.standing then readByte s.mem (slotBase held.link) else ownerRetired)
          { code := code, flags := 0, detail := some ((holdCondition held.bytes).setWidth 16),
            first := some (word (s.part.lane n).holdMarks), second := s.part.holdWatched n held.bytes }
          (s.part.setLane n ((s.part.lane n).goesOn held.link next))) ∧
    (∃ t, exec (.wake n) s = .next t ∧
      s.Retires t n held.link (if held.standing then readByte s.mem (slotBase held.link) else ownerRetired)
        { code := .signalled, flags := 0, detail := some ((holdCondition held.bytes).setWidth 16),
          first := some (word (s.part.lane n).holdMarks), second := s.part.holdWatched n held.bytes }
        (s.part.setLane n ((s.part.lane n).goesOn held.link held.alternate)))

/-! ### The field link (R171 to R176) -/

/-- R172, R174: with no exchange under way the next due station is polled: the exchange begins, the station is no longer
due, and the frame is its poll from its owner's state. A mover's carries the brake, released in RELEASING, MOVING, STOPPING,
SETTLING and FLOATING, the station mode, the valve command and the setpoint sent; a door's the command of its state and the
sounder, on in the closing sequence; a zone's no command. Log entry 6. -/
def Obligations.PollBeginsExchange : Prop :=
  ∀ (s : State) (st : StationId) (rest : List StationId), s.Quiet → s.part.field.exchange = none →
    s.part.field.due = st :: rest →
    ∃ t, exec .poll s = .next t ∧ s.Ran t { s.part with field := { s.part.field with
        due := rest,
        exchange := some { station := st, discard := false,
                           released := (match ownerOf st with
                             | .mover m => (s.part.mover m).motion.state.brakeReleased
                             | .door _ | .zone _ => false) },
        sentFrame := s.part.pollFrame st } } ∧
      (∀ (m : MoverId) (brake mode : Byte), st = moverStation m →
        brake = (if (s.part.mover m).motion.state ∈ [.releasing, .moving, .stopping, .settling, .floating] then 1 else 0) →
        mode = (if (s.part.mover m).motion.state = .floating then 2 else 0) →
        s.part.pollFrame st = sealFrame ([BitVec.ofNat 8 st.val, brake ||| mode] ++
          halfBytes (BitVec.ofInt 16 (s.part.mover m).valve) ++ halfBytes (BitVec.ofNat 16 (s.part.mover m).sent))) ∧
      (∀ (d : DoorId) (command sounder : Byte), st = doorStation d →
        command = (match (s.part.door d).state with
          | .closing => if (s.part.door d).forced then 2 else 1
          | .reversing | .opening => 3
          | .halted | .faulted => 4
          | .offline | .opened | .warning | .waitClear | .closed | .retryWait | .blocked | .localMode => 0) →
        sounder = (if (s.part.door d).state ∈ [.warning, .waitClear, .closing, .reversing, .retryWait] then 1 else 0) →
        s.part.pollFrame st = sealFrame [BitVec.ofNat 8 st.val, command, sounder]) ∧
      ∀ k : ZoneId, st = zoneStation k → s.part.pollFrame st = sealFrame [BitVec.ofNat 8 st.val, 0]

/-- R172, R173, R175, R176: a whole valid reply of a zone's station completes the exchange: the station is ONLINE with its
misses at 0, and the zone takes the loop status and the call point. R5 to R9: below FIRE and with detection enabled, NORMAL
makes the level NONE and LOOP_FAULT makes it FAULT, both stopping the confirm timer; ONE takes NONE and FAULT to PRE and
starts the timer, and leaves PRE alone; TWO, or the call point with detection enabled or disabled, takes a SECURE zone of no
auto-shut, fire message and claimed actuator to FIRE. In FIRE nothing else changes, nor with detection disabled, but that a
recovery of a LOST station takes FAULT to NONE (R11). Fewer bytes than a whole frame change nothing; a whole reply that is not
valid is a miss, as the window's close is: a zone's ONLINE station at 0 misses becomes MISSING with 1; at the second miss it
is LOST, the loss is counted and named, and a zone that has not latched FIRE goes to level FAULT. -/
def Obligations.ZoneExchangeEnds : Prop :=
  (∀ (s : State) (k : ZoneId) (released : Bool) (bytes : List Byte) (b : Byte) (loop : LoopStatus) (z : Zone)
     (q : Machine.Part), s.Answers (zoneStation k) released bytes → b = byteAt bytes 1 &&& 7 →
     ((b = 0 ∨ b = 4) ∧ loop = .normal) ∨ ((b = 1 ∨ b = 5) ∧ loop = .one) ∨ ((b = 2 ∨ b = 6) ∧ loop = .two) ∨
       ((b = 3 ∨ b = 7) ∧ loop = .loopFault) →
     z = { s.part.zone k with loop := some loop, callPoint := decide (4 ≤ b.toNat), link := .online } →
     q = s.part.stationHeard (zoneStation k) (byteAt bytes 1) 0 →
     (z.level = .fire ∨ (z.callPoint = false ∧ z.detectionDisabled = true ∧
         ((s.part.station (zoneStation k)).state ≠ .lost ∨ z.level ≠ .fault)) →
       s.Leads (.reply bytes) (q.setZone k z)) ∧
     (z.level = .fault → z.callPoint = false → z.detectionDisabled = true →
       (s.part.station (zoneStation k)).state = .lost →
       s.Leads (.reply bytes) (q.setZone k { z with level := .none })) ∧
     (z.level ≠ .fire → z.callPoint = false → z.detectionDisabled = false →
       (b = 0 → s.Leads (.reply bytes) (q.setZone k { z with level := .none, confirmTimer := none })) ∧
       (b = 3 → s.Leads (.reply bytes) (q.setZone k { z with level := .fault, confirmTimer := none })) ∧
       (b = 1 → z.level = .pre → s.Leads (.reply bytes) (q.setZone k z)) ∧
       (b = 1 → z.level ≠ .pre → (s.part.planZone k).confirm ≠ 0 →
         s.Leads (.reply bytes) (q.setZone k { z with
           level := .pre, confirmTimer := some (s.part.planZone k).confirm }))) ∧
     (z.level ≠ .fire → z.callPoint = true ∨ (b = 2 ∧ z.detectionDisabled = false) → z.state = .secure →
       (s.part.planZone k).autoShut = false → (s.part.planZone k).fireMessage = 0 → (∀ n, s.part.nestEntries n = []) →
       s.Leads (.reply bytes) (syncFire (q.setZone k { z with
         level := .fire, fireLatched := true, confirmTimer := none, fireTime := s.part.time.clock.seconds })))) ∧
  (∀ (s : State) (x : Exchange) (bytes : List Byte), s.Quiet → s.part.field.exchange = some x →
     (bytes.length < replyLength x.station → s.Leads (.reply bytes) s.part) ∧
     (replyLength x.station ≤ bytes.length → replyValid x.station (bytes.take (replyLength x.station)) = false →
       ∃ t, exec (.reply bytes) s = .next t ∧ exec .replyWindowClose s = .next t)) ∧
  (∀ (s : State) (k : ZoneId) (x : Exchange), s.Quiet → s.part.field.exchange = some x → x.station = zoneStation k →
     x.discard = false →
     ((s.part.station (zoneStation k)).state = .online → (s.part.station (zoneStation k)).misses = 0 →
       ∃ t, exec .replyWindowClose s = .next t ∧
         s.Ran t (Part.setZone k { s.part.zone k with link := .missing }
           (Part.setStation (zoneStation k) { s.part.station (zoneStation k) with state := .missing, misses := 1 }
             { s.part with field := { s.part.field with exchange := none } }))) ∧
     ((s.part.station (zoneStation k)).state = .missing → (s.part.station (zoneStation k)).misses = 1 →
       (s.part.zone k).fireLatched = false →
       ∃ t, exec .replyWindowClose s = .next t ∧
         s.Ran t (Part.setZone k { s.part.zone k with link := .lost, confirmTimer := none, level := .fault }
           (Part.setStation (zoneStation k) { s.part.station (zoneStation k) with state := .lost, misses := 2 }
             { s.part with field := { s.part.field with
                 exchange := none, lastLost := some (zoneStation k), lossCount := s.part.field.lossCount + 1 } }))))

/-! ### The announcement link (R94, R100 to R104) -/

/-- R102, R103, R94: the first STARTED of the outstanding PLAY restarts the reply timer for DONE at the message's
maximum length and 100 centiseconds; in any state but PLAYING it is ignored. DONE of the outstanding PLAY counts a
repeat; with repeats left the next PLAY is sent in the same event. With no call active the link only becomes READY.
R91, R92, R95, R98: the DONE of the last repeat ends the call, and a ROUTINE call in its suspend slot, the first there is, is
pruned and resumes in the same event: with its chime pending it chimes again; under REPLAY it chimes and plays the repeat again;
under CONTINUE an interrupted repeat counts as done and the next one starts with no chime. Log entry 26. -/
def Obligations.PlayRepliesCount : Prop :=
  (∀ (s : State) (e f g : CallEntry) (p q : Machine.Part), s.Quiet → s.part.player.state = .playing →
     s.part.calls.active = some e → e.state = .playing → e.playSent = true → e.repeatsDone + 1 = e.repeats → e.waiting = [] →
     s.part.calls.emergency = [] → s.part.calls.suspendedUrgent = none → s.part.calls.urgent = [] →
     s.part.calls.suspendedRoutine = some f → (s.part.prune f).lines ≠ 0 → s.part.messageLength f.message ≠ 0 →
     (f.chimePending = true ∧ g = s.part.prune f) ∨
       (f.chimePending = false ∧ f.continues = false ∧ g = { s.part.prune f with chimePending := true }) ∨
       (f.chimePending = false ∧ f.continues = true ∧ f.interrupted = false ∧ g = s.part.prune f) ∨
       (f.chimePending = false ∧ f.continues = true ∧ f.interrupted = true ∧ f.repeatsDone + 1 ≠ f.repeats ∧
         g = { s.part.prune f with repeatsDone := f.repeatsDone + 1, interrupted := false }) →
     p = { s.part with
       calls := { s.part.calls with active := none, suspendedRoutine := none, lastEnded := s.part.calls.ended e.id },
       player := { s.part.player with
         state := .ready, replyTimer := none, probeTimer := none, message := 0, startedSeen := false } } →
     p.Serves g q → s.Leads (.done s.part.player.message) q) ∧
  (∀ (s : State) (message : Byte), s.Quiet →
     (s.part.player.state = .playing → message = s.part.player.message → s.part.player.startedSeen = false →
       ∃ t, exec (.started message) s = .next t ∧ s.Ran t { s.part with player := { s.part.player with
         startedSeen := true, replyTimer := some (.done, s.part.player.length + 100) } }) ∧
     (s.part.player.state ≠ .playing → ∃ t, exec (.started message) s = .next t ∧ s.Ran t s.part)) ∧
  (∀ (s : State) (message : Byte), s.Quiet → s.part.player.state = .playing → message = s.part.player.message →
     (s.part.calls.active = none →
       ∃ t, exec (.done message) s = .next t ∧ s.Ran t { s.part with player := { s.part.player with
         state := .ready, replyTimer := none, probeTimer := none, message := 0, startedSeen := false } }) ∧
     (∀ e, s.part.calls.active = some e → e.state = .playing → e.playSent = true → e.repeatsDone + 1 ≠ e.repeats →
       s.part.messageLength e.message ≠ 0 →
       ∃ t, exec (.done message) s = .next t ∧ s.Ran t { s.part with
         calls := { s.part.calls with active := some { e with
           repeatsDone := e.repeatsDone + 1, interrupted := false, chimePending := false, chimeLeft := none,
           chimeOnly := false } },
         player := { s.part.player with
           state := .playing, message := e.message, startedSeen := false, length := s.part.messageLength e.message,
           replyTimer := some (.started, 100), probeTimer := none, sentFrame := playFrame e.message e.lines } }))

/-- R102, R104, R100: with no call active, CUT_DONE in CUTTING, and READY in UNKNOWN and FAULT, make the link READY;
elsewhere each is ignored. ERR takes the link to FAULT with the code as its cause, and in FAULT only changes the
cause; a discarded frame is counted and does nothing else. R97, R99, R91: CUT_DONE for a cancelled call ends it; for a
preempted ROUTINE call it suspends the call with its repeat interrupted, and the head of the URGENT list, the first there is,
becomes active. R106: an ERR has an active call in PLAYING serve its repeat chime-only, and READY has a call that waits for
the link sent. Log entry 26. -/
def Obligations.LinkFramesSetState : Prop :=
  (∀ (s : State) (e : CallEntry) (p : Machine.Part), s.Quiet → s.part.calls.active = some e →
     p = { s.part with player := { s.part.player with
       state := .ready, replyTimer := none, probeTimer := none, message := 0, startedSeen := false } } →
     (s.part.player.state = .cutting → e.state = .cutting → e.cutReason = some .cancel → e.waiting = [] →
       s.part.calls.entries = [e] →
       s.Leads .cutDone { p with calls := { p.calls with active := none, lastEnded := p.calls.ended e.id } }) ∧
     (∀ u rest q, s.part.player.state = .cutting → e.state = .cutting → e.cutReason = some .preempt →
       e.priority = .routine → s.part.calls.emergency = [] → s.part.calls.suspendedUrgent = none →
       s.part.calls.urgent = u :: rest → u.priority = .urgent → u.lines ≠ 0 → s.part.messageLength u.message ≠ 0 →
       ({ p with calls := { p.calls with
           active := none, urgent := rest, suspendedRoutine := some { e with interrupted := true }.suspends } } :
         Machine.Part).Serves u q → s.Leads .cutDone q) ∧
     (∀ q, s.part.player.state = .unknown ∨ s.part.player.state = .fault → e.state = .playing → e.playSent = false →
       s.part.messageLength e.message ≠ 0 →
       ({ p with calls := { p.calls with active := none } } : Machine.Part).Serves { e with chimePending := false } q →
       s.Leads .ready q) ∧
     (∀ code q, s.part.player.state ≠ .fault → e.state = .playing → (linkFaulted s.part (.err code)).chimesOnly e q →
       s.Leads (.err code) q)) ∧
  (∀ s : State, s.Quiet → s.part.calls.active = none →
     (∃ t, exec .cutDone s = .next t ∧ s.Ran t (if s.part.player.state = .cutting then { s.part with
         player := { s.part.player with
           state := .ready, replyTimer := none, probeTimer := none, message := 0, startedSeen := false } } else s.part)) ∧
     (∃ t, exec .ready s = .next t ∧
       s.Ran t (if s.part.player.state = .unknown ∨ s.part.player.state = .fault then { s.part with
         player := { s.part.player with
           state := .ready, replyTimer := none, probeTimer := none, message := 0, startedSeen := false } } else s.part))) ∧
  (∀ (s : State) (code : Byte) (kind : DiscardKind), s.Quiet → s.part.calls.active = none →
     (∃ t, exec (.err code) s = .next t ∧ s.Ran t (if s.part.player.state = .fault then { s.part with
         player := { s.part.player with cause := .err code } } else { s.part with
         player := { s.part.player with
           state := .fault, cause := .err code, faultCount := s.part.player.faultCount + 1, replyTimer := none,
           probeTimer := some 500, message := 0, startedSeen := false } })) ∧
     (∃ t, exec (.frameDiscard kind) s = .next t ∧ s.Ran t { s.part with
         player := { s.part.player with discardCount := s.part.player.discardCount + 1 } }))

/-! ### The exchange port (R121 to R134, R184, R188) -/

/-- R128, R130: BOARD_WRITE of a waiting slot writes the slot's newest content and the next change count in Table 6-6's
layout, zero in bytes 10, 11 and 25 to 31 among it, leaves the host's bytes 2 to 4 and every address outside the slot alone,
and changes no block. Log entry 6. -/
def Obligations.BoardWriteLayout : Prop :=
  ∀ (s : State) (j : SlotId) (c : SlotContent), s.Quiet → (s.part.slot j).waiting = true →
    c = (s.part.slot j).content →
    ∃ t, exec (.boardWrite j) s = .next t ∧ s.part.Follows t.part ∧ t.pending = s.pending ∧
      readHalf t.mem (boardBase j) = (s.part.slot j).shadow + 1 ∧
      readByte t.mem (boardBase j + 5) = BitVec.ofNat 8 c.state ∧
      readHalf t.mem (boardBase j + 6) = BitVec.ofNat 16 c.cause ∧
      readHalf t.mem (boardBase j + 8) = BitVec.ofNat 16 c.flags ∧
      readWord t.mem (boardBase j + 12) = c.first ∧ readWord t.mem (boardBase j + 16) = c.second ∧
      readWord t.mem (boardBase j + 20) = c.time.seconds ∧
      readByte t.mem (boardBase j + 24) = BitVec.ofNat 8 c.time.centis ∧
      readHalf t.mem (boardBase j + 10) = 0 ∧ (∀ i, 25 ≤ i → i ≤ 31 → readByte t.mem (boardBase j + i) = 0) ∧
      (∀ a, a < boardBase j ∨ boardBase j + 32 ≤ a ∨ (boardBase j + 2 ≤ a ∧ a ≤ boardBase j + 4) →
        readByte t.mem a = readByte s.mem a) ∧
      (t.part.slot j).shadow = (s.part.slot j).shadow + 1 ∧ (t.part.slot j).waiting = false ∧
      ∀ i, i ≠ j → t.part.slot i = s.part.slot i

/-- R131, R132: at the completion of a seen-count read the seen counts and notify enables of all slots are those in
exchange memory, the pending count, the lowest pending slot and nINT follow, and a further read asked for begins. Log entries 6 and
14. -/
def Obligations.SeenReadUpdatesPending : Prop :=
  ∀ s : State, s.Quiet → s.part.board.read ≠ .idle →
    ∃ t, exec .seenCountRead s = .next t ∧ s.Ran t s.part ∧
      t.part.board.read = (if s.part.board.read = .further then .underWay else .idle) ∧
      (∀ j, (t.part.slot j).seen = readHalf s.mem (512 + 32 * j.val + 2) ∧
        (t.part.slot j).notify = (readByte s.mem (512 + 32 * j.val + 4)).getLsbD 0 ∧
        (t.part.slot j).shadow = (s.part.slot j).shadow) ∧
      t.part.board.pendingCount = ((List.finRange 52).filter
        (fun j => (t.part.slot j).notify && ((t.part.slot j).seen != (t.part.slot j).shadow))).length ∧
      t.part.board.lowest = (List.finRange 52).find?
        (fun j => (t.part.slot j).notify && ((t.part.slot j).seen != (t.part.slot j).shadow)) ∧
      t.part.board.nIntLow = (s.part.port.intEn && decide (0 < t.part.board.pendingCount))

/-- The items of the call queue slot (Table 4-3): those of the active call, where there is one, the number of QUEUED entries, the
ids in the suspend slots, and the line activity mask. -/
def callItems (p : Machine.Part) :
    Option (CallState × Nat × Priority × Bool × Bool × Nat × Half) × Nat × Nat × Nat × Half :=
  (p.calls.active.map (fun e => (e.state, e.id, e.priority, e.degraded, e.chimePending, e.repeatsDone % 256, e.lines)),
   p.calls.queued % 256, ((p.calls.suspendedRoutine.map (fun e => e.id)).getD 0) % 256,
   ((p.calls.suspendedUrgent.map (fun e => e.id)).getD 0) % 256, p.activityMask)

/-- Slot `j` of Table 6-7 shows after the event, in part `p`, each item whose change rewrites it as it showed it before, in part
`pre`: of a lane the state, cause, authority, anchor's presence, depth and waiting kind (R136); of a zone all items (R4); of a
mover the state, the cause or phase that it shows and the flags (R26); of a door all items, its sounder being on by its state
(R58); of the call queue all items (R84); of the player all items (R101); of the field link the presence of a plan, each
station's state and the polled set (R170); of the part all items (R187). -/
def showsTheSame (pre p : Machine.Part) (j : SlotId) : Prop :=
  (∀ n : Lane, j.val = n.val →
    (p.lane n).state = (pre.lane n).state ∧ (p.lane n).cause = (pre.lane n).cause ∧
    (p.lane n).bridge = (pre.lane n).bridge ∧
    (p.lane n).returnAnchor.isSome = (pre.lane n).returnAnchor.isSome ∧
    (p.lane n).nest.length = (pre.lane n).nest.length ∧ (p.lane n).waitKind = (pre.lane n).waitKind) ∧
  (∀ k : ZoneId, j.val = 4 + k.val →
    (p.zone k).state = (pre.zone k).state ∧ (p.zone k).level = (pre.zone k).level ∧
    (p.zone k).detectionDisabled = (pre.zone k).detectionDisabled ∧ (p.zone k).fireLatched = (pre.zone k).fireLatched ∧
    (p.zone k).confirmTimer.isSome = (pre.zone k).confirmTimer.isSome ∧ (p.zone k).callPoint = (pre.zone k).callPoint ∧
    (p.zone k).callLost = (pre.zone k).callLost ∧ ((p.zone k).link = .lost ↔ (pre.zone k).link = .lost) ∧
    ((p.zone k).link = .missing ↔ (pre.zone k).link = .missing) ∧
    word (p.zone k).notClosed = word (pre.zone k).notClosed ∧ (p.zone k).fireTime = (pre.zone k).fireTime) ∧
  (∀ m : MoverId, j.val = 16 + m.val →
    (p.motion m).state = (pre.motion m).state ∧ ((p.motion m).state = .faulted → (p.motion m).cause = (pre.motion m).cause) ∧
    ((p.motion m).state = .moving → (p.motion m).phase = (pre.motion m).phase) ∧
    (p.motion m).reversal = (pre.motion m).reversal ∧ (p.motion m).stopLatch = (pre.motion m).stopLatch ∧
    (p.motion m).floatAlarm = (pre.motion m).floatAlarm ∧ (p.mover m).brakeReleased = (pre.mover m).brakeReleased ∧
    (p.mover m).toeBroken = (pre.mover m).toeBroken ∧ (p.mover m).localReported = (pre.mover m).localReported ∧
    (p.mover m).faultReported = (pre.mover m).faultReported) ∧
  (∀ d : DoorId, j.val = 24 + d.val →
    (p.door d).state = (pre.door d).state ∧ ((p.door d).state = .faulted → (p.door d).cause = (pre.door d).cause) ∧
    (p.door d).laneOrigin = (pre.door d).laneOrigin ∧ (p.door d).zoneOrigin = (pre.door d).zoneOrigin ∧
    (p.door d).forced = (pre.door d).forced ∧ (p.door d).last = (pre.door d).last ∧
    ((p.door d).link = .lost ↔ (pre.door d).link = .lost) ∧ ((p.door d).link = .missing ↔ (pre.door d).link = .missing) ∧
    word (p.door d).retries = word (pre.door d).retries ∧ word (p.door d).lead = word (pre.door d).lead) ∧
  (j.val = 48 → callItems p = callItems pre) ∧
  (j.val = 49 →
    p.player.state = pre.player.state ∧ p.player.cause = pre.player.cause ∧ p.player.message = pre.player.message ∧
    p.player.startedSeen = pre.player.startedSeen ∧ p.player.faultCount = pre.player.faultCount ∧
    p.player.discardCount = pre.player.discardCount) ∧
  (j.val = 50 → p.plan.isSome = pre.plan.isSome ∧
    ∀ st, (p.station st).state = (pre.station st).state ∧ (p.station st).polled = (pre.station st).polled) ∧
  (j.val = 51 →
    p.port.partState = pre.port.partState ∧ p.port.lanesEnable = pre.port.lanesEnable ∧ p.port.intEn = pre.port.intEn ∧
    p.plan.isSome = pre.plan.isSome ∧ p.generation = pre.generation ∧ p.port.bridgeLanes = pre.port.bridgeLanes ∧
    ∀ n, (p.lane n).state.running = (pre.lane n).state.running)

/-- R129, R4, R26, R58, R84, R101, R136, R170, R187: at the end of an event on an equalised board, exactly the slots of which the
event has changed an item whose change rewrites them, and those it must rewrite, are handed over with the newest content; every
other slot is left alone. Log entry 11. -/
def Obligations.EventHandsOverChangedSlots : Prop :=
  ∀ (m : List Host.Cell) (pre p : Machine.Part) (j : SlotId), pre.equalised = true → p.equalised = true →
    (j ∈ p.forced ∨ ¬ showsTheSame pre p j →
      (closeEvent m pre p).slot j = { p.slot j with content := p.slotContent j, waiting := true }) ∧
    (j ∉ p.forced → showsTheSame pre p j → (closeEvent m pre p).slot j = p.slot j)

/-- R121, R122: the host writes a 16-bit word at an even address of exchange memory: it reads back, no other byte
changes, no block sees it, and the memory stays canonical; an access outside exchange memory faults. Log entry 3. -/
def Obligations.HostWriteReadsBack : Prop :=
  ∀ (s : State) (a : Nat) (v : Half), Memory.wf s.mem = true →
    (a % 2 = 0 → a < 262144 → ∃ t, hostWriteWord a v s = .next t ∧ readHalf t.mem a = v ∧ t.part = s.part ∧
      t.pending = s.pending ∧ Memory.wf t.mem = true ∧
      ∀ b, b ≠ a → b ≠ a + 1 → readByte t.mem b = readByte s.mem b) ∧
    (262144 ≤ a → hostWriteWord a v s = .fault (.outsideMemory a))

/-- R184, R185, R187, R188: what a read of a register returns: ID 3401H; CONTROL's bits; STATUS's part state, the LAYOUT_WAIT
flag and the running mask; PENDING's lowest pending slot, 3FH for none, with the count above it; every other bit, and every
other register, 0. During a soft reset STATUS, CONTROL and PENDING read their defaults, and with nRESET low a read returns
nothing. -/
def Obligations.RegisterReads : Prop :=
  (∀ (s : State) (a : BitVec 3),
     (s.part.port.nResetLow = true → portRead s a = none) ∧
     (s.part.port.nResetLow = false → portRead s a = some (readRegister s a)) ∧
     (s.part.port.inReset = true →
       readRegister s a = (if a = 0 then 0x3401 else if a = 4 then 0x003F else 0))) ∧
  ∀ s : State, s.part.port.inReset = false → s.part.intHolds →
    readRegister s 0 = 0x3401 ∧
    (readRegister s 1).getLsbD 0 = s.part.port.lanesEnable ∧ (readRegister s 1).getLsbD 1 = s.part.port.intEn ∧
    (readRegister s 1).extractLsb' 2 2 = 0 ∧ (readRegister s 1).extractLsb' 4 4 = s.part.port.bridgeLanes ∧
    (readRegister s 1).extractLsb' 8 8 = 0 ∧
    ((readRegister s 3).extractLsb' 0 2).toNat = s.part.port.partState.num ∧
    ((readRegister s 3).getLsbD 2 = true ↔ s.part.port.partState = .layoutWait) ∧ (readRegister s 3).getLsbD 3 = false ∧
    (∀ n : Lane, (readRegister s 3).getLsbD (4 + n.val) = (s.part.lane n).state.running) ∧
    (readRegister s 3).extractLsb' 8 8 = 0 ∧
    ((readRegister s 4).extractLsb' 0 6).toNat = (match s.part.pendingSlots.head? with | some j => j.val | none => 0x3F) ∧
    ((readRegister s 4).extractLsb' 8 6).toNat = s.part.pendingSlots.length ∧
    (readRegister s 4).extractLsb' 6 2 = 0 ∧ (readRegister s 4).extractLsb' 14 2 = 0 ∧
    readRegister s 2 = 0 ∧ readRegister s 5 = 0 ∧ readRegister s 6 = 0 ∧ readRegister s 7 = 0

/-! ### Lane control (R111, R123, R138, R139, R144, R147 to R150) -/

/-- R149, R150, R141: MARK sets the last mark, retires DONE with the code and goes on by its next link; its lane's board
slot is handed over with the code. HALT LANE with no open group retires DONE and stops the lane with cause HALT_ORDER. Log
entries 4, 32 and 48. -/
def Obligations.MarkAndHaltLane : Prop :=
  ∀ (s : State) (n : Lane) (link : Half) (head : OrderHead), s.TakesOrder n link head →
    (∀ code : Half, ∃ t, exec (.mark n head code) s = .next t ∧
      s.OrderEnds t n link head { Result.bare .done with first := some (code.setWidth 32) }
        (s.part.setLane n { s.part.lane n with lastMark := code }) ∧
      (s.part.equalised = true → (t.part.slot (laneSlot n)).waiting = true ∧
        (t.part.slot (laneSlot n)).content.second = packHalves code ((s.part.lane n).retired + 1))) ∧
    ((s.part.lane n).nest = [] → ∃ t, exec (.haltLane n head) s = .next t ∧
      s.Retires t n link (retiredOwner head.standing) (Result.bare .done) (s.part.setLane n (LaneContext.stopped
        { (s.part.lane n).taken with retired := (s.part.lane n).retired + 1, anchor := .record link } .haltOrder)))

/-- R144, R145: a HOLD whose condition is met at the take retires CONDITION with the watched state; any other waits, with
its duration started where it is not 0. The codes of mover and door states in the second value are the model's choice (log
entry 49). Log entries 4, 19, 48 and 49. -/
def Obligations.HoldMeetsOrWaits : Prop :=
  ∀ (s : State) (n : Lane) (link : Half) (head : OrderHead) (duration : Half) (condition index state : Byte),
    s.TakesOrder n link head → holdFits condition index state →
    (holdIsMet s.part n condition index state →
      ∃ t, exec (.hold n head duration condition index state) s = .next t ∧
        s.OrderEnds t n link head
          { code := .condition, flags := 0, detail := some (condition.setWidth 16), first := some 0,
            second := s.part.holdWatched n (orderImage head .hold (holdParams duration condition index state)) } s.part) ∧
    (¬ holdIsMet s.part n condition index state →
      ∃ t, exec (.hold n head duration condition index state) s = .next t ∧
        s.OrderWaits t n link head (orderImage head .hold (holdParams duration condition index state)) .hold
          (s.part.setLane n { s.part.lane n with
            holdTimer := if duration = 0 then none else some duration.toNat }))

/-- R147, R148: DETOUR keeps its record as the return anchor and goes to its target; a second one is NESTED_DETOUR. RETURN
goes to the next link that the DETOUR record has in exchange memory; with no anchor the lane rests on it. Log entries 4 and
48. -/
def Obligations.DetourAndReturn : Prop :=
  ∀ (s : State) (n : Lane) (link : Half) (head : OrderHead), s.TakesOrder n link head →
    (∀ target : Half, target ≠ 0 → (s.part.lane n).returnAnchor = none →
      ∃ t, exec (.detour n head target) s = .next t ∧
        s.Retires t n link (retiredOwner head.standing) { Result.bare .done with first := some (target.setWidth 32) }
          (s.part.setLane n { (s.part.lane n).taken.goesOn link target with returnAnchor := some link })) ∧
    (∀ (target l : Half), target ≠ 0 → (s.part.lane n).returnAnchor = some l → head.alternate ≠ 0 →
      ∃ t, exec (.detour n head target) s = .next t ∧
        s.OrderEnds t n link head { Result.bare .nestedDetour with first := some (l.setWidth 32) } s.part) ∧
    (∀ l : Half, (s.part.lane n).returnAnchor = some l →
      ∃ t, exec (.ret n head) s = .next t ∧
        s.Retires t n link (retiredOwner head.standing) { Result.bare .done with first := some (l.setWidth 32) }
          (s.part.setLane n { (s.part.lane n).taken.goesOn link
              (if l = link then head.next else readHalf s.mem (slotBase l + 4)) with
            anchor := .record l, returnAnchor := none,
            nest := (s.part.lane n).nest.map (fun x => { x with inDetour := false }) })) ∧
    ((s.part.lane n).returnAnchor = none →
      ∃ t, exec (.ret n head) s = .next t ∧
        s.Retires t n link (retiredOwner head.standing) { Result.bare .done with first := some 0 }
          (s.part.setLane n ((s.part.lane n).taken.goesOn link 0)))

/-- R111: SET CLOCK from a bridge lane sets the seconds, clears the centiseconds, marks the divider for restart and retires
DONE with the new and the old seconds. Log entries 4 and 48. -/
def Obligations.SetClockSetsTime : Prop :=
  ∀ (s : State) (n : Lane) (link : Half) (head : OrderHead) (seconds : Word), s.TakesOrder n link head →
    (s.part.lane n).bridge = true →
    ∃ t, exec (.setClock n head seconds) s = .next t ∧
      s.OrderEnds t n link head
        { Result.bare .done with first := some seconds, second := some s.part.time.clock.seconds }
        { s.part with time := { s.part.time with clock := { seconds := seconds, centis := 0 }, restart := true } }

/-- The owner byte of a level's GROUP OPEN record once it has retired (R126). -/
def anchorOwner (s : State) (top : Level) : Byte :=
  if top.record.standing then readByte s.mem (slotBase top.record.link) else ownerRetired

/-- The part after lane `n`'s nest of the one level `top` has been aborted by the order that it took, and has ended in the event:
every claim of the nest is FREE, both records have retired, and the lane goes on by the fallback link or stops (R167). -/
def nestEnded (p : Machine.Part) (n : Lane) (top : Level) : Machine.Part :=
  Part.setLane n
    (if top.record.alternate = 0 then LaneContext.stopped
      { (p.lane n).taken with retired := (p.lane n).retired + 2, anchor := .record top.record.link, nest := [] } .groupAborted
     else { (p.lane n).taken.goesOn top.record.link top.record.alternate with
              retired := (p.lane n).retired + 2, nest := [], abort := none,
              returnAnchor := if top.inDetour then (p.lane n).returnAnchor else none })
    { p with claims := mapAll (fun c => if c.inNest n then Claim.free else c) p.claims }

/-- Lane `n` has one open group, whose nest an abort under HALT ends in its own event (R164, R165, R167): the level `top`, with its
actuators at rest, no claim PENDING, no waiter and nothing that waits for the lane. -/
structure endsAtOnce (p : Machine.Part) (n : Lane) (top : Level) : Prop where
  nest    : (p.lane n).nest = [top]
  valid   : linkValid top.record.link = true
  clean   : top.record.clamped = false
  halts   : top.returns = false
  steady  : ∀ e, (p.claim e).inNest n = true → p.steady e = true ∧ (p.claim e).status ≠ .pending
  waiters : p.waiters = []
  unwaited : p.Unwaited n

/-- What exchange memory and the board show of lane `n` once its record in slot `link`, taken in this event, has retired in it: the
event's time as accepted and as finished time (R126, R127); the lane's current link and state in the header, where it showed them
before (R124); and, with NOTIFY set, the lane's slot handed over (R141). The board is equalised. -/
def retirementShown (s t : State) (n : Lane) (link : Half) (head : OrderHead) : Prop :=
  readWord t.mem (slotBase link + 48) = s.part.time.clock.seconds ∧
  readByte t.mem (slotBase link + 56) = BitVec.ofNat 8 s.part.time.clock.centis ∧
  readWord t.mem (slotBase link + 52) = s.part.time.clock.seconds ∧
  readByte t.mem (slotBase link + 57) = BitVec.ofNat 8 s.part.time.clock.centis ∧
  (s.part.equalised = true →
    (readHalf s.mem (18 + 8 * n.val) = (s.part.lane n).headerLink →
      readByte s.mem (20 + 8 * n.val) = BitVec.ofNat 8 (s.part.lane n).state.num →
      readHalf t.mem (18 + 8 * n.val) = (t.part.lane n).headerLink ∧
        readByte t.mem (20 + 8 * n.val) = BitVec.ofNat 8 (t.part.lane n).state.num) ∧
    (head.flags.getLsbD 1 = true → (t.part.slot (laneSlot n)).waiting = true ∧
      (t.part.slot (laneSlot n)).content = t.part.slotContent (laneSlot n)))

/-- R123, R143: 0 names no record, 48 to 4095 name the slot of that index, and every other link is invalid: a lane of no open
group that is to take one stops with LINK_INVALID. R138: on a valid link whose record's owner reads neither ARMED nor STANDING
it stops with NOT_ARMED. R163, R164, R167: inside a HALT group at rest either aborts the nest with the cause ORDER and that
link, and the lane stops with the same cause. A slot so named lies past the header, the board and the scratch area. A plan
area has its first slot in 48 to 4052; any other is refused with BAD_RECORD at byte 12. Log entries 4, 20 and 48. -/
def Obligations.LinksNameRecords : Prop :=
  (∀ link : Half, linkValid link = true ↔ (48 ≤ link.toNat ∧ link.toNat ≤ 4095)) ∧
  (∀ link : Half, linkValid link = true → 3072 ≤ slotBase link ∧ slotBase link + 64 ≤ 262144) ∧
  (∀ (s : State) (n : Lane) (link : Half) (cause : LaneCause), s.Quiet → s.part.takesNow n = some link →
    (linkValid link = false ∧ cause = .linkInvalid) ∨
      (linkValid link = true ∧ readByte s.mem (slotBase link) ≠ 1 ∧ readByte s.mem (slotBase link) ≠ 4 ∧ cause = .notArmed) →
    ((s.part.lane n).nest = [] → ∃ t, exec (.linkTake n) s = .next t ∧
      s.RanLane t n (s.part.setLane n { (s.part.lane n).stopped cause with badLink := some link })) ∧
    (∀ top : Level, endsAtOnce s.part n top → (s.part.lane n).current = none → (s.part.lane n).waitKind = none →
      ∃ t, exec (.linkTake n) s = .next t ∧
        s.Retires t n top.record.link (anchorOwner s top) (Result.of .aborted 6 1 (link.setWidth 32))
          (Part.setLane n
            { LaneContext.stopped { (s.part.lane n).retiredAt top.record.link with nest := [] } cause with badLink := some link }
            { s.part with claims := mapAll (fun c => if c.inNest n then Claim.free else c) s.part.claims }))) ∧
  (∀ (s : State) (n : Lane) (link target : Half) (head : OrderHead), s.TakesOrder n link head → head.alternate ≠ 0 →
    (target.toNat < 48 ∨ 4052 < target.toNat) →
    ∃ t, exec (.adoptPlan n head target) s = .next t ∧
      s.OrderEnds t n link head { Result.bare .badRecord with detail := some 12, first := some 0 } s.part)

/-- R138: LINK_TAKE takes the order whose record stands in the slot of the link to follow: it is that order's own command, for
each of the 27 kinds (log entry 4). -/
def Obligations.LinkTakeIsTheOrder : Prop :=
  ∀ (s : State) (c : Instr) (n : Lane) (link : Half) (head : OrderHead) (k : OrderKind) (params : List Byte),
    orderOf c = some (n, head, k, params) → s.Takes n link → readImage s.mem link = orderImage head k params →
    ∃ t, exec (.linkTake n) s = .next t ∧ exec c s = .next t

/-- `i` names the first field of a list whose condition is not met. -/
def firstUnfit {α : Type} (fields : List (α × Prop)) (i : α) : Prop :=
  ∃ before condition after, fields = before ++ (i, condition) :: after ∧ ¬ condition ∧ ∀ f ∈ before, f.2

/-- The operand fields of an order, each with its first byte in the record and the range that its rule gives, ascending (R16 to
R22, R29, R36, R49, R53, R72, R73, R76, R79, R85, R99, R144, R147, R158, R178). -/
def operandFields (p : Machine.Part) : Instr → List (Nat × Prop)
  | .hold _ _ _ condition index state =>
    [(14, condition.toNat ≤ 3 ∨ condition = 0xFF),
     (15, index.toNat < (if condition = 0 then 12 else if condition = 1 then 8 else if condition = 2 then 24 else 1)),
     (16, state.toNat < (if condition = 0 then 4 else if condition = 2 then 2 else 1))]
  | .detour _ _ target => [(12, target ≠ 0)]
  | .groupOpen _ _ mode claimSet => [(12, mode.toNat ≤ 1), (16, ∀ m : MoverId, claimSet.getLsbD m.val = true →
      p.leader m = m ∨ ∀ e : EntryId, claimSet.getLsbD e.val = true → e.val = m.val ∨ e.val = (p.leader m).val)]
  | .setLoading _ _ zone | .setSecure _ _ zone | .shutZone _ _ zone | .reopenZone _ _ zone | .disableDetection _ _ zone
  | .enableDetection _ _ zone | .resetAlarm _ _ zone => [(12, zone.toNat < 12)]
  | .move _ _ mover mode share value => [(12, mover.toNat < 8), (13, mode.toNat ≤ 2), (14, share.toNat ≤ 100),
     (16, if mode = 0 then 0 ≤ value.toInt ∧ value.toInt ≤ 65535
          else if mode = 1 then -65535 ≤ value.toInt ∧ value.toInt ≤ 65535
          else 1 ≤ value.toInt ∧ value.toInt ≤ 8)]
  | .stopMover _ _ mover | .floatRamp _ _ mover | .clearMoverFault _ _ mover => [(12, mover.toNat < 8)]
  | .closeDoor _ _ door | .openDoor _ _ door | .forceClose _ _ door | .clearDoorFault _ _ door => [(12, door.toNat < 24)]
  | .call _ _ priority message lines repeats policy chime =>
    [(12, priority.toNat ≤ 2), (13, message ≠ 0), (14, lines ≠ 0), (16, 1 ≤ repeats.toNat ∧ repeats.toNat ≤ 15),
     (17, policy.toNat ≤ 1), (18, chime.toNat ≤ 8)]
  | .cancelCall _ _ callId => [(12, callId.toNat ≤ 255)]
  | .adoptPlan _ _ link => [(12, 48 ≤ link.toNat ∧ link.toNat ≤ 4052)]
  | .ret _ _ | .mark _ _ _ | .haltLane _ _ | .groupClose _ _ | .abortGroup _ _ _ | .setClock _ _ _
  | .powerOnReset | .softReset | .resetEnd | .lanesEnable _ | .intEn _ | .bridgeLanes _ | .start _ | .wake _ | .cancel _
  | .rescan | .ignoredRegisterWrite _ _ _ | .deckTick | .fieldCycleStart | .checkMark | .centisecondMark | .secondEnd
  | .periodEnd _ | .confirmTimerExpiry _ | .brakeTimerExpiry _ | .settleTimerExpiry _ | .leadExpiry _
  | .motionTimerExpiry _ | .retryDelayExpiry _ | .chimeEnd | .chimeOnlyRepeatEnd | .replyTimerExpiry | .probeTimerExpiry
  | .claimWaitExpiry _ | .holdExpiry _ | .poll | .reply _ | .replyWindowClose | .started _ | .done _ | .cutDone | .ready
  | .err _ | .frameDiscard _ | .boardWrite _ | .seenCountRead | .linkTake _ => []

/-- The fields of an order of this head: the reserved flags at byte 2, the expect zone at 8 and the expect mask at 9 (Table
6-3), then its operands. -/
def orderFields (p : Machine.Part) (head : OrderHead) (c : Instr) : List (Nat × Prop) :=
  [(2, head.flags.toNat < 4), (8, head.expectMask = 0 ∨ head.expectZone.toNat ≤ 11), (9, head.expectMask.toNat < 16)] ++
    operandFields p c

/-- R139: every kind of order is refused, and its deck left alone, by the first check that it fails: BAD_RECORD at the first
byte of its first field out of range, among the flags at byte 2, the expect zone at 8, the expect mask at 9 and then its
operands by their places; no plan NO_PLAN; a bridge order from another lane AUTHORITY; an expect precondition not met
MISMATCH. The record of an order has no field out of range exactly where its flags are below 4, its expect mask below 16
with a zone of 0..11 where the mask is not 0, and its operands in the ranges of its own rule. MARK takes a code of 16 bits,
so that its record has no operand out of range. R141: the lane follows the alternate link; where that is null it stops with
FAILED_ORDER, or aborts the nest of its HALT group at rest with the cause ORDER. R126, R127, R124: the record shows the event's
time as accepted and finished time, the header the lane's current link and state, and NOTIFY has the lane's slot handed
over. Log entries 4, 20, 32 and 48. -/
def Obligations.RefusedOrderRetires : Prop :=
  (∀ (p : Machine.Part) (c : Instr) (n : Lane) (head : OrderHead) (k : OrderKind) (params : List Byte),
    orderOf c = some (n, head, k, params) →
    (p.badField (orderImage head k params) = none ↔ ∀ f ∈ orderFields p head c, f.2) ∧
    ∀ i, p.badField (orderImage head k params) = some i ↔ firstUnfit (orderFields p head c) i) ∧
  ∀ (s : State) (c : Instr) (n : Lane) (link : Half) (head : OrderHead) (k : OrderKind) (params : List Byte) (code : ResultCode)
    (detail first : Nat) (r : Result), orderOf c = some (n, head, k, params) → s.Takes n link →
    r = { Result.bare code with detail := some (BitVec.ofNat 16 detail), first := some (word first) } →
    (firstUnfit (orderFields s.part head c) detail ∧ code = .badRecord ∧ first = 0) ∨
    ((∀ f ∈ orderFields s.part head c, f.2) ∧
      ((s.part.plan = none ∧ k.needsNoPlan = false ∧ code = .noPlan ∧ detail = k.num ∧ first = 0) ∨
       ((s.part.plan.isSome = true ∨ k.needsNoPlan = true) ∧
          needsBridge (orderImage head k params) k = true ∧ (s.part.lane n).bridge = false ∧ code = .authority ∧
          detail = k.num ∧ first = 0) ∨
       ((s.part.plan.isSome = true ∨ k.needsNoPlan = true) ∧
          (needsBridge (orderImage head k params) k = false ∨ (s.part.lane n).bridge = true) ∧ head.expectMask ≠ 0 ∧
          code = .mismatch ∧ detail = head.expectZone.toNat ∧
          ∃ z : ZoneId, z.val = head.expectZone.toNat ∧ first = (s.part.zone z).state.num ∧
            head.expectMask.getLsbD (s.part.zone z).state.num = false))) →
    (head.alternate ≠ 0 → ∃ t, exec c s = .next t ∧ s.OrderEnds t n link head r s.part ∧ retirementShown s t n link head) ∧
    (head.alternate = 0 → (s.part.lane n).nest = [] → ∃ t, exec c s = .next t ∧
      s.Retires t n link (retiredOwner head.standing) r
        (s.part.setLane n (((s.part.lane n).taken.retiredAt link).stopped .failedOrder)) ∧ retirementShown s t n link head) ∧
    (∀ top : Level, head.alternate = 0 → endsAtOnce s.part n top → top.record.link ≠ link → ∃ t, exec c s = .next t ∧
      s.RetiresBoth t n top.record.link link (anchorOwner s top) (retiredOwner head.standing)
        (Result.of .aborted 6 1 (link.setWidth 32)) r (nestEnded s.part n top) ∧ retirementShown s t n link head)

/-! ### Zone orders (R16 to R22) -/

/-- R2: a zone order that names a zone which the plan does not enable is refused ZONE_STATE and changes nothing of the deck;
`bridge` says that the order needs bridge authority. -/
def refusedOnDisabledZone (order : Lane → OrderHead → Byte → Instr) (bridge : Bool) : Prop :=
  ∀ (s : State) (n : Lane) (link : Half) (head : OrderHead) (k : ZoneId), s.TakesOrder n link head →
    s.part.plan.isSome = true → (bridge = true → (s.part.lane n).bridge = true) → (s.part.planZone k).enabled = false →
    head.alternate ≠ 0 →
    ∃ t, exec (order n head (BitVec.ofNat 8 k.val)) s = .next t ∧
      s.OrderEnds t n link head (zoneShown .zoneState k (s.part.zone k).state (s.part.zone k).level) s.part

/-- R16: SET LOADING is refused FIRE_LATCHED with FIRE latched, else ZONE_STATE from SHUTTING and SHUT; from SECURE and
LOADING the zone is LOADING and the order DONE. Nothing else of the deck changes. R2: on a zone that the plan does not enable
the order is refused ZONE_STATE. The code of the alarm level in the second value is the model's choice (log entry 41). Log
entries 4, 41 and 48. -/
def Obligations.SetLoadingByZoneState : Prop :=
  refusedOnDisabledZone .setLoading false ∧
  ∀ (s : State) (n : Lane) (link : Half) (head : OrderHead) (k : ZoneId) (code : ResultCode) (state : ZoneState),
    s.TakesOrder n link head → (s.part.planZone k).enabled = true → (code.failure = true → head.alternate ≠ 0) →
    ((s.part.zone k).fireLatched = true ∧ code = .fireLatched ∧ state = (s.part.zone k).state) ∨
    ((s.part.zone k).fireLatched = false ∧ ((s.part.zone k).state = .shutting ∨ (s.part.zone k).state = .shut) ∧
      code = .zoneState ∧ state = (s.part.zone k).state) ∨
    ((s.part.zone k).fireLatched = false ∧ ((s.part.zone k).state = .secure ∨ (s.part.zone k).state = .loading) ∧
      code = .done ∧ state = .loading) →
    ∃ t, exec (.setLoading n head (BitVec.ofNat 8 k.val)) s = .next t ∧
      s.OrderEnds t n link head (zoneShown code k state (s.part.zone k).level)
        (s.part.setZone k { s.part.zone k with state := state })

/-- R17: SET SECURE: ZONE_STATE from SHUTTING and SHUT; DONE with no change from SECURE; from LOADING BUSY while a mover of
the zone is RELEASING, MOVING, STOPPING, SETTLING or FLOATING, else the zone is SECURE and the order DONE. Nothing else of the
deck changes. R2: on a zone that the plan does not enable the order is refused ZONE_STATE. The code of the alarm level in the
second value is the model's choice (log entry 41). Log entries 4, 41 and 48. -/
def Obligations.SetSecureByZoneState : Prop :=
  refusedOnDisabledZone .setSecure false ∧
  ∀ (s : State) (n : Lane) (link : Half) (head : OrderHead) (k : ZoneId) (code : ResultCode) (state : ZoneState),
    s.TakesOrder n link head → (s.part.planZone k).enabled = true → (code.failure = true → head.alternate ≠ 0) →
    (((s.part.zone k).state = .shutting ∨ (s.part.zone k).state = .shut) ∧ code = .zoneState ∧
      state = (s.part.zone k).state) ∨
    ((s.part.zone k).state = .secure ∧ code = .done ∧ state = .secure) ∨
    ((s.part.zone k).state = .loading ∧ code = .busy ∧ state = .loading ∧ ∃ m ∈ s.part.zoneMovers k,
      (s.part.mover m).motion.state ∈ [.releasing, .moving, .stopping, .settling, .floating]) ∨
    ((s.part.zone k).state = .loading ∧ code = .done ∧ state = .secure ∧ ∀ m ∈ s.part.zoneMovers k,
      (s.part.mover m).motion.state ∉ [.releasing, .moving, .stopping, .settling, .floating]) →
    ∃ t, exec (.setSecure n head (BitVec.ofNat 8 k.val)) s = .next t ∧
      s.OrderEnds t n link head (zoneShown code k state (s.part.zone k).level)
        (s.part.setZone k { s.part.zone k with state := state })

/-- R18, R14, R19: SHUT ZONE from SECURE or LOADING, with every door of the zone CLOSED, no mover of it to stop, no shut
message and no group claim, takes the zone through SHUTTING to SHUT and retires DONE, with WAIT set or clear. R15: the MOVING
movers of the zone stop in that event. R14, R61, R62: with an OPEN door the zone stays SHUTTING, the door takes the ZONE
origin and enters WARNING with the lead chosen, and the order retires STARTED, or waits with WAIT set. From SHUTTING it
retires STARTED, or waits with WAIT set; from SHUT it retires DONE. R2: on a zone that the plan does not enable the order is
refused ZONE_STATE. The code of the alarm level in the second value (log entry 41), and that the sequence which the zone
begins counts no retry (log entry 34), are the model's choices. Log entries 4, 34, 41 and 48. -/
def Obligations.ShutZoneByZoneState : Prop :=
  refusedOnDisabledZone .shutZone false ∧
  ∀ (s : State) (n : Lane) (link : Half) (head : OrderHead) (k : ZoneId), s.TakesOrder n link head →
    (s.part.planZone k).enabled = true → (∀ l, l ≠ n → (s.part.lane l).state ≠ .waiting) →
    ((s.part.zone k).state = .secure ∨ (s.part.zone k).state = .loading → (s.part.zone k).notClosed = 0 →
      (∀ d ∈ s.part.zoneDoors k, (s.part.door d).state = .closed) →
      (∀ m ∈ s.part.zoneMovers k, (s.part.mover m).motion.state ≠ .releasing ∧
        (s.part.mover m).motion.state ≠ .moving) →
      (s.part.planZone k).shutMessage = 0 → (∀ l, s.part.nestEntries l = []) →
      ∃ t, exec (.shutZone n head (BitVec.ofNat 8 k.val)) s = .next t ∧
        s.OrderEnds t n link head (zoneShown .done k .shut (s.part.zone k).level)
          (s.part.setZone k { s.part.zone k with state := .shut })) ∧
    ((s.part.zone k).state = .secure ∨ (s.part.zone k).state = .loading → (s.part.zone k).notClosed = 0 →
      (∀ d ∈ s.part.zoneDoors k, (s.part.door d).state = .closed) →
      (∀ m ∈ s.part.zoneMovers k, (s.part.mover m).motion.state = .idle ∨ ((s.part.mover m).motion.state = .moving ∧
        (s.part.mover m).motion.waiting = none ∧ (s.part.claim (s.part.entryOfMover m)).status ≠ .underWay)) →
      (s.part.planZone k).shutMessage = 0 → (∀ l, s.part.nestEntries l = []) →
      ∃ t, exec (.shutZone n head (BitVec.ofNat 8 k.val)) s = .next t ∧
        s.OrderEnds t n link head (zoneShown .done k .shut (s.part.zone k).level)
          (stopMovers (s.part.zoneMovers k) (s.part.setZone k { s.part.zone k with state := .shut }))) ∧
    (∀ (d : DoorId) (lead : Nat) (q : Machine.Part),
      (s.part.zone k).state = .secure ∨ (s.part.zone k).state = .loading → (s.part.zone k).notClosed ≠ 0 →
      s.part.zoneDoors k = [d] → (s.part.door d).state = .opened →
      (∀ m ∈ s.part.zoneMovers k, (s.part.mover m).motion.state = .idle) →
      (s.part.planZone k).shutMessage = 0 → (∀ l, s.part.nestEntries l = []) →
      lead = (if (s.part.door d).forced = true ∨ (∃ i ∈ s.part.doorZones d, (s.part.zone i).level = .fire) then
        (s.part.planDoor d).fireLead else (s.part.planDoor d).lead) → lead ≠ 0 →
      q = syncWarn d ((s.part.setZone k { s.part.zone k with state := .shutting }).setDoor d { s.part.door d with
        state := .warning, zoneOrigin := true, retries := 0, leadCounter := 0, motionTimer := none, retryTimer := none,
        lead := lead }) →
      (headWaits head = false → ∃ t, exec (.shutZone n head (BitVec.ofNat 8 k.val)) s = .next t ∧
        s.OrderEnds t n link head (zoneShown .started k .shutting (s.part.zone k).level) q) ∧
      (headWaits head = true → ∃ t, exec (.shutZone n head (BitVec.ofNat 8 k.val)) s = .next t ∧
        s.OrderWaits t n link head (orderImage head .shutZone [BitVec.ofNat 8 k.val]) .action q)) ∧
    ((s.part.zone k).state = .shutting → headWaits head = false →
      ∃ t, exec (.shutZone n head (BitVec.ofNat 8 k.val)) s = .next t ∧
        s.OrderEnds t n link head (zoneShown .started k .shutting (s.part.zone k).level) s.part) ∧
    ((s.part.zone k).state = .shutting → headWaits head = true →
      ∃ t, exec (.shutZone n head (BitVec.ofNat 8 k.val)) s = .next t ∧
        s.OrderWaits t n link head (orderImage head .shutZone [BitVec.ofNat 8 k.val]) .action s.part) ∧
    ((s.part.zone k).state = .shut →
      ∃ t, exec (.shutZone n head (BitVec.ofNat 8 k.val)) s = .next t ∧
        s.OrderEnds t n link head (zoneShown .done k .shut (s.part.zone k).level) s.part)

/-- R20: REOPEN ZONE from a bridge lane, with no SHUT ZONE record waiting: FIRE_LATCHED with FIRE latched; from SHUTTING and
SHUT the zone is SECURE, its call lost flag cleared, and the order DONE; DONE with no change from SECURE; ZONE_STATE from
LOADING. R2: on a zone that the plan does not enable the order is refused ZONE_STATE. The code of the alarm level in the
second value is the model's choice (log entry 41). Log entries 4, 41 and 48. -/
def Obligations.ReopenZoneByZoneState : Prop :=
  refusedOnDisabledZone .reopenZone true ∧
  ∀ (s : State) (n : Lane) (link : Half) (head : OrderHead) (k : ZoneId) (code : ResultCode) (z : Zone),
    s.TakesOrder n link head → (s.part.lane n).bridge = true → (s.part.planZone k).enabled = true →
    (∀ l, l ≠ n → (s.part.lane l).state ≠ .waiting) → (code.failure = true → head.alternate ≠ 0) →
    ((s.part.zone k).fireLatched = true ∧ ((s.part.zone k).state = .shutting → (s.part.zone k).notClosed ≠ 0) ∧
      code = .fireLatched ∧ z = s.part.zone k) ∨
    ((s.part.zone k).fireLatched = false ∧
      ((((s.part.zone k).state = .shutting ∨ (s.part.zone k).state = .shut) ∧ code = .done ∧
          z = { s.part.zone k with state := .secure, callLost := false }) ∨
       ((s.part.zone k).state = .secure ∧ code = .done ∧ z = s.part.zone k) ∨
       ((s.part.zone k).state = .loading ∧ code = .zoneState ∧ z = s.part.zone k))) →
    ∃ t, exec (.reopenZone n head (BitVec.ofNat 8 k.val)) s = .next t ∧
      s.OrderEnds t n link head (zoneShown code k z.state z.level) (s.part.setZone k z)

/-- R21, R8: DISABLE DETECTION from a bridge lane is refused FIRE_LATCHED with FIRE latched and is DONE with no change where
the flag is set; else it sets the flag, PRE becoming NONE with the confirm timer discarded and FAULT staying where the station
is LOST alone. ENABLE DETECTION is DONE with no change where the flag is clear; else it clears the flag, and, below FIRE, an
ONLINE station's stored loop status is judged: ONE starts PRE with a fresh confirm timer, TWO enters FIRE, LOOP_FAULT gives
FAULT, NORMAL leaves the level. At level FIRE the level stays whatever is stored. R2: on a zone that the plan does not enable
the order is refused ZONE_STATE. The code of the alarm level in the second value is the model's choice (log entry 41). Log
entries 4, 41 and 48. -/
def Obligations.DetectionOrdersSetFlag : Prop :=
  refusedOnDisabledZone .disableDetection true ∧ refusedOnDisabledZone .enableDetection true ∧
  ∀ (s : State) (n : Lane) (link : Half) (head : OrderHead) (k : ZoneId) (code : ResultCode) (x z : Zone),
    s.TakesOrder n link head → (s.part.lane n).bridge = true → (s.part.planZone k).enabled = true →
    (code.failure = true → head.alternate ≠ 0) → x = s.part.zone k →
    ((x.fireLatched = true ∧ code = .fireLatched ∧ z = x) ∨
      (x.fireLatched = false ∧ x.detectionDisabled = true ∧ code = .done ∧ z = x) ∨
      (x.fireLatched = false ∧ x.detectionDisabled = false ∧ x.level ≠ .fire ∧ code = .done ∧
        z = { x with
          detectionDisabled := true, confirmTimer := none,
          level := if x.level = .fault ∧ x.link = .lost then .fault else .none }) →
      ∃ t, exec (.disableDetection n head (BitVec.ofNat 8 k.val)) s = .next t ∧
        s.OrderEnds t n link head (zoneShown code k z.state z.level) (s.part.setZone k z)) ∧
    ((x.detectionDisabled = false ∧ z = x) ∨
      (x.detectionDisabled = true ∧
        ((x.level = .fire ∨ x.link ≠ .online ∨ x.loop = some .normal ∨ x.loop = none) ∧
            z = { x with detectionDisabled := false } ∨
         x.level ≠ .fire ∧ x.link = .online ∧ x.loop = some .loopFault ∧
            z = { x with detectionDisabled := false, level := .fault, confirmTimer := none } ∨
         x.level = .pre ∧ x.link = .online ∧ x.loop = some .one ∧ z = { x with detectionDisabled := false } ∨
         (x.level = .none ∨ x.level = .fault) ∧ x.link = .online ∧ x.loop = some .one ∧ (s.part.planZone k).confirm ≠ 0 ∧
            z = { x with
              detectionDisabled := false, level := .pre, confirmTimer := some (s.part.planZone k).confirm })) →
      ∃ t, exec (.enableDetection n head (BitVec.ofNat 8 k.val)) s = .next t ∧
        s.OrderEnds t n link head (zoneShown .done k z.state z.level) (s.part.setZone k z)) ∧
    (x.detectionDisabled = true → x.level ≠ .fire → x.link = .online → x.loop = some .two → x.state = .secure →
      (s.part.planZone k).autoShut = false → (s.part.planZone k).fireMessage = 0 → (∀ i, s.part.nestEntries i = []) →
      ∃ t, exec (.enableDetection n head (BitVec.ofNat 8 k.val)) s = .next t ∧
        s.OrderEnds t n link head (zoneShown .done k .secure .fire) (syncFire (s.part.setZone k { x with
          detectionDisabled := false, level := .fire, fireLatched := true, confirmTimer := none,
          fireTime := s.part.time.clock.seconds })))

/-- R22, R12: RESET ALARM from a bridge lane is refused ALARM_PRESENT while the ONLINE station shows ONE, TWO or the call
point; else the level is FAULT for a LOST station or an enabled loop at LOOP_FAULT and NONE otherwise, the FIRE latch, the
call lost flag and the confirm timer are cleared, and the FIRE demands follow. R2: on a zone that the plan does not enable the
order is refused ZONE_STATE. The code of the alarm level in the second value is the model's choice (log entry 41). Log entries
4, 41 and 48. -/
def Obligations.ResetAlarmClearsFire : Prop :=
  refusedOnDisabledZone .resetAlarm true ∧
  ∀ (s : State) (n : Lane) (link : Half) (head : OrderHead) (k : ZoneId), s.TakesOrder n link head →
    (s.part.lane n).bridge = true → (s.part.planZone k).enabled = true →
    ((s.part.zone k).link = .online →
      (s.part.zone k).loop = some .one ∨ (s.part.zone k).loop = some .two ∨ (s.part.zone k).callPoint = true →
      head.alternate ≠ 0 →
      ∃ t, exec (.resetAlarm n head (BitVec.ofNat 8 k.val)) s = .next t ∧
        s.OrderEnds t n link head (zoneShown .alarmPresent k (s.part.zone k).state (s.part.zone k).level) s.part) ∧
    (∀ level : AlarmLevel, (s.part.zone k).link ≠ .online ∨ ((s.part.zone k).loop ≠ some .one ∧
        (s.part.zone k).loop ≠ some .two ∧ (s.part.zone k).callPoint = false) →
      (level = .fault ↔ ((s.part.zone k).link = .lost ∨
        ((s.part.zone k).detectionDisabled = false ∧ (s.part.zone k).loop = some .loopFault))) →
      level = .fault ∨ level = .none →
      ∃ t, exec (.resetAlarm n head (BitVec.ofNat 8 k.val)) s = .next t ∧
        s.OrderEnds t n link head (zoneShown .done k (s.part.zone k).state level)
          (syncFire (s.part.setZone k { s.part.zone k with
            level := level, fireLatched := false, callLost := false, confirmTimer := none })))

/-! ### Mover orders (R29 to R36, R49, R53, R154) -/

/-- Mover `q` is IDLE with its measured position within `tolerance` of its preset `i` (R30), a pair's preset being its leading
end's (R25; log entry 31). -/
def standsAtPreset (p : Machine.Part) (q : MoverId) (i : Fin 8) (tolerance : Nat) : Prop :=
  (p.mover q).motion.state = .idle ∧
    (((p.mover q).position : Int) - getAt (p.planMover (p.leader q)).presets i).natAbs ≤ tolerance

/-- The plan names mover `m` as the prerequisite of the enabled mover `e`, which does not stand at its preset 1 (Table 2-5, test
4). A pair is one mover, by its leading end (log entry 31). -/
def dependentFails (p : Machine.Part) (m e : MoverId) : Prop :=
  (p.planMover e).enabled = true ∧ p.leader e = e ∧ (∃ x, (p.planMover e).prerequisite = some x ∧ p.leader x = m) ∧
    ¬ standsAtPreset p e 0 (p.planMover e).preTolerance

/-- The target that a MOVE asks for, from the setpoint `setpoint` (R31): the value; the setpoint rounded to the nearest count plus
the value; the preset's position. -/
def askedTarget (pm : PlanMover) (mode : Nat) (value setpoint asked : Int) : Prop :=
  (mode = 0 ∧ asked = value) ∨ (mode = 1 ∧ asked = (setpoint + 128) / 256 + value) ∨
    (mode = 2 ∧ ∃ i : Fin 8, value = (i.val : Int) + 1 ∧ asked = getAt pm.presets i)

/-- R30, R31: what a MOVE of each mode on an IDLE mover that is no end of a pair comes to, by the first test of Table 2-5 that
fails: ZONE_STATE where its zone is not LOADING; OUT_OF_LIMITS outside [L, U]; PREREQUISITE, with that mover, where the
prerequisite does not stand at the preset named; DEPENDENT, with the lowest such mover, where an enabled mover whose
prerequisite this one is does not stand at its preset 1; BUSY where a door of the zone is CLOSING; BLOCKED where a broken toe
beam stands against a downward move of no PANEL_END. The target asked for is clamped into [L, U], and the clamping is kept with
the verdict of every test that it comes before: BLOCKED, zero distance where the setpoint is at the target, and otherwise a
start to it. Log entries 4, 31 and 45. -/
def Obligations.MoveTestsInOrder : Prop :=
  ∀ (p : Machine.Part) (m : MoverId) (mode : Nat) (value setpoint asked : Int) (pm : PlanMover) (target : Nat) (clamped : Bool),
    p.partner m = none → (p.mover m).motion.state = .idle → (p.mover m).motion.setpoint = some setpoint →
    pm = p.planMover m → askedTarget pm mode value setpoint asked →
    (target : Int) = max (pm.lower : Int) (min (pm.upper : Int) asked) → clamped = decide ((target : Int) ≠ asked) →
    ((p.zone pm.zone).state ≠ .loading →
      p.judgeMove m mode value = { verdict := .refused .zoneState none, clamped := false }) ∧
    ((p.zone pm.zone).state = .loading →
      ((p.mover m).position < pm.lower ∨ pm.upper < (p.mover m).position →
        p.judgeMove m mode value = { verdict := .refused .outOfLimits none, clamped := false }) ∧
      (pm.lower ≤ (p.mover m).position → (p.mover m).position ≤ pm.upper →
        (∀ (q : MoverId) (i : Fin 8), pm.prerequisite = some q → pm.prePreset = i.val + 1 →
          ¬ standsAtPreset p q i pm.preTolerance →
          p.judgeMove m mode value = { verdict := .refused .prerequisite (some q.val), clamped := false }) ∧
        (pm.prerequisite = none ∨
            (∃ (q : MoverId) (i : Fin 8), pm.prerequisite = some q ∧ pm.prePreset = i.val + 1 ∧
              standsAtPreset p q i pm.preTolerance) →
          (∀ e, dependentFails p m e → (∀ x, x.val < e.val → ¬ dependentFails p m x) →
            p.judgeMove m mode value = { verdict := .refused .dependent (some e.val), clamped := false }) ∧
          ((∀ e, ¬ dependentFails p m e) →
            ((∃ d ∈ p.zoneDoors pm.zone, (p.door d).state = .closing) →
              p.judgeMove m mode value = { verdict := .refused .busy none, clamped := false }) ∧
            ((∀ d ∈ p.zoneDoors pm.zone, (p.door d).state ≠ .closing) →
              (pm.kind ≠ .panelEnd → 256 * (target : Int) < setpoint → (p.mover m).toeBroken = true →
                p.judgeMove m mode value = { verdict := .refused .blocked none, clamped := clamped }) ∧
              (setpoint = 256 * (target : Int) →
                p.judgeMove m mode value = { verdict := .zero, clamped := clamped }) ∧
              (setpoint < 256 * (target : Int) ∨
                  (256 * (target : Int) < setpoint ∧ ((p.mover m).toeBroken = false ∨ pm.kind = .panelEnd)) →
                p.judgeMove m mode value = { verdict := .starts target, clamped := clamped }))))))

/-- R31, R32, R34, R154: a MOVE that its tests let start takes the mover's claim and the IDLE mover to RELEASING with the
target, the share and the direction stored, the brake timer started and the runs cleared; it retires STARTED, or waits with
WAIT set. One that they refuse, and one of zero distance, ends so and leaves the deck alone. Log entries 4, 21 and 48. -/
def Obligations.MoveReleasesMover : Prop :=
  ∀ (s : State) (n : Lane) (link : Half) (head : OrderHead) (m : MoverId) (mode share : Byte) (value : Word) (j : Judged)
    (q : Machine.Part), s.TakesOrder n link head → s.part.plan.isSome = true → moveFits mode share value →
    (∀ e ∈ s.part.ends m, (s.part.mover e).motion.state = .idle) → (s.part.mover m).motion.waiting = none →
    s.part.ClaimFree n (s.part.entryOfMover m) → s.part.judgeMove m mode.toNat value.toInt = j →
    (∀ target, j.verdict = .starts target → (∀ d, (s.part.door d).state ≠ .waitClear) →
      q = (setMotion m { (s.part.mover m).motion with
            state := .releasing, target := some target,
            share := if share = 0 then 100 else share.toNat,
            up := decide ((s.part.mover m).motion.setpoint.getD 0 < 256 * (target : Int)), reversal := false,
            brakeJudged := false, brakeTimer := startTimer (s.part.profilePlan m).brakeTime,
            waiting := if headWaits head then some n else none }
          (mapEnds m (fun x => { x with followRun := 0, endJudged := false }) s.part)).setClaim
        (s.part.entryOfMover m) (implicitOf n) →
      (headWaits head = false → ∃ t, exec (.move n head (BitVec.ofNat 8 m.val) mode share value) s = .next t ∧
        s.OrderEnds t n link head
          { moverShown .started m (s.part.mover m).position target with flags := if j.clamped then flagClamped else 0 } q) ∧
      (headWaits head = true → j.clamped = false →
        ∃ t, exec (.move n head (BitVec.ofNat 8 m.val) mode share value) s = .next t ∧
          s.OrderWaits t n link head
            (orderImage head .move (moveParams (BitVec.ofNat 8 m.val) mode share value)) .action q)) ∧
    (∀ code, j.verdict = .refused code none → j.clamped = false → code.failure = true → head.alternate ≠ 0 →
      (s.part.mover m).motion.target = none →
      ∃ t, exec (.move n head (BitVec.ofNat 8 m.val) mode share value) s = .next t ∧
        s.OrderEnds t n link head (moverShown code m (s.part.mover m).position (s.part.mover m).sent) s.part) ∧
    (j.verdict = .zero → j.clamped = false →
      ∃ t, exec (.move n head (BitVec.ofNat 8 m.val) mode share value) s = .next t ∧
        s.OrderEnds t n link head (moverShown .done m (s.part.mover m).position (s.part.mover m).sent) s.part)

/-- R35, R36, R154: STOP MOVER on an IDLE mover whose claim is free, or is held by the lane's own group, is DONE with no
change. On a mover that the lane holds by its own implicit claim, in motion with no waiting record: in MOVING it enters
STOPPING with the stop latch set and its pending target discarded, and the order retires STARTED, or waits with WAIT set; in
RELEASING, with no door in WAIT_CLEAR, it returns to IDLE at its clamped position, the claim is given back, and the order
retires STARTED, DONE with WAIT set. Log entries 4, 21 and 48. -/
def Obligations.StopMoverStopsMotion : Prop :=
  ∀ (s : State) (n : Lane) (link : Half) (head : OrderHead) (m : MoverId) (target : Nat) (q : Machine.Part),
    s.TakesOrder n link head → s.part.plan.isSome = true →
    ((∀ e ∈ s.part.ends m, (s.part.mover e).motion.state = .idle) →
      s.part.ClaimFree n (s.part.entryOfMover m) ∨
        ((s.part.lane n).nest ≠ [] ∧ (s.part.claim (s.part.entryOfMover m)).inNest n = true) →
      ∃ t, exec (.stopMover n head (BitVec.ofNat 8 m.val)) s = .next t ∧
      s.OrderEnds t n link head (moverShown .done m (s.part.mover m).position (s.part.mover m).sent) s.part) ∧
    ((s.part.lane n).nest = [] → s.part.claim (s.part.entryOfMover m) = implicitOf n → s.part.waiters = [] →
      (s.part.mover m).motion.waiting = none → (s.part.mover m).motion.target = some target →
      ((s.part.mover m).motion.state = .moving →
        q = setMotion m { (s.part.mover m).motion with
              state := .stopping, stopLatch := true, pending := none,
              waiting := if headWaits head then some n else none } s.part →
        (headWaits head = false → ∃ t, exec (.stopMover n head (BitVec.ofNat 8 m.val)) s = .next t ∧
          s.OrderEnds t n link head (moverShown .started m (s.part.mover m).position target) q) ∧
        (headWaits head = true → ∃ t, exec (.stopMover n head (BitVec.ofNat 8 m.val)) s = .next t ∧
          s.OrderWaits t n link head (orderImage head .stopMover [BitVec.ofNat 8 m.val]) .action q)) ∧
      (∀ code, (s.part.mover m).motion.state = .releasing → (∀ d, (s.part.door d).state ≠ .waitClear) →
        code = (if headWaits head then .done else .started) →
        q = (setMotion m { (s.part.mover m).motion with
            state := .idle, cause := none, reversal := false, setpoint := some (256 * (s.part.restCount m : Int)),
            speed := 0, target := none, pending := none, stopLatch := false, floatAlarm := false, brakeJudged := false,
            brakeTimer := none, settleTimer := none }
          (mapEnds m (fun x => { x with
            sent := s.part.restCount m, valve := 0, followRun := 0, settleRun := 0, endJudged := false })
            s.part)).setClaim (s.part.entryOfMover m) Claim.free →
        ∃ t, exec (.stopMover n head (BitVec.ofNat 8 m.val)) s = .next t ∧
          s.OrderEnds t n link head (moverShown code m (s.part.mover m).position target) q))

/-- The present conditions of CLEAR MOVER FAULT (R53): every station of the mover is ONLINE and reported no station fault last, and
the ends of a pair are at most Sfault apart. -/
def faultCanClear (p : Machine.Part) (m : MoverId) : Prop :=
  (∀ e : MoverId, e = m ∨ p.partner m = some e →
    (p.station (moverStation e)).state = .online ∧ (p.mover e).faultReported = false) ∧
  ∀ e, p.partner m = some e →
    (((p.mover m).position : Int) - (p.mover e).position).natAbs ≤ (p.planMover (p.leader m)).sfault

/-- R49, R53: FLOAT RAMP on an IDLE ramp of a LOADING zone at or below L + Wf, its claim free, enters FLOATING, which is a
steady state: the setpoint is undefined, the brake timer runs and the claim is given back; STARTED, or a wait with WAIT set.
CLEAR MOVER FAULT retires DONE with no change on a mover that is not FAULTED; on a FAULTED one it is refused FAULTED with the
cause where a station of it is not ONLINE or reported a fault last, or where the ends of a pair are farther apart than Sfault;
otherwise one of no claim that reports no local mode becomes IDLE at its position, and a pair does so as one. The code of the
cause is the model's choice (log entry 49). Log entries 4, 21, 48 and 49. -/
def Obligations.FloatAndClearFault : Prop :=
  ∀ (s : State) (n : Lane) (link : Half) (head : OrderHead) (m : MoverId) (q : Machine.Part), s.TakesOrder n link head →
    s.part.plan.isSome = true →
    (s.part.ClaimFree n (s.part.entryOfMover m) → (s.part.planMover m).kind = .ramp →
      (s.part.mover m).motion.state = .idle → (s.part.mover m).motion.waiting = none →
      (s.part.zone (s.part.moverZone m)).state = .loading →
      (s.part.mover m).position ≤ (s.part.planMover m).lower + (s.part.planMover m).floatWindow →
      q = setMotion m { (s.part.mover m).motion with
            state := .floating, setpoint := none, brakeJudged := false,
            brakeTimer := startTimer (s.part.planMover m).brakeTime,
            waiting := if headWaits head then some n else none }
          (mapEnds m (fun x => { x with endJudged := false }) s.part) →
      (headWaits head = false → ∃ t, exec (.floatRamp n head (BitVec.ofNat 8 m.val)) s = .next t ∧
        s.OrderEnds t n link head (moverShown .started m (s.part.mover m).position (s.part.mover m).sent) q) ∧
      (headWaits head = true → ∃ t, exec (.floatRamp n head (BitVec.ofNat 8 m.val)) s = .next t ∧
        s.OrderWaits t n link head (orderImage head .floatRamp [BitVec.ofNat 8 m.val]) .action q)) ∧
    ((s.part.mover m).motion.state ≠ .faulted →
      ∃ t, exec (.clearMoverFault n head (BitVec.ofNat 8 m.val)) s = .next t ∧
        s.OrderEnds t n link head (moverShown .done m (s.part.mover m).position
          ((s.part.mover m).motion.target.getD (s.part.mover m).sent)) s.part) ∧
    (∀ cause, (s.part.mover m).motion.state = .faulted → (s.part.mover m).motion.cause = some cause →
      ¬ faultCanClear s.part m → head.alternate ≠ 0 →
      ∃ t, exec (.clearMoverFault n head (BitVec.ofNat 8 m.val)) s = .next t ∧
        s.OrderEnds t n link head (moverShown .faulted m (s.part.mover m).position (cause.num + 1)) s.part) ∧
    ((s.part.mover m).motion.state = .faulted → (s.part.mover m).motion.waiting = none → faultCanClear s.part m →
      (∀ e ∈ s.part.ends m, (s.part.mover e).localReported = false) → (s.part.claim (s.part.entryOfMover m)).holder = none →
      q = setMotion m { (s.part.mover m).motion with
            state := .idle, cause := none, reversal := false, setpoint := some (256 * (s.part.restCount m : Int)),
            speed := 0, target := none, pending := none, stopLatch := false, floatAlarm := false, brakeJudged := false,
            brakeTimer := none, settleTimer := none }
          (mapEnds m (fun x => { x with
            sent := s.part.restCount m, valve := 0, followRun := 0, settleRun := 0, endJudged := false }) s.part) →
      ∃ t, exec (.clearMoverFault n head (BitVec.ofNat 8 m.val)) s = .next t ∧
        s.OrderEnds t n link head (moverShown .done m (s.part.mover m).position (s.part.restCount m)) q)

/-! ### Door orders (R61, R62, R71 to R73, R76, R79) -/

/-- R62, R71, R72, R76, R154: CLOSE DOOR, and FORCE CLOSE from a bridge lane, with the door's claim free: DONE on a CLOSED
door, LOCAL and FAULTED refused, with no change; from OPEN and HALTED the door takes the claim and the LANE origin and
enters WARNING with the lead chosen, no retry counted, forced for FORCE CLOSE, and its lines warn; STARTED, or a wait with
WAIT set. The code of the door state is the model's choice (log entry 49). Log entries 4, 34, 48 and 49. -/
def Obligations.DoorCloseOrders : Prop :=
  ∀ (s : State) (n : Lane) (link : Half) (head : OrderHead) (d : DoorId) (force : Bool) (c : Instr) (kind : OrderKind)
    (x : Door) (q : Machine.Part),
    s.TakesOrder n link head → s.part.plan.isSome = true → s.part.ClaimFree n (doorEntry d) →
    (force = true ∧ (s.part.lane n).bridge = true ∧ c = .forceClose n head (BitVec.ofNat 8 d.val) ∧ kind = .forceClose) ∨
      (force = false ∧ c = .closeDoor n head (BitVec.ofNat 8 d.val) ∧ kind = .closeDoor) →
    (∀ code, ((s.part.door d).state = .closed ∧ code = .done) ∨
        ((s.part.door d).state = .localMode ∧ code = .localMode) ∨
        (((s.part.door d).state = .faulted ∨ (s.part.door d).state = .offline) ∧ code = .faulted) →
      (code.failure = true → head.alternate ≠ 0) →
      ∃ t, exec c s = .next t ∧
        s.OrderEnds t n link head (doorShown code d (s.part.door d).state (s.part.door d).retries) s.part) ∧
    ((s.part.door d).state = .opened ∨ (s.part.door d).state = .halted → (s.part.door d).waiting = none →
      (s.part.door d).forced = false →
      x = { s.part.door d with
        state := .warning, laneOrigin := true, forced := force, leadCounter := 0, motionTimer := none, retryTimer := none,
        retries := 0,
        lead := if force = true ∨ ((s.part.door d).zoneOrigin = true ∧
            ∃ k ∈ s.part.doorZones d, (s.part.zone k).level = .fire) then (s.part.planDoor d).fireLead
          else (s.part.planDoor d).lead,
        waiting := if headWaits head then some n else none } →
      x.lead ≠ 0 → q = (syncWarn d (s.part.setDoor d x)).setClaim (doorEntry d) (implicitOf n) →
      (headWaits head = false → ∃ t, exec c s = .next t ∧
        s.OrderEnds t n link head (doorShown .started d .warning x.retries) q) ∧
      (headWaits head = true → ∃ t, exec c s = .next t ∧
        s.OrderWaits t n link head (orderImage head kind [BitVec.ofNat 8 d.val]) .action q))

/-- R73, R154: OPEN DOOR with the door's claim free is refused ZONE_STATE on a steady door that a zone asks to close, or one
of whose zones is SHUTTING or SHUT; that an OFFLINE one is refused so too is the model's choice (log entry 42). Elsewhere,
with no forced close but from a bridge lane, it is DONE with no change on an OPEN door; from CLOSED and HALTED the door
takes the claim and enters OPENING with its motion timer started, and from CLOSED each enabled zone of it counts one door
more that is not closed (R3); STARTED, or a wait with WAIT set. The code of the door state is the model's choice (log entry
49). Log entries 4, 33, 42, 48 and 49. -/
def Obligations.DoorOpenOrders : Prop :=
  ∀ (s : State) (n : Lane) (link : Half) (head : OrderHead) (d : DoorId) (x : Door) (q : Machine.Part),
    s.TakesOrder n link head → s.part.plan.isSome = true → s.part.ClaimFree n (doorEntry d) →
    ((s.part.door d).zoneOrigin = true ∨
        (∃ k ∈ s.part.doorZones d, (s.part.zone k).state = .shutting ∨ (s.part.zone k).state = .shut) →
      (s.part.door d).state.steady = true → head.alternate ≠ 0 →
      ∃ t, exec (.openDoor n head (BitVec.ofNat 8 d.val)) s = .next t ∧
        s.OrderEnds t n link head (doorShown .zoneState d (s.part.door d).state (s.part.door d).retries) s.part) ∧
    ((s.part.door d).zoneOrigin = false →
      (∀ k ∈ s.part.doorZones d, (s.part.zone k).state ≠ .shutting ∧ (s.part.zone k).state ≠ .shut) →
      ((s.part.door d).forced = true → (s.part.lane n).bridge = true) →
      ((s.part.door d).state = .opened →
        ∃ t, exec (.openDoor n head (BitVec.ofNat 8 d.val)) s = .next t ∧
          s.OrderEnds t n link head (doorShown .done d .opened (s.part.door d).retries) s.part) ∧
      ((s.part.door d).state = .halted ∨ (s.part.door d).state = .closed → (s.part.door d).waiting = none →
        x = { s.part.door d with
          state := .opening, laneOrigin := false, forced := false, leadCounter := 0, retryTimer := none,
          motionTimer := some (s.part.planDoor d).motionLimit, waiting := if headWaits head then some n else none } →
        q = (doorMoved s.part d x s.part).setClaim (doorEntry d) (implicitOf n) →
        (headWaits head = false → ∃ t, exec (.openDoor n head (BitVec.ofNat 8 d.val)) s = .next t ∧
          s.OrderEnds t n link head (doorShown .started d .opening (s.part.door d).retries) q) ∧
        (headWaits head = true → ∃ t, exec (.openDoor n head (BitVec.ofNat 8 d.val)) s = .next t ∧
          s.OrderWaits t n link head (orderImage head .openDoor [BitVec.ofNat 8 d.val]) .action q)))

/-- R79: CLEAR DOOR FAULT is DONE with no change on a door that is not FAULTED; on a FAULTED one of no claim it is refused
FAULTED, with the cause, where the station is not ONLINE or its last reply shows the motor fault, both limits, or edge
contact for cause EDGE; with the open limit alone, no local mode and no ZONE origin the door becomes OPEN. The codes of the
door state and the cause are the model's choice (log entry 49). Log entries 4, 48 and 49. -/
def Obligations.ClearDoorFaultTests : Prop :=
  ∀ (s : State) (n : Lane) (link : Half) (head : OrderHead) (d : DoorId) (q : Machine.Part), s.TakesOrder n link head →
    s.part.plan.isSome = true →
    ((s.part.door d).state ≠ .faulted → ∃ t, exec (.clearDoorFault n head (BitVec.ofNat 8 d.val)) s = .next t ∧
      s.OrderEnds t n link head (doorShown .done d (s.part.door d).state (s.part.door d).retries) s.part) ∧
    (∀ cause, (s.part.door d).state = .faulted → (s.part.door d).cause = some cause → head.alternate ≠ 0 →
      (s.part.station (doorStation d)).state ≠ .online ∨ (s.part.door d).last.motorFault = true ∨
        ((s.part.door d).last.openLimit = true ∧ (s.part.door d).last.closedLimit = true) ∨
        (cause = .edge ∧ (s.part.door d).last.edge = true) →
      ∃ t, exec (.clearDoorFault n head (BitVec.ofNat 8 d.val)) s = .next t ∧
        s.OrderEnds t n link head (doorShown .faulted d .faulted (cause.num + 1)) s.part) ∧
    ((s.part.door d).state = .faulted → (s.part.station (doorStation d)).state = .online →
      (s.part.door d).last.motorFault = false → (s.part.door d).last.openLimit = true →
      (s.part.door d).last.closedLimit = false → (s.part.door d).last.localMode = false →
      ((s.part.door d).cause = some .edge → (s.part.door d).last.edge = false) → (s.part.door d).zoneOrigin = false →
      (s.part.claim (doorEntry d)).holder = none →
      q = syncWarn d (s.part.setDoor d { s.part.door d with state := .opened, cause := none, laneOrigin := false }) →
      ∃ t, exec (.clearDoorFault n head (BitVec.ofNat 8 d.val)) s = .next t ∧
        s.OrderEnds t n link head (doorShown .done d .opened (s.part.door d).retries) q)

/-! ### Call orders (R85 to R89, R99) -/

/-- The entry that a CALL of lane `n` makes (R86). -/
def newCall (n : Lane) (pr : Priority) (message : Byte) (lines : Half) (repeats policy chime : Byte) (id : Nat)
    (waiting : List Lane) : CallEntry :=
  { id := id, origin := .lane n, priority := pr, message := message, lines := lines, repeats := repeats.toNat,
    repeatsDone := 0, continues := policy = 1, chime := chime.toNat, state := .queued, interrupted := false,
    chimePending := true, cutReason := none, degraded := false, waiting := waiting, chimeLeft := none,
    chimeOnly := false, playSent := false }

/-- The call store once the CALL has been admitted as entry `x` at the tail of its list (R86, R89). -/
def admitted (c : CallStore) (n : Lane) (x : CallEntry) : CallStore :=
  { c.setList (c.list x.priority ++ [x]) x.priority with
    nextId := if x.id = 255 then 1 else x.id + 1, lastCall := setAt c.lastCall n (some x.id),
    lastEnded := setAt c.lastEnded n false }

/-- What a selection removes from a ROUTINE call's line set (R92): the line of each zone that is SHUTTING, SHUT or in FIRE. A
call of another priority is left as it is. -/
def pruneRemovesLines : Prop :=
  ∀ (p : Machine.Part) (e : CallEntry),
    (e.priority ≠ .routine → p.prune e = e) ∧
    (e.priority = .routine → p.prune e = { e with lines := (p.prune e).lines } ∧
      ∀ i : LineId, (p.prune e).lines.getLsbD i.val = true ↔
        (e.lines.getLsbD i.val = true ∧ ∀ k : ZoneId, k.val = i.val →
          (p.zone k).state ≠ .shutting ∧ (p.zone k).state ≠ .shut ∧ (p.zone k).level ≠ .fire))

/-- The CALL of lane `n` in slot `link` that is admitted as entry `x` retires STARTED, or waits with WAIT set; `q` is the
deck (R86). -/
def callGoesOn (s : State) (n : Lane) (link : Half) (head : OrderHead) (c : Instr) (image : List Byte) (x : CallEntry)
    (q : Machine.Part) : Prop :=
  (headWaits head = false →
    ∃ t, exec c s = .next t ∧ s.OrderEnds t n link head (Result.of .started x.id 0 (x.lines.setWidth 32)) q) ∧
  (headWaits head = true → ∃ t, exec c s = .next t ∧ s.OrderWaits t n link head image .action q)

/-- What an admitted CALL, of a message with a length, brings about at once (R86, R88, R91 to R93, R96): it is served where
there is no other call; it preempts an active call of lower priority by that call's state; at a full pool it displaces the
youngest ROUTINE entry, or is refused QUEUE_FULL. -/
def callActsAtOnce : Prop :=
  ∀ (s : State) (n : Lane) (link : Half) (head : OrderHead) (priority message : Byte) (lines : Half)
    (repeats policy chime : Byte) (pr : Priority) (c : Instr) (image : List Byte) (x : CallEntry),
    s.TakesOrder n link head → s.part.plan.isSome = true → callFits priority message lines repeats policy chime pr →
    (pr = .emergency → (s.part.lane n).bridge = true) → s.part.messageLength message ≠ 0 →
    c = .call n head priority message lines repeats policy chime →
    image = orderImage head .call (callParams priority message lines repeats policy chime) →
    x = newCall n pr message lines repeats policy chime s.part.calls.nextId (if headWaits head then [n] else []) →
    (∀ q, s.part.calls.entries = [] → (s.part.prune x).lines ≠ 0 →
      ({ s.part with calls := { admitted s.part.calls n x with routine := [], urgent := [], emergency := [] } } :
        Machine.Part).Serves (s.part.prune x) q → callGoesOn s n link head c image x q) ∧
    (s.part.calls.entries = [] → (s.part.prune x).lines = 0 → headWaits head = false →
      ∃ t, exec c s = .next t ∧ s.OrderEnds t n link head (Result.of .started x.id 0 (lines.setWidth 32)) { s.part with
        calls := { admitted s.part.calls n x with
          routine := [], lastEnded := (admitted s.part.calls n x).ended x.id } }) ∧
    (∀ active : CallEntry, s.part.calls.active = some active → s.part.calls.queued < 16 →
      (∀ e ∈ s.part.calls.list pr, e.message ≠ message ∨ e.lines ≠ lines) → (∀ e ∈ s.part.calls.entries, e.id ≠ x.id) →
      active.priority.num < pr.num →
      (active.state = .playing → active.playSent = true → callGoesOn s n link head c image x { s.part with
        calls := { admitted s.part.calls n x with
          active := some { active with state := .cutting, cutReason := some .preempt } },
        player := { s.part.player with
          state := .cutting, replyTimer := some (.cutDone, 50), sentFrame := [0x32, 0, 0, 0, 0xCE] } }) ∧
      (active.state = .cutting → callGoesOn s n link head c image x { s.part with calls := admitted s.part.calls n x }) ∧
      (∀ e p q, s.part.calls.emergency = [] → s.part.calls.suspendedUrgent = none → s.part.calls.urgent = [] →
        (active.state = .chime ∧ active.chimeOnly = false ∧ e = { active with chimePending := true } ∧
            p = forEach (linesOf active.lines) withdrawChime s.part) ∨
          (active.state = .chime ∧ active.chimeOnly = true ∧ e = { active with interrupted := true } ∧
            p = forEach (linesOf active.lines) withdrawChime s.part) ∨
          (active.state = .playing ∧ active.playSent = false ∧ e = { active with interrupted := false } ∧ p = s.part) →
        ({ p with calls := { admitted s.part.calls n x with
            active := none, emergency := [], urgent := [],
            suspendedRoutine := if active.priority = .routine then some e.suspends else s.part.calls.suspendedRoutine,
            suspendedUrgent := if active.priority = .routine then none else some e.suspends } } : Machine.Part).Serves x q →
        callGoesOn s n link head c image x q)) ∧
    (s.part.calls.queued = 16 → (∀ e ∈ s.part.calls.list pr, e.message ≠ message ∨ e.lines ≠ lines) →
      (pr = .routine ∨ s.part.calls.routine = [] → head.alternate ≠ 0 →
        ∃ t, exec c s = .next t ∧ s.OrderEnds t n link head (Result.of .queueFull 0 0 (lines.setWidth 32)) s.part) ∧
      (∀ (active y : CallEntry) (rest : List CallEntry), pr ≠ .routine → s.part.calls.active = some active →
        pr.num ≤ active.priority.num → s.part.calls.routine = rest ++ [y] → y.state = .queued → y.waiting = [] →
        (∀ e ∈ s.part.calls.entries, e.id ≠ x.id) → callGoesOn s n link head c image x { s.part with
          calls := admitted { s.part.calls with routine := rest, lastEnded := s.part.calls.ended y.id } n x }))

/-- R85 to R87, R89: a CALL with parameters in range is refused NO_MESSAGE where the plan gives its message no length. With
a pool place free, no identical call queued and an active call of no lower priority, it is appended to the list of its
priority as a new entry under the next call id, becomes its lane's last call and clears that lane's last call ended flag; it
retires STARTED, or waits as the entry's first waiting record. A CALL without WAIT of the priority, message and line set of
the only call in its list is merged into it: the entry keeps all but its repeats, which become the larger, and the record
retires MERGED with the entry's id and repeats done. R91 to R93: with no other call it is selected in the event, a ROUTINE
one pruned of the lines of zones SHUTTING, SHUT or in FIRE: it chimes, has its PLAY sent, waits for the link or is served
chime-only, or ends SUPERSEDED with no line left. R96: it preempts an active call of lower priority: an outstanding PLAY is
cut, which keeps its message and its STARTED mark (the model's choice, log entry 43), a cut under way goes on, a chime or a
wait for the link ends in the suspend slot and the new call is served. R88: at a full pool a ROUTINE call is refused
QUEUE_FULL, and a higher one displaces the youngest ROUTINE entry, or is refused where there is none. Log entries 4, 28, 43
and 48. -/
def Obligations.CallIsAdmitted : Prop :=
  pruneRemovesLines ∧ callActsAtOnce ∧
  (∀ (s : State) (n : Lane) (link : Half) (head : OrderHead) (priority message : Byte) (lines : Half)
     (repeats policy chime : Byte) (pr : Priority), s.TakesOrder n link head → s.part.plan.isSome = true →
     callFits priority message lines repeats policy chime pr → (pr = .emergency → (s.part.lane n).bridge = true) →
     (s.part.messageLength message = 0 → head.alternate ≠ 0 →
       ∃ t, exec (.call n head priority message lines repeats policy chime) s = .next t ∧
         s.OrderEnds t n link head (Result.of .noMessage 0 0 (lines.setWidth 32)) s.part) ∧
     (∀ (active : CallEntry) (id : Nat) (q : Machine.Part), s.part.messageLength message ≠ 0 →
       s.part.calls.active = some active → pr.num ≤ active.priority.num → s.part.calls.queued < 16 →
       (∀ e ∈ s.part.calls.list pr, e.message ≠ message ∨ e.lines ≠ lines) →
       id = s.part.calls.nextId → (∀ e ∈ s.part.calls.entries, e.id ≠ id) →
       q = { s.part with calls := { s.part.calls.setList (s.part.calls.list pr ++
             [newCall n pr message lines repeats policy chime id (if headWaits head then [n] else [])]) pr with
           nextId := if id = 255 then 1 else id + 1, lastCall := setAt s.part.calls.lastCall n (some id),
           lastEnded := setAt s.part.calls.lastEnded n false } } →
       (headWaits head = false →
         ∃ t, exec (.call n head priority message lines repeats policy chime) s = .next t ∧
           s.OrderEnds t n link head (Result.of .started id 0 (lines.setWidth 32)) q) ∧
       (headWaits head = true →
         ∃ t, exec (.call n head priority message lines repeats policy chime) s = .next t ∧
           s.OrderWaits t n link head (orderImage head .call (callParams priority message lines repeats policy chime))
             .action q))) ∧
  (∀ (s : State) (n : Lane) (link : Half) (head : OrderHead) (priority message : Byte) (lines : Half)
     (repeats policy chime : Byte) (pr : Priority) (e : CallEntry), s.TakesOrder n link head →
     s.part.plan.isSome = true → callFits priority message lines repeats policy chime pr →
     (pr = .emergency → (s.part.lane n).bridge = true) → headWaits head = false → s.part.messageLength message ≠ 0 →
     s.part.calls.list pr = [e] → e.priority = pr → e.message = message → e.lines = lines →
     (∀ x ∈ s.part.calls.entries, x.id = e.id → x = e) →
     ∃ t, exec (.call n head priority message lines repeats policy chime) s = .next t ∧
       s.OrderEnds t n link head (Result.of .merged e.id (word e.repeatsDone) (lines.setWidth 32))
         { s.part with calls := { s.part.calls.setList [{ e with repeats := Nat.max e.repeats repeats.toNat }] pr with
           lastCall := setAt s.part.calls.lastCall n (some e.id),
           lastEnded := setAt s.part.calls.lastEnded n false } })

/-- R99, R95: CANCEL CALL of an id that no call holds is DONE with first value 0; of the id of one QUEUED call with no
waiting record, on a lane that may cancel it, the call leaves its list, the lanes whose last call it was have the last call
ended flag set, and the order is DONE with first value 1; an EMERGENCY call is refused AUTHORITY to any other lane. Log
entries 4 and 48. -/
def Obligations.CancelCallEndsQueued : Prop :=
  ∀ (s : State) (n : Lane) (link : Half) (head : OrderHead) (id : Half), s.TakesOrder n link head →
    s.part.plan.isSome = true → id ≠ 0 → id.toNat ≤ 255 →
    ((∀ e ∈ s.part.calls.entries, e.id ≠ id.toNat) → ∃ t, exec (.cancelCall n head id) s = .next t ∧
      s.OrderEnds t n link head { Result.bare .done with first := some 0 } s.part) ∧
    (∀ e, s.part.calls.entries.filter (fun x => x.id == id.toNat) = [e] → e.state = .queued → e.waiting = [] →
      (e.priority = .emergency → (s.part.lane n).bridge = true) → ∃ t, exec (.cancelCall n head id) s = .next t ∧
      s.OrderEnds t n link head { Result.bare .done with first := some 1 }
        { s.part with calls := { s.part.calls.remove id.toNat with
          lastEnded := tableOf 4 (fun l =>
            getAt s.part.calls.lastEnded l || decide (getAt s.part.calls.lastCall l = some id.toNat)) } }) ∧
    (∀ e ∈ s.part.calls.entries, e.id = id.toNat → e.priority = .emergency → (s.part.lane n).bridge = false →
      head.alternate ≠ 0 → ∃ t, exec (.cancelCall n head id) s = .next t ∧
      s.OrderEnds t n link head (Result.bare .authority) s.part)

/-! ### Groups (R155, R158 to R164, R167) -/

/-- R156, R159: a mover settles whose implicit claim two lanes wait for. The older waiter, a GROUP OPEN whose other entries are
FREE or its lane's own, takes its whole need and opens; the younger waits on. -/
def releaseGrantsOldest : Prop :=
  ∀ (s : State) (m : MoverId) (h : Lane) (e : EntryId) (w1 w2 : Waiter) (held : HeldRecord) (head : OrderHead) (mode : Byte)
    (q : Machine.Part), s.Quiet → e = s.part.entryOfMover m → (s.part.mover m).motion.settleTimer = some 0 →
    (s.part.mover m).motion.state = .settling → (s.part.mover m).motion.waiting = none →
    s.part.claim e = implicitOf h → s.part.waiters = [w1, w2] → w1.lane ≠ w2.lane → w1.isGroup = true →
    w1.need.getLsbD e.val = true → w2.need.getLsbD e.val = true →
    (∀ x : EntryId, w1.need.getLsbD x.val = true → x ≠ e →
      (s.part.claim x).holder = none ∨ (s.part.claim x).holder = some w1.lane) →
    (∀ i : MoverId, w1.need.getLsbD i.val = true → s.part.leader i = i) → (s.part.lane w1.lane).nest = [] →
    (s.part.lane w1.lane).current = some held → mode.toNat ≤ 1 →
    held.bytes = orderImage head .groupOpen (groupParams mode w1.need) →
    q = (setMotion m { (s.part.mover m).motion with
        state := .idle, cause := none, reversal := false, setpoint := some (256 * (s.part.restCount m : Int)),
        speed := 0, target := none, pending := none, stopLatch := false, floatAlarm := false, brakeJudged := false,
        brakeTimer := none, settleTimer := none }
      (mapEnds m (fun x => { x with
        sent := s.part.restCount m, valve := 0, followRun := 0, settleRun := 0, endJudged := false })
        s.part)).setClaim e Claim.free →
    ∃ t, exec (.settleTimerExpiry m) s = .next t ∧
      s.RanLane t w1.lane (Part.setLane w1.lane { (s.part.lane w1.lane) with
          state := if head.next = 0 then .resting else .working, current := none,
          link := if head.next = 0 then none else some head.next, anchor := .record held.link, waitKind := none,
          holdTimer := none,
          nest := [{ record := held, opened := w1.need, claimSet := w1.need, returns := decide (mode = 1),
                     inDetour := (s.part.lane w1.lane).returnAnchor.isSome }] }
        { q with
          waiters := [w2],
          claims := tableOf 32 (fun x =>
            if w1.need.getLsbD x.val = true ∧ (q.claim x).inNest w1.lane = false then
              { holder := some w1.lane, kind := some .group, level := 1, saved := q.savedState x, status := .none }
            else q.claim x) })

/-- R155, R158 to R161: GROUP OPEN of a set that names movers by their leading ends. At a depth below 4 with every entry
FREE or the lane's own, the lane takes the entries its nest does not hold as GROUP claims of the new level, with their saved
states, adds the level, makes the record its anchor and goes on by its next link; the record stays ACTIVE. At depth 0 with
an entry held by another lane and a claim wait limit, the lane holds nothing and waits: alone, or after the one waiter
before it, but before it where both waits began in one tick and this lane is the lower. R156: the oldest waiter takes its
need at a release. Log entries 4 and 48. -/
def Obligations.GroupOpenTakesClaims : Prop :=
  releaseGrantsOldest ∧
  ∀ (s : State) (n : Lane) (link : Half) (head : OrderHead) (mode : Byte) (claimSet : Word), s.TakesOrder n link head →
    s.part.plan.isSome = true → mode.toNat ≤ 1 → (∀ m : MoverId, claimSet.getLsbD m.val = true → s.part.leader m = m) →
    ((s.part.lane n).nest.length < 4 →
      (∀ e : EntryId, claimSet.getLsbD e.val = true →
        (s.part.claim e).holder = none ∨ (s.part.claim e).holder = some n) →
      ∃ t, exec (.groupOpen n head mode claimSet) s = .next t ∧
        s.Holds t n link head.standing (Part.setLane n { (s.part.lane n).taken with
            state := if head.next = 0 then .resting else .working, current := none,
            link := if head.next = 0 then none else some head.next, anchor := .record link, waitKind := none,
            holdTimer := none,
            nest := { record := { link := link, standing := head.standing, clamped := false,
                                  bytes := orderImage head .groupOpen (groupParams mode claimSet) },
                      opened := claimSet, claimSet := claimSet, returns := decide (mode = 1),
                      inDetour := (s.part.lane n).returnAnchor.isSome } :: (s.part.lane n).nest }
          { s.part with claims := tableOf 32 (fun e =>
              if claimSet.getLsbD e.val = true ∧ (s.part.claim e).inNest n = false then
                { holder := some n, kind := some .group, level := (s.part.lane n).nest.length + 1,
                  saved := s.part.savedState e, status := .none }
              else s.part.claim e) })) ∧
    (∀ (w : Waiter) (after : List Waiter), (s.part.lane n).nest = [] → s.part.inForce.header.claimWait ≠ 0 →
      w = { lane := n, need := claimSet, isGroup := true, start := s.part.claimTicks,
            timer := s.part.inForce.header.claimWait } →
      (s.part.waiters = [] ∧ after = [w]) ∨
        (∃ w0, s.part.waiters = [w0] ∧ w0.lane ≠ n ∧
          after = if w0.start = s.part.claimTicks ∧ n.val < w0.lane.val then [w, w0] else [w0, w]) →
      (∃ e : EntryId, claimSet.getLsbD e.val = true ∧ (s.part.claim e).holder.isSome = true ∧
        (s.part.claim e).holder ≠ some n) →
      ∃ t, exec (.groupOpen n head mode claimSet) s = .next t ∧
        s.OrderWaits t n link head (orderImage head .groupOpen (groupParams mode claimSet)) .claim
          { s.part with waiters := after })

/-- R162: GROUP CLOSE is NOT_CLAIMED at depth 0. At depth 1, with the level's actuators at rest and no waiter, the lane's
GROUP claims become FREE and its nest empty; the GROUP OPEN record retires DONE with the level and its claim set, and the
GROUP CLOSE record DONE with the depth and no claim left, its next link followed. That a claim of the lane which is no GROUP
claim is not shown as left is the model's choice (log entry 47). Log entries 4, 47 and 48. -/
def Obligations.GroupCloseReleases : Prop :=
  ∀ (s : State) (n : Lane) (link : Half) (head : OrderHead), s.TakesOrder n link head → s.part.plan.isSome = true →
    ((s.part.lane n).nest = [] → head.alternate ≠ 0 → ∃ t, exec (.groupClose n head) s = .next t ∧
      s.OrderEnds t n link head { Result.bare .notClaimed with detail := some 0 } s.part) ∧
    (∀ top : Level, (s.part.lane n).nest = [top] → top.record.link ≠ link → linkValid top.record.link = true →
      top.record.clamped = false → (∀ e ∈ setEntries top.claimSet, s.part.steady e = true) → s.part.waiters = [] →
      ∃ t, exec (.groupClose n head) s = .next t ∧
        s.RetiresBoth t n top.record.link link
          (if top.record.standing then readByte s.mem (slotBase top.record.link) else ownerRetired)
          (retiredOwner head.standing)
          { Result.bare .done with detail := some 1, first := some top.opened }
          { Result.bare .done with detail := some 1, first := some 0 }
          (Part.setLane n { (s.part.lane n).taken.goesOn link head.next with
              retired := (s.part.lane n).retired + 2, nest := [] }
            { s.part with claims := mapAll (fun c => if c.inNest n then Claim.free else c) s.part.claims }))

/-- Lane `n` in ABORTING under an ABORT GROUP of code `code` in slot `link`, at depth 1 of a RETURN group (R164). -/
def abortingByReturn (c : LaneContext) (link : Half) (code : Byte) : LaneContext :=
  { c.taken with
    state := .aborting, current := none, link := none, anchor := .record link, retired := c.retired + 1,
    waitKind := none, holdTimer := none,
    abort := some { cause := .explicit, code := code.toNat, depth := 1, link := link, returnIncomplete := false,
                    furtherCause := false, stopCause := none, badLink := none, returns := true } }

/-- Lane `n`'s ABORT GROUP in slot `link` begins the abort of its RETURN group of one claim, `c` of entry `e`, which goes on: the
record ends ABORTED, the claim's return has the status, and the rest of the deck is as in `q` (R164). -/
def returnGoesOn (s : State) (n : Lane) (link : Half) (head : OrderHead) (code : Byte) (e : EntryId) (c : Claim)
    (status : ReturnStatus) (q : Machine.Part) : Prop :=
  ∃ t, exec (.abortGroup n head code) s = .next t ∧
    s.Retires t n link (retiredOwner head.standing) (Result.bare .aborted)
      (Part.setLane n (abortingByReturn (s.part.lane n) link code) (q.setClaim e { c with status := status }))

/-- The same where the abort ends in the event with the result flags `flags` (R167). -/
def returnEnds (s : State) (n : Lane) (link : Half) (head : OrderHead) (code : Byte) (top : Level) (flags : Byte)
    (q : Machine.Part) : Prop :=
  ∃ t, exec (.abortGroup n head code) s = .next t ∧
    s.RetiresBoth t n top.record.link link (anchorOwner s top) (retiredOwner head.standing)
      (Result.of .aborted (7 + 256 * code.toNat) 1 (link.setWidth 32) flags) (Result.bare .aborted) (nestEnded q n top)

/-- Mover `m` at rest in IDLE at its clamped measured position (R28, R35). -/
def broughtToIdle (m : MoverId) (p : Machine.Part) : Machine.Part :=
  setMotion m { (p.mover m).motion with
      state := .idle, cause := none, reversal := false, setpoint := some (256 * (p.restCount m : Int)), speed := 0,
      target := none, pending := none, stopLatch := false, floatAlarm := false, brakeJudged := false, brakeTimer := none,
      settleTimer := none }
    (mapEnds m (fun y => { y with sent := p.restCount m, valve := 0, followRun := 0, settleRun := 0, endJudged := false }) p)

/-- Mover `m`, in IDLE, is released toward `target` by a return drive: share 100 and no waiting record (R32, R166). -/
def releasedToward (m : MoverId) (target : Nat) (p : Machine.Part) : Machine.Part :=
  setMotion m { (p.mover m).motion with
      state := .releasing, target := some target, share := 100,
      up := decide ((p.mover m).motion.setpoint.getD 0 < 256 * (target : Int)), reversal := false, brakeJudged := false,
      brakeTimer := startTimer (p.planMover m).brakeTime, waiting := none }
    (mapEnds m (fun y => { y with followRun := 0, endJudged := false }) p)

/-- R166 (Table 8-3): the rows of a mover, the leading end of its pair, for the one claim of a RETURN group. A stop request
goes to one with no saved state, and to one whose zone is not LOADING, which is ZONE_LIMITED. In a LOADING zone an IDLE one is
driven to its saved position, UNDER_WAY; with no way to go it is MET, and INCOMPLETE where its MOVE is refused, as a FLOATING
one is; a FLOATING one leaves its float; a MOVING one takes the position as its pending target; a STOPPING or SETTLING one is
PENDING; a RELEASING one returns to IDLE and gets its drive in the event; a LOCAL, FAULTED or OFFLINE one is INCOMPLETE. -/
def moverReturns (s : State) (n : Lane) (link : Half) (head : OrderHead) (code : Byte) (top : Level) (e : EntryId) (c : Claim) :
    Prop :=
  ∀ (m : MoverId) (mo : Motion), e = s.part.entryOfMover m → s.part.leader m = m → mo = (s.part.mover m).motion →
    mo.waiting = none → (∀ d, (s.part.door d).state ≠ .waitClear) →
    (∀ status, (c.saved = none ∧ c.status = .none ∧ status = .none) ∨
        ((∃ x, c.saved = some (.position x)) ∧ (s.part.zone (s.part.planMover m).zone).state ≠ .loading ∧
          status = .zoneLimited) →
      (mo.state.steady = true → returnEnds s n link head code top 0 s.part) ∧
      (mo.state = .releasing → returnEnds s n link head code top 0 (broughtToIdle m s.part)) ∧
      (mo.state = .moving → returnGoesOn s n link head code e c status
        (setMotion m { mo with state := .stopping, stopLatch := true, pending := none } s.part)) ∧
      (mo.state = .stopping ∨ mo.state = .settling → returnGoesOn s n link head code e c status s.part)) ∧
    (∀ x : Nat, c.saved = some (.position x) → (s.part.zone (s.part.planMover m).zone).state = .loading →
      (mo.state = .idle → ∀ target, (s.part.judgeMove m 0 x).verdict = .starts target →
        returnGoesOn s n link head code e c .underWay (releasedToward m target s.part)) ∧
      (mo.state = .idle → (s.part.judgeMove m 0 x).verdict = .zero → returnEnds s n link head code top 0 s.part) ∧
      (mo.state = .idle ∨ mo.state = .floating → ∀ why index, (s.part.judgeMove m 0 x).verdict = .refused why index →
        returnEnds s n link head code top flagReturnIncomplete s.part) ∧
      (mo.state = .floating → ∀ target, (s.part.judgeMove m 0 x).verdict = .leavesFloat target →
        returnGoesOn s n link head code e c .underWay
          (setMotion m { mo with
              state := .moving, phase := .accel, reversal := false, setpoint := some (256 * (s.part.restCount m : Int)),
              speed := 0, target := some target, share := 100, up := decide (s.part.restCount m < target),
              floatAlarm := false }
            (mapEnds m (fun y => { y with followRun := 0, sent := s.part.restCount m }) s.part))) ∧
      (mo.state = .moving → ∀ target : Nat, (target : Int) =
          max ((s.part.planMover m).lower : Int) (min ((s.part.planMover m).upper : Int) x) →
        returnGoesOn s n link head code e c .underWay
          (setMotion m { mo with pending := some { target := target, share := 100 } } s.part)) ∧
      (mo.state = .stopping ∨ mo.state = .settling → returnGoesOn s n link head code e c .pending s.part) ∧
      (mo.state = .releasing → ∀ target, ((broughtToIdle m s.part).judgeMove m 0 x).verdict = .starts target →
        returnGoesOn s n link head code e c .underWay (releasedToward m target (broughtToIdle m s.part))) ∧
      (mo.state = .localMode ∨ mo.state = .faulted ∨ mo.state = .offline →
        returnEnds s n link head code top flagReturnIncomplete s.part))

/-- R166 (Table 8-3), R74, R75: the rows of a door for the one claim of a RETURN group. A halt request goes to one with no saved
state: a steady door is left, one in motion is HALTED unless a zone asks it to close. A door in its saved state is MET. Saved
CLOSED, an OPEN or HALTED one begins a closing sequence; saved OPEN, a CLOSED or HALTED one opens where no zone and no forced close
keeps it from it; UNDER_WAY. One that a zone keeps closed is ZONE_LIMITED; a LOCAL, FAULTED or OFFLINE one is INCOMPLETE. -/
def doorReturns (s : State) (n : Lane) (link : Half) (head : OrderHead) (code : Byte) (top : Level) (e : EntryId) (c : Claim) :
    Prop :=
  ∀ (d : DoorId) (x : Door) (zoneAsks : Prop), e = doorEntry d → x = s.part.door d → x.waiting = none →
    (zoneAsks ↔ x.zoneOrigin = true ∨
      ∃ k ∈ s.part.doorZones d, (s.part.zone k).state = .shutting ∨ (s.part.zone k).state = .shut) →
    (c.saved = none → c.status = .none →
      (x.state.steady = true → returnEnds s n link head code top 0 s.part) ∧
      (x.state.steady = false → x.zoneOrigin = false → returnEnds s n link head code top 0
        (syncWarn d (s.part.setDoor d { x with
          state := .halted, laneOrigin := false, forced := false, leadCounter := 0, motionTimer := none,
          retryTimer := none }))) ∧
      (x.state.steady = false → x.zoneOrigin = true →
        returnGoesOn s n link head code e c .none (s.part.setDoor d { x with laneOrigin := false }))) ∧
    ((x.state = .closed ∧ c.saved = some .closed) ∨ (x.state = .opened ∧ c.saved = some .opened) →
      returnEnds s n link head code top 0 s.part) ∧
    (∀ lead, c.saved = some .closed → x.state = .opened ∨ x.state = .halted →
      lead = (if x.forced = true ∨ (x.zoneOrigin = true ∧ ∃ k ∈ s.part.doorZones d, (s.part.zone k).level = .fire) then
        (s.part.planDoor d).fireLead else (s.part.planDoor d).lead) → lead ≠ 0 →
      returnGoesOn s n link head code e c .underWay (syncWarn d (s.part.setDoor d { x with
        state := .warning, laneOrigin := true, retries := 0, leadCounter := 0, motionTimer := none, retryTimer := none,
        lead := lead }))) ∧
    (c.saved = some .opened → ¬ zoneAsks → x.forced = false → x.state = .closed ∨ x.state = .halted →
      returnGoesOn s n link head code e c .underWay (doorMoved s.part d { x with
        state := .opening, laneOrigin := false, leadCounter := 0, retryTimer := none,
        motionTimer := some (s.part.planDoor d).motionLimit } s.part)) ∧
    (c.saved = some .opened → zoneAsks → x.state = .closed ∨ x.state = .halted →
      returnEnds s n link head code top 0 s.part) ∧
    (c.saved = some .closed ∨ (c.saved = some .opened ∧ ¬ zoneAsks ∧ x.forced = false) →
      x.state = .localMode ∨ x.state = .faulted ∨ x.state = .offline →
      returnEnds s n link head code top flagReturnIncomplete s.part)

/-- R164, R166, R167: ABORT GROUP at depth 1 of a RETURN group of one claim acts on it by Table 8-3. -/
def returnAborts : Prop :=
  ∀ (s : State) (n : Lane) (link : Half) (head : OrderHead) (code : Byte) (top : Level) (e : EntryId) (c : Claim),
    s.TakesOrder n link head → s.part.plan.isSome = true → (s.part.lane n).nest = [top] → top.record.link ≠ link →
    linkValid top.record.link = true → top.record.clamped = false → top.returns = true → s.part.claim e = c →
    c.holder = some n → c.kind = some .group → (∀ x, x ≠ e → (s.part.claim x).inNest n = false) →
    s.part.waiters = [] → s.part.Unwaited n →
    moverReturns s n link head code top e c ∧ doorReturns s n link head code top e c

/-- R163, R164, R167: ABORT GROUP is NOT_CLAIMED at depth 0. At depth 1 of a HALT group whose actuators are at rest, with no
claim PENDING and no waiter, the abort begins and ends in the event: the claims become FREE, the GROUP OPEN record retires
ABORTED with the cause EXPLICIT and the code, the depth and the link of the ABORT GROUP record, which ends ABORTED; the lane
goes on by the group's fallback link, or stops GROUP_ABORTED where that is null. R166: that of a RETURN group of one claim acts
on it by the rows of Table 8-3: a stop or halt request with no saved state; for a mover outside LOADING a stop request,
ZONE_LIMITED; inside it a return drive, UNDER_WAY, one that is PENDING, or INCOMPLETE; for a door the return to its saved CLOSED
or OPEN. A mover that is driven has its brake timer started where its brake release time is not 0 (R32, R110). That a return to
CLOSED counts no retry is the model's choice (log entry 34). Log entries 4, 25, 34 and 48. -/
def Obligations.AbortGroupEndsNest : Prop :=
  returnAborts ∧ ∀ (s : State) (n : Lane) (link : Half) (head : OrderHead) (code : Byte), s.TakesOrder n link head →
    s.part.plan.isSome = true →
    ((s.part.lane n).nest = [] → head.alternate ≠ 0 → ∃ t, exec (.abortGroup n head code) s = .next t ∧
      s.OrderEnds t n link head { Result.bare .notClaimed with detail := some 0 } s.part) ∧
    (∀ top : Level, (s.part.lane n).nest = [top] → top.record.link ≠ link → linkValid top.record.link = true →
      top.record.clamped = false → top.returns = false →
      (∀ e, (s.part.claim e).inNest n = true → s.part.steady e = true ∧ (s.part.claim e).status ≠ .pending) →
      s.part.waiters = [] → (∀ m, (s.part.mover m).motion.waiting ≠ some n) → (∀ d, (s.part.door d).waiting ≠ some n) →
      (∀ e ∈ s.part.calls.entries, n ∉ e.waiting) →
      ∃ t, exec (.abortGroup n head code) s = .next t ∧
        s.RetiresBoth t n top.record.link link (anchorOwner s top) (retiredOwner head.standing)
          (Result.of .aborted (7 + 256 * code.toNat) 1 (link.setWidth 32)) (Result.bare .aborted) (nestEnded s.part n top))

/-! ### The deck plan (R23, R55, R82, R177 to R182) -/

/-- The fields that R179 tests, in its order, each with the range or the condition of Tables 10-2 to 10-6; of a condition over two
fields the one that it is reported at (log entry 20). Nothing of an entry that is not enabled is tested beyond that bit. -/
def planFields (a : Area) : List (FieldRef × Prop) :=
  [(⟨0, 0, 4⟩, 1 ≤ a.byte 4 ∧ a.byte 4 ≤ 8), (⟨0, 0, 5⟩, a.byte 5 ≤ 8), (⟨0, 0, 7⟩, 1 ≤ a.byte 7 ∧ a.byte 7 ≤ 8),
   (⟨0, 0, 8⟩, 1 ≤ a.byte 8 ∧ a.byte 8 ≤ 8), (⟨0, 0, 9⟩, 1 ≤ a.byte 9 ∧ a.byte 9 ≤ 8)] ++
  (List.range 12).flatMap (fun k =>
    let b := 64 + 32 * k
    if a.bit b then [(⟨1, k, 6⟩, 1 ≤ a.byte (b + 6) ∧ a.byte (b + 6) ≤ 8)] else []) ++
  (List.range 8).flatMap (fun m =>
    let b := 448 + 128 * m
    if a.bit b then
      [(⟨2, m, 1⟩, a.byte (b + 1) ≤ 2), (⟨2, m, 2⟩, a.byte (b + 2) ≤ 11),
       (⟨2, m, 3⟩, (a.byte (b + 1) ≠ 2 → a.byte (b + 3) = 255) ∧ (a.byte (b + 1) = 2 →
          ∃ q c, a.byte (b + 3) = q ∧ q < 8 ∧ q ≠ m ∧ c = 448 + 128 * q ∧ a.bit c = true ∧ a.byte (c + 1) = 2 ∧
            a.byte (c + 3) = m ∧ a.byte (c + 2) = a.byte (b + 2))),
       (⟨2, m, 4⟩, a.half (b + 4) < a.half (b + 6)),
       (⟨2, m, 19⟩, a.byte (b + 19) = 255 ∨ (a.byte (b + 19) ≤ 7 ∧ a.byte (b + 19) ≠ m)),
       (⟨2, m, 25⟩, a.byte (b + 19) = 255 ∨ (1 ≤ a.byte (b + 25) ∧ a.byte (b + 25) ≤ 8)),
       (⟨2, m, 48⟩, a.byte (b + 1) = 2 →
          Nat.max 1 (Nat.min 1023 (a.half (b + 48))) < Nat.max 1 (Nat.min 1023 (a.half (b + 50))))]
    else []) ++
  (List.range 24).flatMap (fun d =>
    let b := 1472 + 32 * d
    if a.bit b then
      [(⟨3, d, 1⟩, a.byte (b + 1) ≤ 11),
       (⟨3, d, 2⟩, a.byte (b + 2) = 255 ∨ (a.byte (b + 2) ≤ 11 ∧ a.byte (b + 2) ≠ a.byte (b + 1)))]
    else []) ++
  (List.range 8).map (fun j => (⟨4, j + 1, 0⟩, 2 ≤ a.half (2240 + 8 * j)))

/-- A value brought to the nearer end of its range (R180). -/
def nearest (lo hi x : Nat) : Nat := max lo (min hi x)

/-- The fields of an enabled entry that R180 clamps, in the order of R179, each with the value read and its range (Tables 10-2 to
10-6); a range that depends on another field has that field's clamped value as its end. -/
def clampedFields (a : Area) : List (FieldRef × Nat × Nat × Nat) :=
  [(⟨0, 0, 6⟩, a.byte 6, 1, 15)] ++
  (List.range 12).flatMap (fun k =>
    let b := 64 + 32 * k
    if a.bit b then [(⟨1, k, 2⟩, a.half (b + 2), 0, 12000)] else []) ++
  (List.range 8).flatMap (fun m =>
    let b := 448 + 128 * m
    let vmax := nearest 1 32767 (a.half (b + 8))
    if a.bit b then
      [(⟨2, m, 8⟩, a.half (b + 8), 1, 32767), (⟨2, m, 10⟩, a.half (b + 10), 1, 4095),
       (⟨2, m, 12⟩, a.half (b + 12), 1, nearest 1 vmax (a.half (b + 14))), (⟨2, m, 14⟩, a.half (b + 14), 1, vmax),
       (⟨2, m, 16⟩, a.half (b + 16), 0, 4095), (⟨2, m, 20⟩, a.half (b + 20), 0, 4095),
       (⟨2, m, 22⟩, a.half (b + 22), 1, 4095), (⟨2, m, 24⟩, a.byte (b + 24), 1, 255),
       (⟨2, m, 26⟩, a.half (b + 26), 0, 4095), (⟨2, m, 30⟩, a.half (b + 30), 0, 500)] ++
      (List.range 8).map (fun i =>
        (⟨2, m, 32 + 2 * i⟩, a.half (b + 32 + 2 * i), a.half (b + 4), a.half (b + 6))) ++
      [(⟨2, m, 48⟩, a.half (b + 48), 1, 1023), (⟨2, m, 50⟩, a.half (b + 50), 1, 1023)]
    else []) ++
  (List.range 24).flatMap (fun d =>
    let b := 1472 + 32 * d
    if a.bit b then
      [(⟨3, d, 3⟩, a.byte (b + 3), 0, 7), (⟨3, d, 4⟩, a.half (b + 4), 0, 6000),
       (⟨3, d, 6⟩, a.half (b + 6), 0, nearest 0 6000 (a.half (b + 4))), (⟨3, d, 8⟩, a.half (b + 8), 100, 12000),
       (⟨3, d, 10⟩, a.half (b + 10), 0, 6000)]
    else []) ++
  (List.range 8).flatMap (fun j =>
    let b := 2240 + 8 * j
    [(⟨4, j + 1, 0⟩, a.half b, 2, 4095), (⟨4, j + 1, 2⟩, a.half (b + 2), 0, nearest 2 4095 (a.half b) - 1)])

/-- The fields that lie outside their ranges, so that R180 clamps them. -/
def outsideRange (a : Area) : List FieldRef :=
  ((clampedFields a).filter (fun f => decide (f.2.1 < f.2.2.1) || decide (f.2.2.2 < f.2.1))).map (fun f => f.1)

/-- R178, R180: the plan header, the patterns and the messages of a copy of the area (Tables 10-2 and 10-6). -/
def figuresCopied (a : Area) (plan : Plan) : Prop :=
  plan.header.claimWait = a.half 0 ∧ plan.header.muster = BitVec.ofNat 16 (a.half 2) ∧
  plan.header.firePattern = a.byte 4 ∧ plan.header.fireChime = a.byte 5 ∧
  plan.header.fireRepeats = nearest 1 15 (a.byte 6) ∧ plan.header.chimeRoutine = a.byte 7 ∧
  plan.header.chimeUrgent = a.byte 8 ∧ plan.header.chimeEmergency = a.byte 9 ∧
  (∀ j : Fin 8, (getAt plan.patterns j).period = nearest 2 4095 (a.half (2240 + 8 * j.val)) ∧
    (getAt plan.patterns j).lead =
      nearest 0 (nearest 2 4095 (a.half (2240 + 8 * j.val)) - 1) (a.half (2240 + 8 * j.val + 2)) ∧
    (getAt plan.patterns j).count = a.byte (2240 + 8 * j.val + 4)) ∧
  plan.messages = (List.range 255).map (fun i => a.half (2304 + 2 * i))

/-- R178, R180: the zone entries of a copy (Table 10-3). Of an entry that is not enabled nothing is clamped (log entry 36), and the
warn pattern is the byte's where that names one (log entry 24). -/
def zonesCopied (a : Area) (plan : Plan) : Prop :=
  ∀ (k : ZoneId) (b : Nat) (z : PlanZone), b = 64 + 32 * k.val → z = getAt plan.zones k →
    z.enabled = (a b).getLsbD 0 ∧ z.autoShut = (a (b + 1)).getLsbD 0 ∧ z.fireMessage = a (b + 4) ∧ z.shutMessage = a (b + 5) ∧
    z.confirm = (if z.enabled then nearest 0 12000 (a.half (b + 2)) else a.half (b + 2)) ∧
    (1 ≤ a.byte (b + 6) → a.byte (b + 6) ≤ 8 → z.warnPattern = a.byte (b + 6))

/-- R178, R180: the mover entries of a copy (Table 10-4); `fit` clamps a value of an enabled entry alone (log entry 36). -/
def moversCopied (a : Area) (plan : Plan) : Prop :=
  ∀ (m : MoverId) (b : Nat) (x : PlanMover) (fit : Nat → Nat → Nat → Nat), b = 448 + 128 * m.val → x = getAt plan.movers m →
    fit = (fun lo hi v => if x.enabled then nearest lo hi v else v) →
    x.enabled = (a b).getLsbD 0 ∧ (x.kind = .ramp ↔ a.byte (b + 1) = 0) ∧ (x.kind = .visor ↔ a.byte (b + 1) = 1) ∧
    (x.zoned = true ↔ a.byte (b + 2) < 12) ∧ (a.byte (b + 2) < 12 → x.zone.val = a.byte (b + 2)) ∧
    (∀ q : MoverId, x.partner = some q ↔ a.byte (b + 3) = q.val) ∧ x.lower = a.half (b + 4) ∧ x.upper = a.half (b + 6) ∧
    x.vmax = fit 1 32767 (a.half (b + 8)) ∧ x.accel = fit 1 4095 (a.half (b + 10)) ∧
    x.vapp = fit 1 x.vmax (a.half (b + 14)) ∧ x.vc = fit 1 x.vapp (a.half (b + 12)) ∧
    x.dapp = fit 0 4095 (a.half (b + 16)) ∧ x.kp = a.byte (b + 18) ∧
    (∀ q : MoverId, x.prerequisite = some q ↔ a.byte (b + 19) = q.val) ∧ x.kf = fit 0 4095 (a.half (b + 20)) ∧
    x.efollow = fit 1 4095 (a.half (b + 22)) ∧ x.etol = fit 1 255 (a.byte (b + 24)) ∧ x.prePreset = a.byte (b + 25) ∧
    x.preTolerance = fit 0 4095 (a.half (b + 26)) ∧ x.settleLimit = a.half (b + 28) ∧
    x.brakeTime = fit 0 500 (a.half (b + 30)) ∧
    (∀ i : Fin 8, getAt x.presets i = fit x.lower x.upper (a.half (b + 32 + 2 * i.val))) ∧
    x.shold = fit 1 1023 (a.half (b + 48)) ∧ x.sfault = fit 1 1023 (a.half (b + 50)) ∧
    x.floatWindow = a.half (b + 52) ∧ x.floatMin = a.half (b + 54) ∧ x.floatMax = a.half (b + 56)

/-- R178, R180: the door entries of a copy (Table 10-5), as those of the movers. -/
def doorsCopied (a : Area) (plan : Plan) : Prop :=
  ∀ (d : DoorId) (b : Nat) (x : PlanDoor) (fit : Nat → Nat → Nat → Nat), b = 1472 + 32 * d.val → x = getAt plan.doors d →
    fit = (fun lo hi v => if x.enabled then nearest lo hi v else v) →
    x.enabled = (a b).getLsbD 0 ∧ (a.byte (b + 1) < 12 → x.zoneA.val = a.byte (b + 1)) ∧
    (∀ k : ZoneId, x.zoneB = some k ↔ a.byte (b + 2) = k.val) ∧ x.retries = fit 0 7 (a.byte (b + 3)) ∧
    x.lead = fit 0 6000 (a.half (b + 4)) ∧ x.fireLead = fit 0 x.lead (a.half (b + 6)) ∧
    x.motionLimit = fit 100 12000 (a.half (b + 8)) ∧ x.retryDelay = fit 0 6000 (a.half (b + 10))

/-- `i` is the lowest index with the property (log entry 45). -/
def lowestWith {n : Nat} (P : Fin n → Prop) (i : Fin n) : Prop := P i ∧ ∀ x, x.val < i.val → ¬ P x

/-- The pair partner that the area names for a mover: that of an enabled entry of kind PANEL_END (R181; log entry 46). -/
def partnerNamed (a : Area) (m q : MoverId) : Prop :=
  a.bit (448 + 128 * m.val) = true ∧ a.byte (448 + 128 * m.val + 1) = 2 ∧ a.byte (448 + 128 * m.val + 3) = q.val

/-- The plan of the area would disable the actuator of entry `e`, or make or unmake a pair of the mover that it is (R181, test 4;
log entry 46). -/
def wouldUpset (p : Machine.Part) (a : Area) (e : EntryId) : Prop :=
  (∃ m : MoverId, m.val = e.val ∧ ∃ x, (x = m ∨ p.partner m = some x) ∧
    (((p.planMover x).enabled = true ∧ a.bit (448 + 128 * x.val) = false) ∨
      ∃ q, ¬ (partnerNamed a x q ↔ p.partner x = some q))) ∨
  ∃ d : DoorId, 8 + d.val = e.val ∧ (p.planDoor d).enabled = true ∧ a.bit (1472 + 32 * d.val) = false

/-- R181: the first test of the quiet deck that an ADOPT PLAN of lane `n` fails, with its detail and first value. -/
def deckIsBusy (p : Machine.Part) (n : Lane) (a : Area) (detail first : Nat) : Prop :=
  ∃ (moves : MoverId → Prop) (runs : DoorId → Prop) (grouped : Lane → Prop) (held : EntryId → Prop),
    (∀ m, moves m ↔ (p.mover m).motion.state ∈ [.releasing, .moving, .stopping, .settling]) ∧
    (∀ d, runs d ↔ (p.door d).state ∈ [.warning, .waitClear, .closing, .reversing, .retryWait, .opening]) ∧
    (∀ l, grouped l ↔ l ≠ n ∧ (p.lane l).nest ≠ []) ∧
    (∀ e, held e ↔ (p.claim e).holder.isSome = true ∧ wouldUpset p a e) ∧
    ((detail = 1 ∧ ∃ m, lowestWith moves m ∧ first = m.val) ∨
     ((∀ m, ¬ moves m) ∧ detail = 2 ∧ ∃ d, lowestWith runs d ∧ first = d.val) ∨
     ((∀ m, ¬ moves m) ∧ (∀ d, ¬ runs d) ∧ detail = 3 ∧ ∃ l, lowestWith grouped l ∧ first = l.val) ∨
     ((∀ m, ¬ moves m) ∧ (∀ d, ¬ runs d) ∧ (∀ l, ¬ grouped l) ∧ detail = 4 ∧ ∃ e, lowestWith held e ∧ first = e.val))

/-- The result of an adoption that gives generation `gen` and has clamped these fields (R182). -/
def adoptionResult (gen : Word) : List FieldRef → Result
  | [] => Result.of .done 0 gen 0
  | f :: rest =>
    Result.of .done (f.table + 256 * f.entry) gen (word (f.offset + 65536 * (rest.length + 1))) flagClamped

/-- R181: an ADOPT PLAN from a bridge lane that finds the deck not quiet is refused BUSY with what keeps it, whatever the area
holds, and changes nothing. -/
def busyDeckRefuses : Prop :=
  ∀ (s : State) (n : Lane) (link : Half) (head : OrderHead) (target : Half) (detail first : Nat), s.TakesOrder n link head →
    (s.part.lane n).bridge = true → 48 ≤ target.toNat → target.toNat ≤ 4052 →
    readImage s.mem link = orderImage head .adoptPlan (halfBytes target) →
    deckIsBusy s.part n (areaAt s.mem target) detail first → head.alternate ≠ 0 →
    ∃ t, exec (.adoptPlan n head target) s = .next t ∧
      s.OrderEnds t n link head
        { Result.bare .busy with detail := some (BitVec.ofNat 16 detail), first := some (word first) } s.part

/-- R178 to R182 with R23, R55, R82 and R177: an ADOPT PLAN that finds the deck not quiet is refused BUSY by the first test of
R181 that fails. The first ADOPT PLAN, of a deck at its reset values, from a bridge lane whose record stands in its slot: an
area with an offending field is refused PLAN_INVALID with the table, the entry and the offset of the first one in the order of
R179, and changes nothing; the first offending field is that which the tests find. A fit area becomes the plan under the next
generation, which the header mirrors, and the part is READY: each field of the copy is that of its table and offset, brought
to the nearer end of its range where R180 clamps it. Movers and doors stay OFFLINE, each enabled zone counts its doors as not
closed, the stations of what is enabled are polled, no line has a FIRE demand, and the order is DONE with the new generation;
where fields were clamped, CLAMPED is set and the first of them and their number are shown. An entry that is not enabled is
kept as it was read (log entry 36), its warn pattern where its byte names one (log entry 24). Log entries 4, 20, 24, 36, 45, 46
and 48. -/
def Obligations.AdoptPlanFirst : Prop :=
  (∀ a : Area, (a.invalid = none ↔ ∀ f ∈ planFields a, f.2) ∧ (∀ f, a.invalid = some f ↔ firstUnfit (planFields a) f) ∧
    figuresCopied a a.plan ∧ zonesCopied a a.plan ∧ moversCopied a a.plan ∧ doorsCopied a a.plan) ∧
  busyDeckRefuses ∧
  ∀ (s : State) (n : Lane) (link : Half) (head : OrderHead) (target : Half) (a : Area), s.TakesOrder n link head →
    (s.part.lane n).bridge = true → 48 ≤ target.toNat → target.toNat ≤ 4052 →
    readImage s.mem link = orderImage head .adoptPlan (halfBytes target) → a = areaAt s.mem target →
    s.part.plan = none → s.part.port.partState = .planWait → (∀ k, s.part.zone k = Zone.reset) →
    (∀ m, s.part.mover m = Mover.reset) → (∀ d, s.part.door d = Door.reset) → (∀ st, s.part.station st = Station.reset) →
    s.part.field.due = [] → s.part.field.exchange = none → (∀ e, (s.part.claim e).holder = none) →
    (∀ l, l ≠ n → (s.part.lane l).nest = []) → s.part.waiters = [] →
    (∀ f, firstUnfit (planFields a) f → head.alternate ≠ 0 → ∃ t, exec (.adoptPlan n head target) s = .next t ∧
      s.OrderEnds t n link head
        (Result.of .planInvalid (f.table + 256 * f.entry) s.part.generation (word f.offset)) s.part) ∧
    ((∀ f ∈ planFields a, f.2) → ∃ t, exec (.adoptPlan n head target) s = .next t ∧
      t.part.plan = some a.plan ∧ t.part.generation = s.part.generation + 1 ∧
      readHalf t.mem 4 = (s.part.generation + 1).setWidth 16 ∧ (t.part.slot 51).waiting = true ∧
      t.part.port = { s.part.port with partState := .ready } ∧
      (∀ k, t.part.zone k = { Zone.reset with
        notClosed := if (a.planZone k).enabled then ((List.finRange 24).filter (fun d => (a.planDoor d).enabled &&
          (((a.planDoor d).zoneA == k) || ((a.planDoor d).zoneB == some k)))).length else 0 }) ∧
      t.part.movers = s.part.movers ∧ t.part.doors = s.part.doors ∧
      (∀ st, t.part.station st = { Station.reset with polled := a.plan.enables st }) ∧
      (∀ l : LineId, (t.part.line l).fire = false) ∧
      t.part.lane n = (s.part.lane n).taken.goesOn link head.next ∧ (∀ l, l ≠ n → t.part.lane l = s.part.lane l) ∧
      t.part.claims = s.part.claims ∧ t.part.calls = s.part.calls ∧ t.part.player = s.part.player ∧
      t.part.time = s.part.time ∧ t.pending = s.pending ∧
      readByte t.mem (slotBase link) = retiredOwner head.standing ∧
      ShowsResult t.mem link (adoptionResult (s.part.generation + 1) (outsideRange a)) ∧
      ∀ b, outsideSlot link b → outsideLane n b → b ≠ 4 → b ≠ 5 → readByte t.mem b = readByte s.mem b)
end

