-- ==== Sys2Proof/Laws/State.lean ====
section
/-! SUPPORT. What each update of the part leaves of each field and of each record. -/

namespace Sys2Proof.Machine

variable (p : Part)

/-! ### Tables -/

@[simp] theorem getAt_setAt_same {α : Type} {n : Nat} (t : Vector α n) (i : Fin n) (x : α) : getAt (setAt t i x) i = x := by
  simp [getAt, setAt]

@[simp] theorem getAt_setAt_ne {α : Type} {n : Nat} (t : Vector α n) {i j : Fin n} (x : α) (h : i ≠ j) :
    getAt (setAt t i x) j = getAt t j := by
  have h' : i.val ≠ j.val := fun e => h (Fin.ext e)
  simp [getAt, setAt, h']

theorem getAt_setAt {α : Type} {n : Nat} (t : Vector α n) (i j : Fin n) (x : α) :
    getAt (setAt t i x) j = if i = j then x else getAt t j := by
  by_cases h : i = j
  · subst h; simp
  · simp [h]

@[simp] theorem getAt_mapAll {α β : Type} {n : Nat} (f : α → β) (t : Vector α n) (i : Fin n) :
    getAt (mapAll f t) i = f (getAt t i) := by
  simp [getAt, mapAll]

@[simp] theorem getAt_tableOf {α : Type} (n : Nat) (f : Fin n → α) (i : Fin n) : getAt (tableOf n f) i = f i := by
  simp [getAt, tableOf]

@[simp] theorem getAt_replicate {α : Type} (n : Nat) (x : α) (i : Fin n) : getAt (Vector.replicate n x) i = x := by
  simp [getAt]

theorem table_ext {α : Type} {n : Nat} {s t : Vector α n} (h : ∀ i, getAt s i = getAt t i) : s = t := by
  apply Vector.ext
  intro i hi
  exact h ⟨i, hi⟩

@[simp] theorem setAt_getAt_same {α : Type} {n : Nat} (t : Vector α n) (i : Fin n) : setAt t i (getAt t i) = t := by
  apply table_ext
  intro j
  rw [getAt_setAt]
  split
  · next h => rw [h]
  · rfl

@[simp] theorem setAt_setAt {α : Type} {n : Nat} (t : Vector α n) (i : Fin n) (x y : α) :
    setAt (setAt t i x) i y = setAt t i y := by
  apply table_ext
  intro j
  simp only [getAt_setAt]
  split <;> rfl

/-! ### Part.emit -/

section
variable (acts : List Act)

@[simp] theorem Part.emit_time : (p.emit acts).time = p.time := rfl
@[simp] theorem Part.emit_zones : (p.emit acts).zones = p.zones := rfl
@[simp] theorem Part.emit_movers : (p.emit acts).movers = p.movers := rfl
@[simp] theorem Part.emit_doors : (p.emit acts).doors = p.doors := rfl
@[simp] theorem Part.emit_calls : (p.emit acts).calls = p.calls := rfl
@[simp] theorem Part.emit_player : (p.emit acts).player = p.player := rfl
@[simp] theorem Part.emit_lines : (p.emit acts).lines = p.lines := rfl
@[simp] theorem Part.emit_board : (p.emit acts).board = p.board := rfl
@[simp] theorem Part.emit_lanes : (p.emit acts).lanes = p.lanes := rfl
@[simp] theorem Part.emit_claims : (p.emit acts).claims = p.claims := rfl
@[simp] theorem Part.emit_waiters : (p.emit acts).waiters = p.waiters := rfl
@[simp] theorem Part.emit_claimTicks : (p.emit acts).claimTicks = p.claimTicks := rfl
@[simp] theorem Part.emit_field : (p.emit acts).field = p.field := rfl
@[simp] theorem Part.emit_plan : (p.emit acts).plan = p.plan := rfl
@[simp] theorem Part.emit_generation : (p.emit acts).generation = p.generation := rfl
@[simp] theorem Part.emit_port : (p.emit acts).port = p.port := rfl
@[simp] theorem Part.emit_agenda : (p.emit acts).agenda = p.agenda ++ acts := rfl
@[simp] theorem Part.emit_writes : (p.emit acts).writes = p.writes := rfl
@[simp] theorem Part.emit_forced : (p.emit acts).forced = p.forced := rfl
@[simp] theorem Part.emit_openValues : (p.emit acts).openValues = p.openValues := rfl
@[simp] theorem Part.emit_openCount : (p.emit acts).openCount = p.openCount := rfl
@[simp] theorem Part.emit_zone' (k' : ZoneId) : (p.emit acts).zone k' = p.zone k' := rfl
@[simp] theorem Part.emit_mover' (m' : MoverId) : (p.emit acts).mover m' = p.mover m' := rfl
@[simp] theorem Part.emit_door' (d' : DoorId) : (p.emit acts).door d' = p.door d' := rfl
@[simp] theorem Part.emit_lane' (n' : Lane) : (p.emit acts).lane n' = p.lane n' := rfl
@[simp] theorem Part.emit_claim' (e' : EntryId) : (p.emit acts).claim e' = p.claim e' := rfl
@[simp] theorem Part.emit_line' (k' : LineId) : (p.emit acts).line k' = p.line k' := rfl
@[simp] theorem Part.emit_station' (st' : StationId) : (p.emit acts).station st' = p.station st' := rfl
@[simp] theorem Part.emit_slot' (j' : SlotId) : (p.emit acts).slot j' = p.slot j' := rfl
@[simp] theorem Part.emit_inForce : (p.emit acts).inForce = p.inForce := rfl
@[simp] theorem Part.emit_now : (p.emit acts).now = p.now := rfl
@[simp] theorem Part.emit_planZone' (k' : ZoneId) : (p.emit acts).planZone k' = p.planZone k' := rfl
@[simp] theorem Part.emit_planMover' (m' : MoverId) : (p.emit acts).planMover m' = p.planMover m' := rfl
@[simp] theorem Part.emit_planDoor' (d' : DoorId) : (p.emit acts).planDoor d' = p.planDoor d' := rfl
@[simp] theorem Part.emit_partner' (m' : MoverId) : (p.emit acts).partner m' = p.partner m' := rfl
@[simp] theorem Part.emit_leader' (m' : MoverId) : (p.emit acts).leader m' = p.leader m' := rfl
@[simp] theorem Part.emit_ends' (m' : MoverId) : (p.emit acts).ends m' = p.ends m' := rfl
@[simp] theorem Part.emit_moverZone' (m' : MoverId) : (p.emit acts).moverZone m' = p.moverZone m' := rfl
@[simp] theorem Part.emit_doorZones' (d' : DoorId) : (p.emit acts).doorZones d' = p.doorZones d' := rfl
@[simp] theorem Part.emit_zoneDoors' (k' : ZoneId) : (p.emit acts).zoneDoors k' = p.zoneDoors k' := rfl
@[simp] theorem Part.emit_zoneMovers' (k' : ZoneId) : (p.emit acts).zoneMovers k' = p.zoneMovers k' := rfl
@[simp] theorem Part.emit_entryOfMover' (m' : MoverId) : (p.emit acts).entryOfMover m' = p.entryOfMover m' := rfl
@[simp] theorem Part.emit_profilePlan' (m' : MoverId) : (p.emit acts).profilePlan m' = p.profilePlan m' := rfl

end

/-! ### Part.write -/

section
variable (a : Nat) (bytes : List Byte)

@[simp] theorem Part.write_time : (p.write a bytes).time = p.time := rfl
@[simp] theorem Part.write_zones : (p.write a bytes).zones = p.zones := rfl
@[simp] theorem Part.write_movers : (p.write a bytes).movers = p.movers := rfl
@[simp] theorem Part.write_doors : (p.write a bytes).doors = p.doors := rfl
@[simp] theorem Part.write_calls : (p.write a bytes).calls = p.calls := rfl
@[simp] theorem Part.write_player : (p.write a bytes).player = p.player := rfl
@[simp] theorem Part.write_lines : (p.write a bytes).lines = p.lines := rfl
@[simp] theorem Part.write_board : (p.write a bytes).board = p.board := rfl
@[simp] theorem Part.write_lanes : (p.write a bytes).lanes = p.lanes := rfl
@[simp] theorem Part.write_claims : (p.write a bytes).claims = p.claims := rfl
@[simp] theorem Part.write_waiters : (p.write a bytes).waiters = p.waiters := rfl
@[simp] theorem Part.write_claimTicks : (p.write a bytes).claimTicks = p.claimTicks := rfl
@[simp] theorem Part.write_field : (p.write a bytes).field = p.field := rfl
@[simp] theorem Part.write_plan : (p.write a bytes).plan = p.plan := rfl
@[simp] theorem Part.write_generation : (p.write a bytes).generation = p.generation := rfl
@[simp] theorem Part.write_port : (p.write a bytes).port = p.port := rfl
@[simp] theorem Part.write_agenda : (p.write a bytes).agenda = p.agenda := rfl
@[simp] theorem Part.write_writes : (p.write a bytes).writes = p.writes ++ cellsFrom a bytes := rfl
@[simp] theorem Part.write_forced : (p.write a bytes).forced = p.forced := rfl
@[simp] theorem Part.write_openValues : (p.write a bytes).openValues = p.openValues := rfl
@[simp] theorem Part.write_openCount : (p.write a bytes).openCount = p.openCount := rfl
@[simp] theorem Part.write_zone' (k' : ZoneId) : (p.write a bytes).zone k' = p.zone k' := rfl
@[simp] theorem Part.write_mover' (m' : MoverId) : (p.write a bytes).mover m' = p.mover m' := rfl
@[simp] theorem Part.write_door' (d' : DoorId) : (p.write a bytes).door d' = p.door d' := rfl
@[simp] theorem Part.write_lane' (n' : Lane) : (p.write a bytes).lane n' = p.lane n' := rfl
@[simp] theorem Part.write_claim' (e' : EntryId) : (p.write a bytes).claim e' = p.claim e' := rfl
@[simp] theorem Part.write_line' (k' : LineId) : (p.write a bytes).line k' = p.line k' := rfl
@[simp] theorem Part.write_station' (st' : StationId) : (p.write a bytes).station st' = p.station st' := rfl
@[simp] theorem Part.write_slot' (j' : SlotId) : (p.write a bytes).slot j' = p.slot j' := rfl
@[simp] theorem Part.write_inForce : (p.write a bytes).inForce = p.inForce := rfl
@[simp] theorem Part.write_now : (p.write a bytes).now = p.now := rfl
@[simp] theorem Part.write_planZone' (k' : ZoneId) : (p.write a bytes).planZone k' = p.planZone k' := rfl
@[simp] theorem Part.write_planMover' (m' : MoverId) : (p.write a bytes).planMover m' = p.planMover m' := rfl
@[simp] theorem Part.write_planDoor' (d' : DoorId) : (p.write a bytes).planDoor d' = p.planDoor d' := rfl
@[simp] theorem Part.write_partner' (m' : MoverId) : (p.write a bytes).partner m' = p.partner m' := rfl
@[simp] theorem Part.write_leader' (m' : MoverId) : (p.write a bytes).leader m' = p.leader m' := rfl
@[simp] theorem Part.write_ends' (m' : MoverId) : (p.write a bytes).ends m' = p.ends m' := rfl
@[simp] theorem Part.write_moverZone' (m' : MoverId) : (p.write a bytes).moverZone m' = p.moverZone m' := rfl
@[simp] theorem Part.write_doorZones' (d' : DoorId) : (p.write a bytes).doorZones d' = p.doorZones d' := rfl
@[simp] theorem Part.write_zoneDoors' (k' : ZoneId) : (p.write a bytes).zoneDoors k' = p.zoneDoors k' := rfl
@[simp] theorem Part.write_zoneMovers' (k' : ZoneId) : (p.write a bytes).zoneMovers k' = p.zoneMovers k' := rfl
@[simp] theorem Part.write_entryOfMover' (m' : MoverId) : (p.write a bytes).entryOfMover m' = p.entryOfMover m' := rfl
@[simp] theorem Part.write_profilePlan' (m' : MoverId) : (p.write a bytes).profilePlan m' = p.profilePlan m' := rfl

end

/-! ### Part.forceSlot -/

section
variable (j : SlotId)

@[simp] theorem Part.forceSlot_time : (p.forceSlot j).time = p.time := rfl
@[simp] theorem Part.forceSlot_zones : (p.forceSlot j).zones = p.zones := rfl
@[simp] theorem Part.forceSlot_movers : (p.forceSlot j).movers = p.movers := rfl
@[simp] theorem Part.forceSlot_doors : (p.forceSlot j).doors = p.doors := rfl
@[simp] theorem Part.forceSlot_calls : (p.forceSlot j).calls = p.calls := rfl
@[simp] theorem Part.forceSlot_player : (p.forceSlot j).player = p.player := rfl
@[simp] theorem Part.forceSlot_lines : (p.forceSlot j).lines = p.lines := rfl
@[simp] theorem Part.forceSlot_board : (p.forceSlot j).board = p.board := rfl
@[simp] theorem Part.forceSlot_lanes : (p.forceSlot j).lanes = p.lanes := rfl
@[simp] theorem Part.forceSlot_claims : (p.forceSlot j).claims = p.claims := rfl
@[simp] theorem Part.forceSlot_waiters : (p.forceSlot j).waiters = p.waiters := rfl
@[simp] theorem Part.forceSlot_claimTicks : (p.forceSlot j).claimTicks = p.claimTicks := rfl
@[simp] theorem Part.forceSlot_field : (p.forceSlot j).field = p.field := rfl
@[simp] theorem Part.forceSlot_plan : (p.forceSlot j).plan = p.plan := rfl
@[simp] theorem Part.forceSlot_generation : (p.forceSlot j).generation = p.generation := rfl
@[simp] theorem Part.forceSlot_port : (p.forceSlot j).port = p.port := rfl
@[simp] theorem Part.forceSlot_agenda : (p.forceSlot j).agenda = p.agenda := rfl
@[simp] theorem Part.forceSlot_writes : (p.forceSlot j).writes = p.writes := rfl
@[simp] theorem Part.forceSlot_forced : (p.forceSlot j).forced = j :: p.forced := rfl
@[simp] theorem Part.forceSlot_openValues : (p.forceSlot j).openValues = p.openValues := rfl
@[simp] theorem Part.forceSlot_openCount : (p.forceSlot j).openCount = p.openCount := rfl
@[simp] theorem Part.forceSlot_zone' (k' : ZoneId) : (p.forceSlot j).zone k' = p.zone k' := rfl
@[simp] theorem Part.forceSlot_mover' (m' : MoverId) : (p.forceSlot j).mover m' = p.mover m' := rfl
@[simp] theorem Part.forceSlot_door' (d' : DoorId) : (p.forceSlot j).door d' = p.door d' := rfl
@[simp] theorem Part.forceSlot_lane' (n' : Lane) : (p.forceSlot j).lane n' = p.lane n' := rfl
@[simp] theorem Part.forceSlot_claim' (e' : EntryId) : (p.forceSlot j).claim e' = p.claim e' := rfl
@[simp] theorem Part.forceSlot_line' (k' : LineId) : (p.forceSlot j).line k' = p.line k' := rfl
@[simp] theorem Part.forceSlot_station' (st' : StationId) : (p.forceSlot j).station st' = p.station st' := rfl
@[simp] theorem Part.forceSlot_slot' (j' : SlotId) : (p.forceSlot j).slot j' = p.slot j' := rfl
@[simp] theorem Part.forceSlot_inForce : (p.forceSlot j).inForce = p.inForce := rfl
@[simp] theorem Part.forceSlot_now : (p.forceSlot j).now = p.now := rfl
@[simp] theorem Part.forceSlot_planZone' (k' : ZoneId) : (p.forceSlot j).planZone k' = p.planZone k' := rfl
@[simp] theorem Part.forceSlot_planMover' (m' : MoverId) : (p.forceSlot j).planMover m' = p.planMover m' := rfl
@[simp] theorem Part.forceSlot_planDoor' (d' : DoorId) : (p.forceSlot j).planDoor d' = p.planDoor d' := rfl
@[simp] theorem Part.forceSlot_partner' (m' : MoverId) : (p.forceSlot j).partner m' = p.partner m' := rfl
@[simp] theorem Part.forceSlot_leader' (m' : MoverId) : (p.forceSlot j).leader m' = p.leader m' := rfl
@[simp] theorem Part.forceSlot_ends' (m' : MoverId) : (p.forceSlot j).ends m' = p.ends m' := rfl
@[simp] theorem Part.forceSlot_moverZone' (m' : MoverId) : (p.forceSlot j).moverZone m' = p.moverZone m' := rfl
@[simp] theorem Part.forceSlot_doorZones' (d' : DoorId) : (p.forceSlot j).doorZones d' = p.doorZones d' := rfl
@[simp] theorem Part.forceSlot_zoneDoors' (k' : ZoneId) : (p.forceSlot j).zoneDoors k' = p.zoneDoors k' := rfl
@[simp] theorem Part.forceSlot_zoneMovers' (k' : ZoneId) : (p.forceSlot j).zoneMovers k' = p.zoneMovers k' := rfl
@[simp] theorem Part.forceSlot_entryOfMover' (m' : MoverId) : (p.forceSlot j).entryOfMover m' = p.entryOfMover m' := rfl
@[simp] theorem Part.forceSlot_profilePlan' (m' : MoverId) : (p.forceSlot j).profilePlan m' = p.profilePlan m' := rfl

end

/-! ### Part.setZone -/

section
variable (k : ZoneId) (z : Zone)

@[simp] theorem Part.setZone_time : (p.setZone k z).time = p.time := rfl
@[simp] theorem Part.setZone_zones : (p.setZone k z).zones = setAt p.zones k z := rfl
@[simp] theorem Part.setZone_movers : (p.setZone k z).movers = p.movers := rfl
@[simp] theorem Part.setZone_doors : (p.setZone k z).doors = p.doors := rfl
@[simp] theorem Part.setZone_calls : (p.setZone k z).calls = p.calls := rfl
@[simp] theorem Part.setZone_player : (p.setZone k z).player = p.player := rfl
@[simp] theorem Part.setZone_lines : (p.setZone k z).lines = p.lines := rfl
@[simp] theorem Part.setZone_board : (p.setZone k z).board = p.board := rfl
@[simp] theorem Part.setZone_lanes : (p.setZone k z).lanes = p.lanes := rfl
@[simp] theorem Part.setZone_claims : (p.setZone k z).claims = p.claims := rfl
@[simp] theorem Part.setZone_waiters : (p.setZone k z).waiters = p.waiters := rfl
@[simp] theorem Part.setZone_claimTicks : (p.setZone k z).claimTicks = p.claimTicks := rfl
@[simp] theorem Part.setZone_field : (p.setZone k z).field = p.field := rfl
@[simp] theorem Part.setZone_plan : (p.setZone k z).plan = p.plan := rfl
@[simp] theorem Part.setZone_generation : (p.setZone k z).generation = p.generation := rfl
@[simp] theorem Part.setZone_port : (p.setZone k z).port = p.port := rfl
@[simp] theorem Part.setZone_agenda : (p.setZone k z).agenda = p.agenda := rfl
@[simp] theorem Part.setZone_writes : (p.setZone k z).writes = p.writes := rfl
@[simp] theorem Part.setZone_forced : (p.setZone k z).forced = p.forced := rfl
@[simp] theorem Part.setZone_openValues : (p.setZone k z).openValues = p.openValues := rfl
@[simp] theorem Part.setZone_openCount : (p.setZone k z).openCount = p.openCount := rfl
@[simp] theorem Part.setZone_mover' (m' : MoverId) : (p.setZone k z).mover m' = p.mover m' := rfl
@[simp] theorem Part.setZone_door' (d' : DoorId) : (p.setZone k z).door d' = p.door d' := rfl
@[simp] theorem Part.setZone_lane' (n' : Lane) : (p.setZone k z).lane n' = p.lane n' := rfl
@[simp] theorem Part.setZone_claim' (e' : EntryId) : (p.setZone k z).claim e' = p.claim e' := rfl
@[simp] theorem Part.setZone_line' (k' : LineId) : (p.setZone k z).line k' = p.line k' := rfl
@[simp] theorem Part.setZone_station' (st' : StationId) : (p.setZone k z).station st' = p.station st' := rfl
@[simp] theorem Part.setZone_slot' (j' : SlotId) : (p.setZone k z).slot j' = p.slot j' := rfl
@[simp] theorem Part.setZone_inForce : (p.setZone k z).inForce = p.inForce := rfl
@[simp] theorem Part.setZone_now : (p.setZone k z).now = p.now := rfl
@[simp] theorem Part.setZone_planZone' (k' : ZoneId) : (p.setZone k z).planZone k' = p.planZone k' := rfl
@[simp] theorem Part.setZone_planMover' (m' : MoverId) : (p.setZone k z).planMover m' = p.planMover m' := rfl
@[simp] theorem Part.setZone_planDoor' (d' : DoorId) : (p.setZone k z).planDoor d' = p.planDoor d' := rfl
@[simp] theorem Part.setZone_partner' (m' : MoverId) : (p.setZone k z).partner m' = p.partner m' := rfl
@[simp] theorem Part.setZone_leader' (m' : MoverId) : (p.setZone k z).leader m' = p.leader m' := rfl
@[simp] theorem Part.setZone_ends' (m' : MoverId) : (p.setZone k z).ends m' = p.ends m' := rfl
@[simp] theorem Part.setZone_moverZone' (m' : MoverId) : (p.setZone k z).moverZone m' = p.moverZone m' := rfl
@[simp] theorem Part.setZone_doorZones' (d' : DoorId) : (p.setZone k z).doorZones d' = p.doorZones d' := rfl
@[simp] theorem Part.setZone_zoneDoors' (k' : ZoneId) : (p.setZone k z).zoneDoors k' = p.zoneDoors k' := rfl
@[simp] theorem Part.setZone_zoneMovers' (k' : ZoneId) : (p.setZone k z).zoneMovers k' = p.zoneMovers k' := rfl
@[simp] theorem Part.setZone_entryOfMover' (m' : MoverId) : (p.setZone k z).entryOfMover m' = p.entryOfMover m' := rfl
@[simp] theorem Part.setZone_profilePlan' (m' : MoverId) : (p.setZone k z).profilePlan m' = p.profilePlan m' := rfl

end

/-! ### Part.setMover -/

section
variable (m : MoverId) (x : Mover)

@[simp] theorem Part.setMover_time : (p.setMover m x).time = p.time := rfl
@[simp] theorem Part.setMover_zones : (p.setMover m x).zones = p.zones := rfl
@[simp] theorem Part.setMover_movers : (p.setMover m x).movers = setAt p.movers m x := rfl
@[simp] theorem Part.setMover_doors : (p.setMover m x).doors = p.doors := rfl
@[simp] theorem Part.setMover_calls : (p.setMover m x).calls = p.calls := rfl
@[simp] theorem Part.setMover_player : (p.setMover m x).player = p.player := rfl
@[simp] theorem Part.setMover_lines : (p.setMover m x).lines = p.lines := rfl
@[simp] theorem Part.setMover_board : (p.setMover m x).board = p.board := rfl
@[simp] theorem Part.setMover_lanes : (p.setMover m x).lanes = p.lanes := rfl
@[simp] theorem Part.setMover_claims : (p.setMover m x).claims = p.claims := rfl
@[simp] theorem Part.setMover_waiters : (p.setMover m x).waiters = p.waiters := rfl
@[simp] theorem Part.setMover_claimTicks : (p.setMover m x).claimTicks = p.claimTicks := rfl
@[simp] theorem Part.setMover_field : (p.setMover m x).field = p.field := rfl
@[simp] theorem Part.setMover_plan : (p.setMover m x).plan = p.plan := rfl
@[simp] theorem Part.setMover_generation : (p.setMover m x).generation = p.generation := rfl
@[simp] theorem Part.setMover_port : (p.setMover m x).port = p.port := rfl
@[simp] theorem Part.setMover_agenda : (p.setMover m x).agenda = p.agenda := rfl
@[simp] theorem Part.setMover_writes : (p.setMover m x).writes = p.writes := rfl
@[simp] theorem Part.setMover_forced : (p.setMover m x).forced = p.forced := rfl
@[simp] theorem Part.setMover_openValues : (p.setMover m x).openValues = p.openValues := rfl
@[simp] theorem Part.setMover_openCount : (p.setMover m x).openCount = p.openCount := rfl
@[simp] theorem Part.setMover_zone' (k' : ZoneId) : (p.setMover m x).zone k' = p.zone k' := rfl
@[simp] theorem Part.setMover_door' (d' : DoorId) : (p.setMover m x).door d' = p.door d' := rfl
@[simp] theorem Part.setMover_lane' (n' : Lane) : (p.setMover m x).lane n' = p.lane n' := rfl
@[simp] theorem Part.setMover_claim' (e' : EntryId) : (p.setMover m x).claim e' = p.claim e' := rfl
@[simp] theorem Part.setMover_line' (k' : LineId) : (p.setMover m x).line k' = p.line k' := rfl
@[simp] theorem Part.setMover_station' (st' : StationId) : (p.setMover m x).station st' = p.station st' := rfl
@[simp] theorem Part.setMover_slot' (j' : SlotId) : (p.setMover m x).slot j' = p.slot j' := rfl
@[simp] theorem Part.setMover_inForce : (p.setMover m x).inForce = p.inForce := rfl
@[simp] theorem Part.setMover_now : (p.setMover m x).now = p.now := rfl
@[simp] theorem Part.setMover_planZone' (k' : ZoneId) : (p.setMover m x).planZone k' = p.planZone k' := rfl
@[simp] theorem Part.setMover_planMover' (m' : MoverId) : (p.setMover m x).planMover m' = p.planMover m' := rfl
@[simp] theorem Part.setMover_planDoor' (d' : DoorId) : (p.setMover m x).planDoor d' = p.planDoor d' := rfl
@[simp] theorem Part.setMover_partner' (m' : MoverId) : (p.setMover m x).partner m' = p.partner m' := rfl
@[simp] theorem Part.setMover_leader' (m' : MoverId) : (p.setMover m x).leader m' = p.leader m' := rfl
@[simp] theorem Part.setMover_ends' (m' : MoverId) : (p.setMover m x).ends m' = p.ends m' := rfl
@[simp] theorem Part.setMover_moverZone' (m' : MoverId) : (p.setMover m x).moverZone m' = p.moverZone m' := rfl
@[simp] theorem Part.setMover_doorZones' (d' : DoorId) : (p.setMover m x).doorZones d' = p.doorZones d' := rfl
@[simp] theorem Part.setMover_zoneDoors' (k' : ZoneId) : (p.setMover m x).zoneDoors k' = p.zoneDoors k' := rfl
@[simp] theorem Part.setMover_zoneMovers' (k' : ZoneId) : (p.setMover m x).zoneMovers k' = p.zoneMovers k' := rfl
@[simp] theorem Part.setMover_entryOfMover' (m' : MoverId) : (p.setMover m x).entryOfMover m' = p.entryOfMover m' := rfl
@[simp] theorem Part.setMover_profilePlan' (m' : MoverId) : (p.setMover m x).profilePlan m' = p.profilePlan m' := rfl

end

/-! ### Part.setDoor -/

section
variable (d : DoorId) (x : Door)

@[simp] theorem Part.setDoor_time : (p.setDoor d x).time = p.time := rfl
@[simp] theorem Part.setDoor_zones : (p.setDoor d x).zones = p.zones := rfl
@[simp] theorem Part.setDoor_movers : (p.setDoor d x).movers = p.movers := rfl
@[simp] theorem Part.setDoor_doors : (p.setDoor d x).doors = setAt p.doors d x := rfl
@[simp] theorem Part.setDoor_calls : (p.setDoor d x).calls = p.calls := rfl
@[simp] theorem Part.setDoor_player : (p.setDoor d x).player = p.player := rfl
@[simp] theorem Part.setDoor_lines : (p.setDoor d x).lines = p.lines := rfl
@[simp] theorem Part.setDoor_board : (p.setDoor d x).board = p.board := rfl
@[simp] theorem Part.setDoor_lanes : (p.setDoor d x).lanes = p.lanes := rfl
@[simp] theorem Part.setDoor_claims : (p.setDoor d x).claims = p.claims := rfl
@[simp] theorem Part.setDoor_waiters : (p.setDoor d x).waiters = p.waiters := rfl
@[simp] theorem Part.setDoor_claimTicks : (p.setDoor d x).claimTicks = p.claimTicks := rfl
@[simp] theorem Part.setDoor_field : (p.setDoor d x).field = p.field := rfl
@[simp] theorem Part.setDoor_plan : (p.setDoor d x).plan = p.plan := rfl
@[simp] theorem Part.setDoor_generation : (p.setDoor d x).generation = p.generation := rfl
@[simp] theorem Part.setDoor_port : (p.setDoor d x).port = p.port := rfl
@[simp] theorem Part.setDoor_agenda : (p.setDoor d x).agenda = p.agenda := rfl
@[simp] theorem Part.setDoor_writes : (p.setDoor d x).writes = p.writes := rfl
@[simp] theorem Part.setDoor_forced : (p.setDoor d x).forced = p.forced := rfl
@[simp] theorem Part.setDoor_openValues : (p.setDoor d x).openValues = p.openValues := rfl
@[simp] theorem Part.setDoor_openCount : (p.setDoor d x).openCount = p.openCount := rfl
@[simp] theorem Part.setDoor_zone' (k' : ZoneId) : (p.setDoor d x).zone k' = p.zone k' := rfl
@[simp] theorem Part.setDoor_mover' (m' : MoverId) : (p.setDoor d x).mover m' = p.mover m' := rfl
@[simp] theorem Part.setDoor_lane' (n' : Lane) : (p.setDoor d x).lane n' = p.lane n' := rfl
@[simp] theorem Part.setDoor_claim' (e' : EntryId) : (p.setDoor d x).claim e' = p.claim e' := rfl
@[simp] theorem Part.setDoor_line' (k' : LineId) : (p.setDoor d x).line k' = p.line k' := rfl
@[simp] theorem Part.setDoor_station' (st' : StationId) : (p.setDoor d x).station st' = p.station st' := rfl
@[simp] theorem Part.setDoor_slot' (j' : SlotId) : (p.setDoor d x).slot j' = p.slot j' := rfl
@[simp] theorem Part.setDoor_inForce : (p.setDoor d x).inForce = p.inForce := rfl
@[simp] theorem Part.setDoor_now : (p.setDoor d x).now = p.now := rfl
@[simp] theorem Part.setDoor_planZone' (k' : ZoneId) : (p.setDoor d x).planZone k' = p.planZone k' := rfl
@[simp] theorem Part.setDoor_planMover' (m' : MoverId) : (p.setDoor d x).planMover m' = p.planMover m' := rfl
@[simp] theorem Part.setDoor_planDoor' (d' : DoorId) : (p.setDoor d x).planDoor d' = p.planDoor d' := rfl
@[simp] theorem Part.setDoor_partner' (m' : MoverId) : (p.setDoor d x).partner m' = p.partner m' := rfl
@[simp] theorem Part.setDoor_leader' (m' : MoverId) : (p.setDoor d x).leader m' = p.leader m' := rfl
@[simp] theorem Part.setDoor_ends' (m' : MoverId) : (p.setDoor d x).ends m' = p.ends m' := rfl
@[simp] theorem Part.setDoor_moverZone' (m' : MoverId) : (p.setDoor d x).moverZone m' = p.moverZone m' := rfl
@[simp] theorem Part.setDoor_doorZones' (d' : DoorId) : (p.setDoor d x).doorZones d' = p.doorZones d' := rfl
@[simp] theorem Part.setDoor_zoneDoors' (k' : ZoneId) : (p.setDoor d x).zoneDoors k' = p.zoneDoors k' := rfl
@[simp] theorem Part.setDoor_zoneMovers' (k' : ZoneId) : (p.setDoor d x).zoneMovers k' = p.zoneMovers k' := rfl
@[simp] theorem Part.setDoor_entryOfMover' (m' : MoverId) : (p.setDoor d x).entryOfMover m' = p.entryOfMover m' := rfl
@[simp] theorem Part.setDoor_profilePlan' (m' : MoverId) : (p.setDoor d x).profilePlan m' = p.profilePlan m' := rfl

end

/-! ### Part.setLane -/

section
variable (n : Lane) (x : LaneContext)

@[simp] theorem Part.setLane_time : (p.setLane n x).time = p.time := rfl
@[simp] theorem Part.setLane_zones : (p.setLane n x).zones = p.zones := rfl
@[simp] theorem Part.setLane_movers : (p.setLane n x).movers = p.movers := rfl
@[simp] theorem Part.setLane_doors : (p.setLane n x).doors = p.doors := rfl
@[simp] theorem Part.setLane_calls : (p.setLane n x).calls = p.calls := rfl
@[simp] theorem Part.setLane_player : (p.setLane n x).player = p.player := rfl
@[simp] theorem Part.setLane_lines : (p.setLane n x).lines = p.lines := rfl
@[simp] theorem Part.setLane_board : (p.setLane n x).board = p.board := rfl
@[simp] theorem Part.setLane_lanes : (p.setLane n x).lanes = setAt p.lanes n x := rfl
@[simp] theorem Part.setLane_claims : (p.setLane n x).claims = p.claims := rfl
@[simp] theorem Part.setLane_waiters : (p.setLane n x).waiters = p.waiters := rfl
@[simp] theorem Part.setLane_claimTicks : (p.setLane n x).claimTicks = p.claimTicks := rfl
@[simp] theorem Part.setLane_field : (p.setLane n x).field = p.field := rfl
@[simp] theorem Part.setLane_plan : (p.setLane n x).plan = p.plan := rfl
@[simp] theorem Part.setLane_generation : (p.setLane n x).generation = p.generation := rfl
@[simp] theorem Part.setLane_port : (p.setLane n x).port = p.port := rfl
@[simp] theorem Part.setLane_agenda : (p.setLane n x).agenda = p.agenda := rfl
@[simp] theorem Part.setLane_writes : (p.setLane n x).writes = p.writes := rfl
@[simp] theorem Part.setLane_forced : (p.setLane n x).forced = p.forced := rfl
@[simp] theorem Part.setLane_openValues : (p.setLane n x).openValues = p.openValues := rfl
@[simp] theorem Part.setLane_openCount : (p.setLane n x).openCount = p.openCount := rfl
@[simp] theorem Part.setLane_zone' (k' : ZoneId) : (p.setLane n x).zone k' = p.zone k' := rfl
@[simp] theorem Part.setLane_mover' (m' : MoverId) : (p.setLane n x).mover m' = p.mover m' := rfl
@[simp] theorem Part.setLane_door' (d' : DoorId) : (p.setLane n x).door d' = p.door d' := rfl
@[simp] theorem Part.setLane_claim' (e' : EntryId) : (p.setLane n x).claim e' = p.claim e' := rfl
@[simp] theorem Part.setLane_line' (k' : LineId) : (p.setLane n x).line k' = p.line k' := rfl
@[simp] theorem Part.setLane_station' (st' : StationId) : (p.setLane n x).station st' = p.station st' := rfl
@[simp] theorem Part.setLane_slot' (j' : SlotId) : (p.setLane n x).slot j' = p.slot j' := rfl
@[simp] theorem Part.setLane_inForce : (p.setLane n x).inForce = p.inForce := rfl
@[simp] theorem Part.setLane_now : (p.setLane n x).now = p.now := rfl
@[simp] theorem Part.setLane_planZone' (k' : ZoneId) : (p.setLane n x).planZone k' = p.planZone k' := rfl
@[simp] theorem Part.setLane_planMover' (m' : MoverId) : (p.setLane n x).planMover m' = p.planMover m' := rfl
@[simp] theorem Part.setLane_planDoor' (d' : DoorId) : (p.setLane n x).planDoor d' = p.planDoor d' := rfl
@[simp] theorem Part.setLane_partner' (m' : MoverId) : (p.setLane n x).partner m' = p.partner m' := rfl
@[simp] theorem Part.setLane_leader' (m' : MoverId) : (p.setLane n x).leader m' = p.leader m' := rfl
@[simp] theorem Part.setLane_ends' (m' : MoverId) : (p.setLane n x).ends m' = p.ends m' := rfl
@[simp] theorem Part.setLane_moverZone' (m' : MoverId) : (p.setLane n x).moverZone m' = p.moverZone m' := rfl
@[simp] theorem Part.setLane_doorZones' (d' : DoorId) : (p.setLane n x).doorZones d' = p.doorZones d' := rfl
@[simp] theorem Part.setLane_zoneDoors' (k' : ZoneId) : (p.setLane n x).zoneDoors k' = p.zoneDoors k' := rfl
@[simp] theorem Part.setLane_zoneMovers' (k' : ZoneId) : (p.setLane n x).zoneMovers k' = p.zoneMovers k' := rfl
@[simp] theorem Part.setLane_entryOfMover' (m' : MoverId) : (p.setLane n x).entryOfMover m' = p.entryOfMover m' := rfl
@[simp] theorem Part.setLane_profilePlan' (m' : MoverId) : (p.setLane n x).profilePlan m' = p.profilePlan m' := rfl

end

/-! ### Part.setClaim -/

section
variable (e : EntryId) (c : Claim)

@[simp] theorem Part.setClaim_time : (p.setClaim e c).time = p.time := rfl
@[simp] theorem Part.setClaim_zones : (p.setClaim e c).zones = p.zones := rfl
@[simp] theorem Part.setClaim_movers : (p.setClaim e c).movers = p.movers := rfl
@[simp] theorem Part.setClaim_doors : (p.setClaim e c).doors = p.doors := rfl
@[simp] theorem Part.setClaim_calls : (p.setClaim e c).calls = p.calls := rfl
@[simp] theorem Part.setClaim_player : (p.setClaim e c).player = p.player := rfl
@[simp] theorem Part.setClaim_lines : (p.setClaim e c).lines = p.lines := rfl
@[simp] theorem Part.setClaim_board : (p.setClaim e c).board = p.board := rfl
@[simp] theorem Part.setClaim_lanes : (p.setClaim e c).lanes = p.lanes := rfl
@[simp] theorem Part.setClaim_claims : (p.setClaim e c).claims = setAt p.claims e c := rfl
@[simp] theorem Part.setClaim_waiters : (p.setClaim e c).waiters = p.waiters := rfl
@[simp] theorem Part.setClaim_claimTicks : (p.setClaim e c).claimTicks = p.claimTicks := rfl
@[simp] theorem Part.setClaim_field : (p.setClaim e c).field = p.field := rfl
@[simp] theorem Part.setClaim_plan : (p.setClaim e c).plan = p.plan := rfl
@[simp] theorem Part.setClaim_generation : (p.setClaim e c).generation = p.generation := rfl
@[simp] theorem Part.setClaim_port : (p.setClaim e c).port = p.port := rfl
@[simp] theorem Part.setClaim_agenda : (p.setClaim e c).agenda = p.agenda := rfl
@[simp] theorem Part.setClaim_writes : (p.setClaim e c).writes = p.writes := rfl
@[simp] theorem Part.setClaim_forced : (p.setClaim e c).forced = p.forced := rfl
@[simp] theorem Part.setClaim_openValues : (p.setClaim e c).openValues = p.openValues := rfl
@[simp] theorem Part.setClaim_openCount : (p.setClaim e c).openCount = p.openCount := rfl
@[simp] theorem Part.setClaim_zone' (k' : ZoneId) : (p.setClaim e c).zone k' = p.zone k' := rfl
@[simp] theorem Part.setClaim_mover' (m' : MoverId) : (p.setClaim e c).mover m' = p.mover m' := rfl
@[simp] theorem Part.setClaim_door' (d' : DoorId) : (p.setClaim e c).door d' = p.door d' := rfl
@[simp] theorem Part.setClaim_lane' (n' : Lane) : (p.setClaim e c).lane n' = p.lane n' := rfl
@[simp] theorem Part.setClaim_line' (k' : LineId) : (p.setClaim e c).line k' = p.line k' := rfl
@[simp] theorem Part.setClaim_station' (st' : StationId) : (p.setClaim e c).station st' = p.station st' := rfl
@[simp] theorem Part.setClaim_slot' (j' : SlotId) : (p.setClaim e c).slot j' = p.slot j' := rfl
@[simp] theorem Part.setClaim_inForce : (p.setClaim e c).inForce = p.inForce := rfl
@[simp] theorem Part.setClaim_now : (p.setClaim e c).now = p.now := rfl
@[simp] theorem Part.setClaim_planZone' (k' : ZoneId) : (p.setClaim e c).planZone k' = p.planZone k' := rfl
@[simp] theorem Part.setClaim_planMover' (m' : MoverId) : (p.setClaim e c).planMover m' = p.planMover m' := rfl
@[simp] theorem Part.setClaim_planDoor' (d' : DoorId) : (p.setClaim e c).planDoor d' = p.planDoor d' := rfl
@[simp] theorem Part.setClaim_partner' (m' : MoverId) : (p.setClaim e c).partner m' = p.partner m' := rfl
@[simp] theorem Part.setClaim_leader' (m' : MoverId) : (p.setClaim e c).leader m' = p.leader m' := rfl
@[simp] theorem Part.setClaim_ends' (m' : MoverId) : (p.setClaim e c).ends m' = p.ends m' := rfl
@[simp] theorem Part.setClaim_moverZone' (m' : MoverId) : (p.setClaim e c).moverZone m' = p.moverZone m' := rfl
@[simp] theorem Part.setClaim_doorZones' (d' : DoorId) : (p.setClaim e c).doorZones d' = p.doorZones d' := rfl
@[simp] theorem Part.setClaim_zoneDoors' (k' : ZoneId) : (p.setClaim e c).zoneDoors k' = p.zoneDoors k' := rfl
@[simp] theorem Part.setClaim_zoneMovers' (k' : ZoneId) : (p.setClaim e c).zoneMovers k' = p.zoneMovers k' := rfl
@[simp] theorem Part.setClaim_entryOfMover' (m' : MoverId) : (p.setClaim e c).entryOfMover m' = p.entryOfMover m' := rfl
@[simp] theorem Part.setClaim_profilePlan' (m' : MoverId) : (p.setClaim e c).profilePlan m' = p.profilePlan m' := rfl

end

/-! ### Part.setLine -/

section
variable (k : LineId) (g : Generator)

@[simp] theorem Part.setLine_time : (p.setLine k g).time = p.time := rfl
@[simp] theorem Part.setLine_zones : (p.setLine k g).zones = p.zones := rfl
@[simp] theorem Part.setLine_movers : (p.setLine k g).movers = p.movers := rfl
@[simp] theorem Part.setLine_doors : (p.setLine k g).doors = p.doors := rfl
@[simp] theorem Part.setLine_calls : (p.setLine k g).calls = p.calls := rfl
@[simp] theorem Part.setLine_player : (p.setLine k g).player = p.player := rfl
@[simp] theorem Part.setLine_lines : (p.setLine k g).lines = setAt p.lines k g := rfl
@[simp] theorem Part.setLine_board : (p.setLine k g).board = p.board := rfl
@[simp] theorem Part.setLine_lanes : (p.setLine k g).lanes = p.lanes := rfl
@[simp] theorem Part.setLine_claims : (p.setLine k g).claims = p.claims := rfl
@[simp] theorem Part.setLine_waiters : (p.setLine k g).waiters = p.waiters := rfl
@[simp] theorem Part.setLine_claimTicks : (p.setLine k g).claimTicks = p.claimTicks := rfl
@[simp] theorem Part.setLine_field : (p.setLine k g).field = p.field := rfl
@[simp] theorem Part.setLine_plan : (p.setLine k g).plan = p.plan := rfl
@[simp] theorem Part.setLine_generation : (p.setLine k g).generation = p.generation := rfl
@[simp] theorem Part.setLine_port : (p.setLine k g).port = p.port := rfl
@[simp] theorem Part.setLine_agenda : (p.setLine k g).agenda = p.agenda := rfl
@[simp] theorem Part.setLine_writes : (p.setLine k g).writes = p.writes := rfl
@[simp] theorem Part.setLine_forced : (p.setLine k g).forced = p.forced := rfl
@[simp] theorem Part.setLine_openValues : (p.setLine k g).openValues = p.openValues := rfl
@[simp] theorem Part.setLine_openCount : (p.setLine k g).openCount = p.openCount := rfl
@[simp] theorem Part.setLine_zone' (k' : ZoneId) : (p.setLine k g).zone k' = p.zone k' := rfl
@[simp] theorem Part.setLine_mover' (m' : MoverId) : (p.setLine k g).mover m' = p.mover m' := rfl
@[simp] theorem Part.setLine_door' (d' : DoorId) : (p.setLine k g).door d' = p.door d' := rfl
@[simp] theorem Part.setLine_lane' (n' : Lane) : (p.setLine k g).lane n' = p.lane n' := rfl
@[simp] theorem Part.setLine_claim' (e' : EntryId) : (p.setLine k g).claim e' = p.claim e' := rfl
@[simp] theorem Part.setLine_station' (st' : StationId) : (p.setLine k g).station st' = p.station st' := rfl
@[simp] theorem Part.setLine_slot' (j' : SlotId) : (p.setLine k g).slot j' = p.slot j' := rfl
@[simp] theorem Part.setLine_inForce : (p.setLine k g).inForce = p.inForce := rfl
@[simp] theorem Part.setLine_now : (p.setLine k g).now = p.now := rfl
@[simp] theorem Part.setLine_planZone' (k' : ZoneId) : (p.setLine k g).planZone k' = p.planZone k' := rfl
@[simp] theorem Part.setLine_planMover' (m' : MoverId) : (p.setLine k g).planMover m' = p.planMover m' := rfl
@[simp] theorem Part.setLine_planDoor' (d' : DoorId) : (p.setLine k g).planDoor d' = p.planDoor d' := rfl
@[simp] theorem Part.setLine_partner' (m' : MoverId) : (p.setLine k g).partner m' = p.partner m' := rfl
@[simp] theorem Part.setLine_leader' (m' : MoverId) : (p.setLine k g).leader m' = p.leader m' := rfl
@[simp] theorem Part.setLine_ends' (m' : MoverId) : (p.setLine k g).ends m' = p.ends m' := rfl
@[simp] theorem Part.setLine_moverZone' (m' : MoverId) : (p.setLine k g).moverZone m' = p.moverZone m' := rfl
@[simp] theorem Part.setLine_doorZones' (d' : DoorId) : (p.setLine k g).doorZones d' = p.doorZones d' := rfl
@[simp] theorem Part.setLine_zoneDoors' (k' : ZoneId) : (p.setLine k g).zoneDoors k' = p.zoneDoors k' := rfl
@[simp] theorem Part.setLine_zoneMovers' (k' : ZoneId) : (p.setLine k g).zoneMovers k' = p.zoneMovers k' := rfl
@[simp] theorem Part.setLine_entryOfMover' (m' : MoverId) : (p.setLine k g).entryOfMover m' = p.entryOfMover m' := rfl
@[simp] theorem Part.setLine_profilePlan' (m' : MoverId) : (p.setLine k g).profilePlan m' = p.profilePlan m' := rfl

end

/-! ### Part.setStation -/

section
variable (st : StationId) (x : Station)

@[simp] theorem Part.setStation_time : (p.setStation st x).time = p.time := rfl
@[simp] theorem Part.setStation_zones : (p.setStation st x).zones = p.zones := rfl
@[simp] theorem Part.setStation_movers : (p.setStation st x).movers = p.movers := rfl
@[simp] theorem Part.setStation_doors : (p.setStation st x).doors = p.doors := rfl
@[simp] theorem Part.setStation_calls : (p.setStation st x).calls = p.calls := rfl
@[simp] theorem Part.setStation_player : (p.setStation st x).player = p.player := rfl
@[simp] theorem Part.setStation_lines : (p.setStation st x).lines = p.lines := rfl
@[simp] theorem Part.setStation_board : (p.setStation st x).board = p.board := rfl
@[simp] theorem Part.setStation_lanes : (p.setStation st x).lanes = p.lanes := rfl
@[simp] theorem Part.setStation_claims : (p.setStation st x).claims = p.claims := rfl
@[simp] theorem Part.setStation_waiters : (p.setStation st x).waiters = p.waiters := rfl
@[simp] theorem Part.setStation_claimTicks : (p.setStation st x).claimTicks = p.claimTicks := rfl
@[simp] theorem Part.setStation_field : (p.setStation st x).field = { p.field with stations := setAt p.field.stations st x } := rfl
@[simp] theorem Part.setStation_plan : (p.setStation st x).plan = p.plan := rfl
@[simp] theorem Part.setStation_generation : (p.setStation st x).generation = p.generation := rfl
@[simp] theorem Part.setStation_port : (p.setStation st x).port = p.port := rfl
@[simp] theorem Part.setStation_agenda : (p.setStation st x).agenda = p.agenda := rfl
@[simp] theorem Part.setStation_writes : (p.setStation st x).writes = p.writes := rfl
@[simp] theorem Part.setStation_forced : (p.setStation st x).forced = p.forced := rfl
@[simp] theorem Part.setStation_openValues : (p.setStation st x).openValues = p.openValues := rfl
@[simp] theorem Part.setStation_openCount : (p.setStation st x).openCount = p.openCount := rfl
@[simp] theorem Part.setStation_zone' (k' : ZoneId) : (p.setStation st x).zone k' = p.zone k' := rfl
@[simp] theorem Part.setStation_mover' (m' : MoverId) : (p.setStation st x).mover m' = p.mover m' := rfl
@[simp] theorem Part.setStation_door' (d' : DoorId) : (p.setStation st x).door d' = p.door d' := rfl
@[simp] theorem Part.setStation_lane' (n' : Lane) : (p.setStation st x).lane n' = p.lane n' := rfl
@[simp] theorem Part.setStation_claim' (e' : EntryId) : (p.setStation st x).claim e' = p.claim e' := rfl
@[simp] theorem Part.setStation_line' (k' : LineId) : (p.setStation st x).line k' = p.line k' := rfl
@[simp] theorem Part.setStation_slot' (j' : SlotId) : (p.setStation st x).slot j' = p.slot j' := rfl
@[simp] theorem Part.setStation_inForce : (p.setStation st x).inForce = p.inForce := rfl
@[simp] theorem Part.setStation_now : (p.setStation st x).now = p.now := rfl
@[simp] theorem Part.setStation_planZone' (k' : ZoneId) : (p.setStation st x).planZone k' = p.planZone k' := rfl
@[simp] theorem Part.setStation_planMover' (m' : MoverId) : (p.setStation st x).planMover m' = p.planMover m' := rfl
@[simp] theorem Part.setStation_planDoor' (d' : DoorId) : (p.setStation st x).planDoor d' = p.planDoor d' := rfl
@[simp] theorem Part.setStation_partner' (m' : MoverId) : (p.setStation st x).partner m' = p.partner m' := rfl
@[simp] theorem Part.setStation_leader' (m' : MoverId) : (p.setStation st x).leader m' = p.leader m' := rfl
@[simp] theorem Part.setStation_ends' (m' : MoverId) : (p.setStation st x).ends m' = p.ends m' := rfl
@[simp] theorem Part.setStation_moverZone' (m' : MoverId) : (p.setStation st x).moverZone m' = p.moverZone m' := rfl
@[simp] theorem Part.setStation_doorZones' (d' : DoorId) : (p.setStation st x).doorZones d' = p.doorZones d' := rfl
@[simp] theorem Part.setStation_zoneDoors' (k' : ZoneId) : (p.setStation st x).zoneDoors k' = p.zoneDoors k' := rfl
@[simp] theorem Part.setStation_zoneMovers' (k' : ZoneId) : (p.setStation st x).zoneMovers k' = p.zoneMovers k' := rfl
@[simp] theorem Part.setStation_entryOfMover' (m' : MoverId) : (p.setStation st x).entryOfMover m' = p.entryOfMover m' := rfl
@[simp] theorem Part.setStation_profilePlan' (m' : MoverId) : (p.setStation st x).profilePlan m' = p.profilePlan m' := rfl

end

/-! ### Part.setSlot -/

section
variable (j : SlotId) (b : BoardSlot)

@[simp] theorem Part.setSlot_time : (p.setSlot j b).time = p.time := rfl
@[simp] theorem Part.setSlot_zones : (p.setSlot j b).zones = p.zones := rfl
@[simp] theorem Part.setSlot_movers : (p.setSlot j b).movers = p.movers := rfl
@[simp] theorem Part.setSlot_doors : (p.setSlot j b).doors = p.doors := rfl
@[simp] theorem Part.setSlot_calls : (p.setSlot j b).calls = p.calls := rfl
@[simp] theorem Part.setSlot_player : (p.setSlot j b).player = p.player := rfl
@[simp] theorem Part.setSlot_lines : (p.setSlot j b).lines = p.lines := rfl
@[simp] theorem Part.setSlot_board : (p.setSlot j b).board = { p.board with slots := setAt p.board.slots j b } := rfl
@[simp] theorem Part.setSlot_lanes : (p.setSlot j b).lanes = p.lanes := rfl
@[simp] theorem Part.setSlot_claims : (p.setSlot j b).claims = p.claims := rfl
@[simp] theorem Part.setSlot_waiters : (p.setSlot j b).waiters = p.waiters := rfl
@[simp] theorem Part.setSlot_claimTicks : (p.setSlot j b).claimTicks = p.claimTicks := rfl
@[simp] theorem Part.setSlot_field : (p.setSlot j b).field = p.field := rfl
@[simp] theorem Part.setSlot_plan : (p.setSlot j b).plan = p.plan := rfl
@[simp] theorem Part.setSlot_generation : (p.setSlot j b).generation = p.generation := rfl
@[simp] theorem Part.setSlot_port : (p.setSlot j b).port = p.port := rfl
@[simp] theorem Part.setSlot_agenda : (p.setSlot j b).agenda = p.agenda := rfl
@[simp] theorem Part.setSlot_writes : (p.setSlot j b).writes = p.writes := rfl
@[simp] theorem Part.setSlot_forced : (p.setSlot j b).forced = p.forced := rfl
@[simp] theorem Part.setSlot_openValues : (p.setSlot j b).openValues = p.openValues := rfl
@[simp] theorem Part.setSlot_openCount : (p.setSlot j b).openCount = p.openCount := rfl
@[simp] theorem Part.setSlot_zone' (k' : ZoneId) : (p.setSlot j b).zone k' = p.zone k' := rfl
@[simp] theorem Part.setSlot_mover' (m' : MoverId) : (p.setSlot j b).mover m' = p.mover m' := rfl
@[simp] theorem Part.setSlot_door' (d' : DoorId) : (p.setSlot j b).door d' = p.door d' := rfl
@[simp] theorem Part.setSlot_lane' (n' : Lane) : (p.setSlot j b).lane n' = p.lane n' := rfl
@[simp] theorem Part.setSlot_claim' (e' : EntryId) : (p.setSlot j b).claim e' = p.claim e' := rfl
@[simp] theorem Part.setSlot_line' (k' : LineId) : (p.setSlot j b).line k' = p.line k' := rfl
@[simp] theorem Part.setSlot_station' (st' : StationId) : (p.setSlot j b).station st' = p.station st' := rfl
@[simp] theorem Part.setSlot_inForce : (p.setSlot j b).inForce = p.inForce := rfl
@[simp] theorem Part.setSlot_now : (p.setSlot j b).now = p.now := rfl
@[simp] theorem Part.setSlot_planZone' (k' : ZoneId) : (p.setSlot j b).planZone k' = p.planZone k' := rfl
@[simp] theorem Part.setSlot_planMover' (m' : MoverId) : (p.setSlot j b).planMover m' = p.planMover m' := rfl
@[simp] theorem Part.setSlot_planDoor' (d' : DoorId) : (p.setSlot j b).planDoor d' = p.planDoor d' := rfl
@[simp] theorem Part.setSlot_partner' (m' : MoverId) : (p.setSlot j b).partner m' = p.partner m' := rfl
@[simp] theorem Part.setSlot_leader' (m' : MoverId) : (p.setSlot j b).leader m' = p.leader m' := rfl
@[simp] theorem Part.setSlot_ends' (m' : MoverId) : (p.setSlot j b).ends m' = p.ends m' := rfl
@[simp] theorem Part.setSlot_moverZone' (m' : MoverId) : (p.setSlot j b).moverZone m' = p.moverZone m' := rfl
@[simp] theorem Part.setSlot_doorZones' (d' : DoorId) : (p.setSlot j b).doorZones d' = p.doorZones d' := rfl
@[simp] theorem Part.setSlot_zoneDoors' (k' : ZoneId) : (p.setSlot j b).zoneDoors k' = p.zoneDoors k' := rfl
@[simp] theorem Part.setSlot_zoneMovers' (k' : ZoneId) : (p.setSlot j b).zoneMovers k' = p.zoneMovers k' := rfl
@[simp] theorem Part.setSlot_entryOfMover' (m' : MoverId) : (p.setSlot j b).entryOfMover m' = p.entryOfMover m' := rfl
@[simp] theorem Part.setSlot_profilePlan' (m' : MoverId) : (p.setSlot j b).profilePlan m' = p.profilePlan m' := rfl

end

/-! ### A record that has been set -/

@[simp] theorem Part.setZone_same (k : ZoneId) (z : Zone) : (p.setZone k z).zone k = z := by
  simp [Part.zone, Part.setZone]
theorem Part.setZone_get (k i : ZoneId) (z : Zone) :
    (p.setZone k z).zone i = if k = i then z else p.zone i := by
  simp [Part.zone, Part.setZone, getAt_setAt]
@[simp] theorem Part.setZone_ne {k i : ZoneId} (z : Zone) (h : k ≠ i) : (p.setZone k z).zone i = p.zone i := by
  simp [Part.setZone_get, h]
@[simp] theorem Part.setZone_setZone (k : ZoneId) (z y : Zone) : (p.setZone k z).setZone k y = p.setZone k y := by
  simp [Part.setZone]
@[simp] theorem Part.setZone_self (k : ZoneId) : p.setZone k (p.zone k) = p := by
  simp [Part.setZone, Part.zone]

@[simp] theorem Part.setMover_same (m : MoverId) (x : Mover) : (p.setMover m x).mover m = x := by
  simp [Part.mover, Part.setMover]
theorem Part.setMover_get (m i : MoverId) (x : Mover) :
    (p.setMover m x).mover i = if m = i then x else p.mover i := by
  simp [Part.mover, Part.setMover, getAt_setAt]
@[simp] theorem Part.setMover_ne {m i : MoverId} (x : Mover) (h : m ≠ i) : (p.setMover m x).mover i = p.mover i := by
  simp [Part.setMover_get, h]
@[simp] theorem Part.setMover_setMover (m : MoverId) (x y : Mover) : (p.setMover m x).setMover m y = p.setMover m y := by
  simp [Part.setMover]
@[simp] theorem Part.setMover_self (m : MoverId) : p.setMover m (p.mover m) = p := by
  simp [Part.setMover, Part.mover]

@[simp] theorem Part.setDoor_same (d : DoorId) (x : Door) : (p.setDoor d x).door d = x := by
  simp [Part.door, Part.setDoor]
theorem Part.setDoor_get (d i : DoorId) (x : Door) :
    (p.setDoor d x).door i = if d = i then x else p.door i := by
  simp [Part.door, Part.setDoor, getAt_setAt]
@[simp] theorem Part.setDoor_ne {d i : DoorId} (x : Door) (h : d ≠ i) : (p.setDoor d x).door i = p.door i := by
  simp [Part.setDoor_get, h]
@[simp] theorem Part.setDoor_setDoor (d : DoorId) (x y : Door) : (p.setDoor d x).setDoor d y = p.setDoor d y := by
  simp [Part.setDoor]
@[simp] theorem Part.setDoor_self (d : DoorId) : p.setDoor d (p.door d) = p := by
  simp [Part.setDoor, Part.door]

@[simp] theorem Part.setLane_same (n : Lane) (x : LaneContext) : (p.setLane n x).lane n = x := by
  simp [Part.lane, Part.setLane]
theorem Part.setLane_get (n i : Lane) (x : LaneContext) :
    (p.setLane n x).lane i = if n = i then x else p.lane i := by
  simp [Part.lane, Part.setLane, getAt_setAt]
@[simp] theorem Part.setLane_ne {n i : Lane} (x : LaneContext) (h : n ≠ i) : (p.setLane n x).lane i = p.lane i := by
  simp [Part.setLane_get, h]
@[simp] theorem Part.setLane_setLane (n : Lane) (x y : LaneContext) : (p.setLane n x).setLane n y = p.setLane n y := by
  simp [Part.setLane]
@[simp] theorem Part.setLane_self (n : Lane) : p.setLane n (p.lane n) = p := by
  simp [Part.setLane, Part.lane]

@[simp] theorem Part.setClaim_same (e : EntryId) (c : Claim) : (p.setClaim e c).claim e = c := by
  simp [Part.claim, Part.setClaim]
theorem Part.setClaim_get (e i : EntryId) (c : Claim) :
    (p.setClaim e c).claim i = if e = i then c else p.claim i := by
  simp [Part.claim, Part.setClaim, getAt_setAt]
@[simp] theorem Part.setClaim_ne {e i : EntryId} (c : Claim) (h : e ≠ i) : (p.setClaim e c).claim i = p.claim i := by
  simp [Part.setClaim_get, h]
@[simp] theorem Part.setClaim_setClaim (e : EntryId) (c y : Claim) : (p.setClaim e c).setClaim e y = p.setClaim e y := by
  simp [Part.setClaim]
@[simp] theorem Part.setClaim_self (e : EntryId) : p.setClaim e (p.claim e) = p := by
  simp [Part.setClaim, Part.claim]

@[simp] theorem Part.setLine_same (k : LineId) (g : Generator) : (p.setLine k g).line k = g := by
  simp [Part.line, Part.setLine]
theorem Part.setLine_get (k i : LineId) (g : Generator) :
    (p.setLine k g).line i = if k = i then g else p.line i := by
  simp [Part.line, Part.setLine, getAt_setAt]
@[simp] theorem Part.setLine_ne {k i : LineId} (g : Generator) (h : k ≠ i) : (p.setLine k g).line i = p.line i := by
  simp [Part.setLine_get, h]
@[simp] theorem Part.setLine_setLine (k : LineId) (g y : Generator) : (p.setLine k g).setLine k y = p.setLine k y := by
  simp [Part.setLine]
@[simp] theorem Part.setLine_self (k : LineId) : p.setLine k (p.line k) = p := by
  simp [Part.setLine, Part.line]

@[simp] theorem Part.setStation_same (st : StationId) (x : Station) : (p.setStation st x).station st = x := by
  simp [Part.station, Part.setStation]
theorem Part.setStation_get (st i : StationId) (x : Station) :
    (p.setStation st x).station i = if st = i then x else p.station i := by
  simp [Part.station, Part.setStation, getAt_setAt]
@[simp] theorem Part.setStation_ne {st i : StationId} (x : Station) (h : st ≠ i) : (p.setStation st x).station i = p.station i := by
  simp [Part.setStation_get, h]
@[simp] theorem Part.setStation_setStation (st : StationId) (x y : Station) : (p.setStation st x).setStation st y = p.setStation st y := by
  simp [Part.setStation]
@[simp] theorem Part.setStation_self (st : StationId) : p.setStation st (p.station st) = p := by
  simp [Part.setStation, Part.station]

@[simp] theorem Part.setSlot_same (j : SlotId) (b : BoardSlot) : (p.setSlot j b).slot j = b := by
  simp [Part.slot, Part.setSlot]
theorem Part.setSlot_get (j i : SlotId) (b : BoardSlot) :
    (p.setSlot j b).slot i = if j = i then b else p.slot i := by
  simp [Part.slot, Part.setSlot, getAt_setAt]
@[simp] theorem Part.setSlot_ne {j i : SlotId} (b : BoardSlot) (h : j ≠ i) : (p.setSlot j b).slot i = p.slot i := by
  simp [Part.setSlot_get, h]
@[simp] theorem Part.setSlot_setSlot (j : SlotId) (b y : BoardSlot) : (p.setSlot j b).setSlot j y = p.setSlot j y := by
  simp [Part.setSlot]
@[simp] theorem Part.setSlot_self (j : SlotId) : p.setSlot j (p.slot j) = p := by
  simp [Part.setSlot, Part.slot]

end Sys2Proof.Machine
end

