-- ==== Sys2Proof/Laws/Memory.lean ====
section
/-! SUPPORT. Exchange memory: every operation keeps the canonical form, and what a read gives after a write. -/

namespace Sys2Proof.Machine

/-! ### The canonical form -/

theorem canonicalFrom_cons {low a : Nat} {v : Byte} {rest : List Host.Cell} :
    canonicalFrom low ((a, v) :: rest) = true ↔
      low ≤ a ∧ a < Config.memoryBytes ∧ v ≠ 0 ∧ canonicalFrom (a + 1) rest = true := by
  simp [canonicalFrom, and_assoc]

theorem canonicalFrom_mono {low low' : Nat} {m : List Host.Cell} (h : canonicalFrom low m = true) (hl : low' ≤ low) :
    canonicalFrom low' m = true := by
  cases m with
  | nil => rfl
  | cons c rest =>
    obtain ⟨a, v⟩ := c
    rw [canonicalFrom_cons] at h ⊢
    exact ⟨by omega, h.2⟩

/-- An address below the list reads as unlisted. -/
theorem readByte_below {low a : Nat} {m : List Host.Cell} (h : canonicalFrom low m = true) (ha : a < low) :
    readByte m a = 0 := by
  induction m generalizing low with
  | nil => rfl
  | cons c rest ih =>
    obtain ⟨b, v⟩ := c
    rw [canonicalFrom_cons] at h
    have hb : b ≠ a := by omega
    simp only [readByte, if_neg hb]
    exact ih h.2.2.2 (by omega)

/-- An address outside exchange memory reads as unlisted. -/
theorem readByte_outside {low a : Nat} {m : List Host.Cell} (h : canonicalFrom low m = true)
    (ha : Config.memoryBytes ≤ a) : readByte m a = 0 := by
  induction m generalizing low with
  | nil => rfl
  | cons c rest ih =>
    obtain ⟨b, v⟩ := c
    rw [canonicalFrom_cons] at h
    have hb : b ≠ a := by omega
    simp only [readByte, if_neg hb]
    exact ih h.2.2.2

/-! ### One byte -/

theorem putByte_canonical {low a : Nat} {v : Byte} {m : List Host.Cell} (h : canonicalFrom low m = true)
    (hl : low ≤ a) (ha : a < Config.memoryBytes) : canonicalFrom low (putByte m a v) = true := by
  induction m generalizing low with
  | nil =>
    simp only [putByte]
    split
    · rfl
    · next hv => exact canonicalFrom_cons.2 ⟨hl, ha, hv, rfl⟩
  | cons c rest ih =>
    obtain ⟨b, w⟩ := c
    have h' := h
    rw [canonicalFrom_cons] at h'
    obtain ⟨h1, h2, h3, h4⟩ := h'
    simp only [putByte]
    split
    · next e =>
      subst e
      split
      · exact canonicalFrom_mono h4 (by omega)
      · next hv => exact canonicalFrom_cons.2 ⟨hl, ha, hv, h4⟩
    · split
      · next hlt =>
        split
        · exact h
        · next hv =>
          exact canonicalFrom_cons.2 ⟨hl, ha, hv, canonicalFrom_cons.2 ⟨by omega, h2, h3, h4⟩⟩
      · exact canonicalFrom_cons.2 ⟨h1, h2, h3, ih h4 (by omega)⟩

theorem readByte_putByte {low a b : Nat} {v : Byte} {m : List Host.Cell} (h : canonicalFrom low m = true) :
    readByte (putByte m a v) b = if a = b then v else readByte m b := by
  induction m generalizing low with
  | nil =>
    simp only [putByte]
    split
    · next hv => simp [readByte, hv]
    · simp [readByte]
  | cons c rest ih =>
    obtain ⟨d, w⟩ := c
    have h' := h
    rw [canonicalFrom_cons] at h'
    obtain ⟨-, -, -, h4⟩ := h'
    simp only [putByte]
    split
    · next e =>
      subst e
      split
      · next hv =>
        by_cases hab : a = b
        · subst hab; simp [hv, readByte_below h4]
        · simp [readByte, hab]
      · by_cases hab : a = b
        · simp [readByte, hab]
        · simp [readByte, hab]
    · next e =>
      split
      · next hlt =>
        split
        · next hv =>
          by_cases hab : a = b
          · subst hab
            have : d ≠ a := fun x => e x.symm
            simp [readByte, this, hv, readByte_below h4 (show a < d + 1 by omega)]
          · simp [hab]
        · by_cases hab : a = b
          · simp [readByte, hab]
          · simp [readByte, hab]
      · simp only [readByte, ih h4]
        by_cases hdb : d = b
        · have : a ≠ b := by omega
          simp [hdb, this]
        · simp [hdb]

theorem writeByte_wf {m : List Host.Cell} {a : Nat} {v : Byte} (h : Memory.wf m = true) :
    Memory.wf (writeByte m a v) = true := by
  unfold writeByte
  split
  · next ha => exact putByte_canonical h (Nat.zero_le a) ha
  · exact h

theorem readByte_writeByte {m : List Host.Cell} {a b : Nat} {v : Byte} (h : Memory.wf m = true)
    (ha : a < Config.memoryBytes) : readByte (writeByte m a v) b = if a = b then v else readByte m b := by
  rw [writeByte, if_pos ha]
  exact readByte_putByte h

theorem readByte_writeByte_ne {m : List Host.Cell} {a b : Nat} {v : Byte} (h : Memory.wf m = true) (hab : a ≠ b) :
    readByte (writeByte m a v) b = readByte m b := by
  unfold writeByte
  split
  · rw [readByte_putByte h, if_neg hab]
  · rfl

/-! ### Runs of bytes -/

theorem writeCells_wf {m cells : List Host.Cell} (h : Memory.wf m = true) : Memory.wf (writeCells m cells) = true := by
  induction cells generalizing m with
  | nil => exact h
  | cons c rest ih => exact ih (writeByte_wf h)

theorem writeCells_append (m l₁ l₂ : List Host.Cell) : writeCells m (l₁ ++ l₂) = writeCells (writeCells m l₁) l₂ := by
  induction l₁ generalizing m with
  | nil => rfl
  | cons c rest ih => exact ih _

/-- An address that no cell names reads as before. -/
theorem readByte_writeCells_other {m cells : List Host.Cell} {b : Nat} (h : Memory.wf m = true)
    (hb : ∀ c ∈ cells, c.1 ≠ b) : readByte (writeCells m cells) b = readByte m b := by
  induction cells generalizing m with
  | nil => rfl
  | cons c rest ih =>
    obtain ⟨a, v⟩ := c
    have ha : a ≠ b := hb (a, v) (by simp)
    rw [writeCells, ih (writeByte_wf h) (fun c hc => hb c (by simp [hc])), readByte_writeByte_ne h ha]

theorem mem_cellsFrom {a : Nat} {bytes : List Byte} {c : Host.Cell} (h : c ∈ cellsFrom a bytes) :
    a ≤ c.1 ∧ c.1 < a + bytes.length := by
  induction bytes generalizing a with
  | nil => simp [cellsFrom] at h
  | cons x rest ih =>
    rcases List.mem_cons.1 h with e | e
    · subst e; simp
    · have := ih e
      simp only [List.length_cons]
      omega

/-- A run of bytes leaves every address outside it alone. -/
theorem readByte_writeCells_cellsFrom_outside {m : List Host.Cell} {a b : Nat} {bytes : List Byte}
    (h : Memory.wf m = true) (hb : b < a ∨ a + bytes.length ≤ b) :
    readByte (writeCells m (cellsFrom a bytes)) b = readByte m b := by
  apply readByte_writeCells_other h
  intro c hc
  have := mem_cellsFrom hc
  omega

/-- A run of bytes reads back byte by byte. -/
theorem readByte_writeCells_cellsFrom_inside {m : List Host.Cell} {a i : Nat} {bytes : List Byte}
    (h : Memory.wf m = true) (hi : i < bytes.length) (ha : a + i < Config.memoryBytes) :
    readByte (writeCells m (cellsFrom a bytes)) (a + i) = byteAt bytes i := by
  induction bytes generalizing a i m with
  | nil => simp at hi
  | cons x rest ih =>
    rw [cellsFrom, writeCells]
    cases i with
    | zero =>
      rw [readByte_writeCells_cellsFrom_outside (writeByte_wf h) (by omega), readByte_writeByte h (by omega)]
      simp [byteAt]
    | succ j =>
      have := ih (a := a + 1) (i := j) (m := writeByte m a x) (writeByte_wf h) (by simpa using hi) (by omega)
      rw [show a + (j + 1) = a + 1 + j by omega, this]
      simp [byteAt]

theorem readBytes_length (m : List Host.Cell) (a n : Nat) : (readBytes m a n).length = n := by
  induction n generalizing a with
  | zero => rfl
  | succ k ih => simp [readBytes, ih]

theorem byteAt_readBytes {m : List Host.Cell} {a n i : Nat} (h : i < n) : byteAt (readBytes m a n) i = readByte m (a + i) := by
  induction n generalizing a i with
  | zero => omega
  | succ k ih =>
    cases i with
    | zero => simp [readBytes, byteAt]
    | succ j =>
      have := ih (a := a + 1) (i := j) (by omega)
      simpa [readBytes, byteAt, Nat.add_assoc, Nat.add_comm 1 j] using this

theorem bytes_ext {l₁ l₂ : List Byte} (hl : l₁.length = l₂.length) (h : ∀ i, i < l₁.length → byteAt l₁ i = byteAt l₂ i) :
    l₁ = l₂ := by
  apply List.ext_getElem hl
  intro i h1 h2
  have := h i h1
  simpa [byteAt, List.getD, List.getElem?_eq_getElem h1, List.getElem?_eq_getElem h2] using this

/-- Two memories that agree on a run read it alike. -/
theorem readBytes_congr {m m' : List Host.Cell} {a n : Nat} (h : ∀ i, i < n → readByte m (a + i) = readByte m' (a + i)) :
    readBytes m a n = readBytes m' a n := by
  apply bytes_ext (by simp [readBytes_length])
  intro i hi
  rw [readBytes_length] at hi
  rw [byteAt_readBytes hi, byteAt_readBytes hi, h i hi]

theorem readBytes_writeCells_outside {m : List Host.Cell} {a b n : Nat} {bytes : List Byte} (h : Memory.wf m = true)
    (hb : b + n ≤ a ∨ a + bytes.length ≤ b) :
    readBytes (writeCells m (cellsFrom a bytes)) b n = readBytes m b n := by
  apply readBytes_congr
  intro i hi
  exact readByte_writeCells_cellsFrom_outside h (by omega)

theorem readBytes_writeCells_inside {m : List Host.Cell} {a : Nat} {bytes : List Byte} (h : Memory.wf m = true)
    (ha : a + bytes.length ≤ Config.memoryBytes) :
    readBytes (writeCells m (cellsFrom a bytes)) a bytes.length = bytes := by
  apply bytes_ext (by simp [readBytes_length])
  intro i hi
  rw [readBytes_length] at hi
  rw [byteAt_readBytes hi, readByte_writeCells_cellsFrom_inside h hi (by omega)]

/-- Equal contents are equal data. -/
theorem canonical_ext {low : Nat} {m m' : List Host.Cell} (h : canonicalFrom low m = true) (h' : canonicalFrom low m' = true)
    (heq : ∀ a, readByte m a = readByte m' a) : m = m' := by
  induction m generalizing low m' with
  | nil =>
    cases m' with
    | nil => rfl
    | cons c' rest' =>
      obtain ⟨a', v'⟩ := c'
      rw [canonicalFrom_cons] at h'
      have := heq a'
      simp [readByte] at this
      exact absurd this.symm h'.2.2.1
  | cons c rest ih =>
    obtain ⟨a, v⟩ := c
    have hc := canonicalFrom_cons.1 h
    cases m' with
    | nil =>
      have := heq a
      simp [readByte] at this
      exact absurd this hc.2.2.1
    | cons c' rest' =>
      obtain ⟨a', v'⟩ := c'
      have hc' := canonicalFrom_cons.1 h'
      have haa : a = a' := by
        rcases Nat.lt_trichotomy a a' with hlt | e | hlt
        · have := heq a
          have hne : a' ≠ a := by omega
          simp only [readByte, if_true, if_neg hne, readByte_below hc'.2.2.2 (show a < a' + 1 by omega)] at this
          exact absurd this hc.2.2.1
        · exact e
        · have := heq a'
          have hne : a ≠ a' := by omega
          simp only [readByte, if_true, if_neg hne, readByte_below hc.2.2.2 (show a' < a + 1 by omega)] at this
          exact absurd this.symm hc'.2.2.1
      subst haa
      have hv : v = v' := by simpa [readByte] using heq a
      subst hv
      congr 1
      apply ih hc.2.2.2 hc'.2.2.2
      intro b
      by_cases hb : a = b
      · subst hb
        rw [readByte_below hc.2.2.2 (by omega), readByte_below hc'.2.2.2 (by omega)]
      · simpa [readByte, hb] using heq b

/-! ### Records -/

theorem slotBase_bound {link : Half} (h : linkValid link = true) :
    3072 ≤ slotBase link ∧ slotBase link + 64 ≤ Config.memoryBytes := by
  simp only [linkValid, Bool.and_eq_true] at h
  have h1 : 48 ≤ link.toNat := of_decide_eq_true h.1
  have h2 : link.toNat ≤ 4095 := of_decide_eq_true h.2
  simp only [slotBase, Config.memoryBytes]
  omega

theorem orderImage_length (h : OrderHead) (k : OrderKind) {params : List Byte} (hp : params.length ≤ 24) :
    (orderImage h k params).length = 42 := by
  simp [orderImage, padParams, halfBytes]
  omega

/-- An image placed in a record slot reads back. -/
theorem readImage_placed {m : List Host.Cell} {link : Half} {image : List Byte} (h : Memory.wf m = true)
    (hv : linkValid link = true) (hl : image.length = 42) :
    readImage (writeCells m (imageCells link image)) link = image := by
  have hb := slotBase_bound hv
  have h1 : (image.take 36).length = 36 := by simp [hl]
  have h2 : (image.drop 36).length = 6 := by simp [hl]
  rw [readImage, imageCells, writeCells_append]
  have e1 : readBytes (writeCells (writeCells m (cellsFrom (slotBase link) (image.take 36)))
      (cellsFrom (slotBase link + 58) (image.drop 36))) (slotBase link) 36 = image.take 36 := by
    rw [readBytes_writeCells_outside (writeCells_wf h) (by omega)]
    have := readBytes_writeCells_inside (m := m) (a := slotBase link) (bytes := image.take 36) h (by omega)
    rwa [h1] at this
  have e2 : readBytes (writeCells (writeCells m (cellsFrom (slotBase link) (image.take 36)))
      (cellsFrom (slotBase link + 58) (image.drop 36))) (slotBase link + 58) 6 = image.drop 36 := by
    have := readBytes_writeCells_inside (m := writeCells m (cellsFrom (slotBase link) (image.take 36)))
      (a := slotBase link + 58) (bytes := image.drop 36) (writeCells_wf h) (by omega)
    rwa [h2] at this
  rw [e1, e2, List.take_append_drop]

/-- A placed image leaves every byte outside its slot alone. -/
theorem readByte_placed_other {m : List Host.Cell} {link : Half} {image : List Byte} {b : Nat} (h : Memory.wf m = true)
    (hl : image.length = 42) (hb : b < slotBase link ∨ slotBase link + 64 ≤ b) :
    readByte (writeCells m (imageCells link image)) b = readByte m b := by
  have h1 : (image.take 36).length = 36 := by simp [hl]
  have h2 : (image.drop 36).length = 6 := by simp [hl]
  rw [imageCells, writeCells_append, readByte_writeCells_cellsFrom_outside (writeCells_wf h) (by omega),
    readByte_writeCells_cellsFrom_outside h (by omega)]

/-- Writing what is already there changes nothing. -/
theorem writeCells_same {m cells : List Host.Cell} (h : Memory.wf m = true) (hc : ∀ c ∈ cells, readByte m c.1 = c.2) :
    writeCells m cells = m := by
  induction cells with
  | nil => rfl
  | cons c rest ih =>
    have e : writeByte m c.1 c.2 = m := by
      by_cases ha : c.1 < Config.memoryBytes
      · apply canonical_ext (writeByte_wf h) h
        intro a
        rw [readByte_writeByte h ha]
        split
        · next e => rw [← hc c (List.mem_cons_self ..), e]
        · rfl
      · simp [writeByte, ha]
    show writeCells (writeByte m c.1 c.2) rest = m
    rw [e]
    exact ih (fun c' hc' => hc c' (List.mem_cons_of_mem _ hc'))

theorem cellsFrom_readBytes {m : List Host.Cell} {a n : Nat} {c : Host.Cell} (h : c ∈ cellsFrom a (readBytes m a n)) :
    readByte m c.1 = c.2 := by
  induction n generalizing a with
  | zero => simp [readBytes, cellsFrom] at h
  | succ k ih =>
    simp only [readBytes, cellsFrom, List.mem_cons] at h
    rcases h with rfl | h
    · rfl
    · exact ih h

/-- Placing the image that a slot holds changes nothing. -/
theorem placed_same {m : List Host.Cell} {link : Half} (h : Memory.wf m = true) :
    writeCells m (imageCells link (readImage m link)) = m := by
  apply writeCells_same h
  intro c hc
  have e1 : (readImage m link).take 36 = readBytes m (slotBase link) 36 := by
    rw [readImage, List.take_left' (readBytes_length ..)]
  have e2 : (readImage m link).drop 36 = readBytes m (slotBase link + 58) 6 := by
    rw [readImage, List.drop_left' (readBytes_length ..)]
  rw [imageCells, e1, e2] at hc
  rcases List.mem_append.1 hc with hc | hc
  · exact cellsFrom_readBytes hc
  · exact cellsFrom_readBytes hc

theorem reset_mem_wf : Memory.wf State.reset.mem = true := rfl

end Sys2Proof.Machine
end

