-- ==== Sys2Proof/Laws/Events.lean ====
section
/-! SUPPORT. How one event runs: the agenda, the end of an event, and what an event that leaves nothing to do comes to. -/

namespace Sys2Proof.Machine

/-! ### Lists of updates -/

/-- What every update keeps, a list of updates keeps. -/
theorem forEach_keeps {α : Type} {P : Part → Prop} {f : α → Part → Part} (hf : ∀ x q, P q → P (f x q)) :
    ∀ (l : List α) (q : Part), P q → P (forEach l f q) := by
  intro l
  induction l with
  | nil => exact fun q h => h
  | cons x rest ih => exact fun q h => ih _ (hf x q h)

@[simp] theorem forEach_nil {α : Type} (f : α → Part → Part) (q : Part) : forEach [] f q = q := rfl

@[simp] theorem forEach_cons {α : Type} (x : α) (l : List α) (f : α → Part → Part) (q : Part) :
    forEach (x :: l) f q = forEach l f (f x q) := rfl

/-- A list of updates that each change nothing. -/
theorem forEach_id {α : Type} {f : α → Part → Part} {q : Part} :
    ∀ l : List α, (∀ x ∈ l, f x q = q) → forEach l f q = q := by
  intro l
  induction l with
  | nil => exact fun _ => rfl
  | cons x rest ih =>
    intro h
    rw [forEach_cons, h x (by simp)]
    exact ih (fun y hy => h y (by simp [hy]))

@[simp] theorem whenTrue_true (f : Part → Part) (p : Part) : whenTrue true f p = f p := rfl
@[simp] theorem whenTrue_false (f : Part → Part) (p : Part) : whenTrue false f p = p := rfl

theorem whenTrue_keeps {P : Part → Prop} {f : Part → Part} {p : Part} {b : Bool} (h : P p) (hf : P (f p)) :
    P (whenTrue b f p) := by
  cases b
  · exact h
  · exact hf

/-! ### The blocks -/

theorem Part.Follows.refl (p : Part) : p.Follows p :=
  ⟨rfl, rfl, rfl, rfl, rfl, rfl, rfl, rfl, rfl, rfl, rfl, rfl, rfl, rfl, rfl⟩

theorem Part.Follows.trans {p q r : Part} (h : p.Follows q) (h' : q.Follows r) : p.Follows r :=
  ⟨h'.time.trans h.time, h'.zones.trans h.zones, h'.movers.trans h.movers, h'.doors.trans h.doors,
   h'.calls.trans h.calls, h'.player.trans h.player, h'.lines.trans h.lines, h'.lanes.trans h.lanes,
   h'.claims.trans h.claims, h'.waiters.trans h.waiters, h'.claimTicks.trans h.claimTicks, h'.field.trans h.field,
   h'.plan.trans h.plan, h'.generation.trans h.generation, h'.port.trans h.port⟩

theorem Part.Follows.zone {p q : Part} (h : p.Follows q) (k : ZoneId) : q.zone k = p.zone k := by
  simp [Part.zone, h.zones]

theorem Part.Follows.mover {p q : Part} (h : p.Follows q) (m : MoverId) : q.mover m = p.mover m := by
  simp [Part.mover, h.movers]

theorem Part.Follows.door {p q : Part} (h : p.Follows q) (d : DoorId) : q.door d = p.door d := by
  simp [Part.door, h.doors]

theorem Part.Follows.lane {p q : Part} (h : p.Follows q) (n : Lane) : q.lane n = p.lane n := by
  simp [Part.lane, h.lanes]

theorem Part.Follows.claim {p q : Part} (h : p.Follows q) (e : EntryId) : q.claim e = p.claim e := by
  simp [Part.claim, h.claims]

theorem Part.Follows.line {p q : Part} (h : p.Follows q) (k : LineId) : q.line k = p.line k := by
  simp [Part.line, h.lines]

/-! ### The agenda -/

theorem drain_done {m : List Host.Cell} {n : Nat} {p : Part} (h : p.agenda = []) : drain m n p = p := by
  cases n with
  | zero => rfl
  | succ k => simp [drain, h]

theorem drain_next {m : List Host.Cell} {n : Nat} {p : Part} (h : p.agenda ≠ []) :
    drain m (n + 1) p = drain m n (performNext m p) := by
  have : p.agenda.isEmpty = false := by cases e : p.agenda <;> simp_all
  simp [drain, this]

/-- The first micro-operation is performed with an empty agenda, and what it asks for comes first. -/
theorem performNext_cons {m : List Host.Cell} {p : Part} {a : Act} {rest : List Act} (h : p.agenda = a :: rest)
    (ha : a ≠ .arbitrate) :
    performNext m p =
      { perform m a { p with agenda := [] } with agenda := (perform m a { p with agenda := [] }).agenda ++ rest } := by
  unfold performNext
  rw [h]
  cases a <;> first | rfl | exact absurd rfl ha

/-- The first micro-operation and the rest of the run. -/
theorem drain_cons {m : List Host.Cell} {n : Nat} {p : Part} {a : Act} {rest : List Act} (h : p.agenda = a :: rest)
    (ha : a ≠ .arbitrate) :
    drain m (n + 1) p = drain m n
      { perform m a { p with agenda := [] } with agenda := (perform m a { p with agenda := [] }).agenda ++ rest } := by
  rw [drain_next (by simp [h]), performNext_cons h ha]

/-- What a part at rest asks for is performed in order, each with what it asks for in turn coming first. -/
theorem drain_emit {m : List Host.Cell} {n : Nat} {p : Part} {a : Act} {rest : List Act} (h : p.agenda = [])
    (ha : a ≠ .arbitrate) : drain m (n + 1) (p.emit (a :: rest)) = drain m n ((perform m a p).emit rest) := by
  have e : { p.emit (a :: rest) with agenda := [] } = p := by
    cases p
    simp_all [Part.emit]
  rw [drain_cons (a := a) (rest := rest) (by simp [h]) ha, e]
  rfl

@[simp] theorem emit_nil (p : Part) : p.emit [] = p := by simp [Part.emit]

@[simp] theorem emit_emit (p : Part) (l l' : List Act) : (p.emit l).emit l' = p.emit (l ++ l') := by simp [Part.emit]

/-- A part at rest stays. -/
theorem drain_emit_nil {m : List Host.Cell} {n : Nat} {p : Part} (h : p.agenda = []) : drain m n (p.emit []) = p := by
  rw [emit_nil, drain_done h]

/-- Micro-operations that change nothing are passed over. -/
theorem drain_idle {m : List Host.Cell} {n : Nat} {p : Part} {acts rest : List Act} (h : p.agenda = [])
    (ha : ∀ a ∈ acts, a ≠ .arbitrate ∧ perform m a p = p) :
    drain m (n + acts.length) (p.emit (acts ++ rest)) = drain m n (p.emit rest) := by
  induction acts with
  | nil => rfl
  | cons a l ih =>
    obtain ⟨h1, h2⟩ := ha a (List.mem_cons_self ..)
    rw [List.length_cons, ← Nat.add_assoc, List.cons_append, drain_emit h h1, h2]
    exact ih (fun b hb => ha b (List.mem_cons_of_mem _ hb))

/-- Arbitration alone on the agenda. -/
theorem performNext_arbitrate {m : List Host.Cell} {p : Part} (h : p.agenda = [.arbitrate]) :
    performNext m p = arbitrate { p with agenda := [] } := by
  unfold performNext
  rw [h]
  rfl

theorem arbitrate_no_waiters {p : Part} (h : p.waiters = []) : arbitrate p = p := by
  unfold arbitrate
  rw [h]
  simp only [forEach_nil]
  cases p
  simp_all

/-- With no waiters, arbitration does nothing. -/
theorem drain_arbitrate {m : List Host.Cell} {n : Nat} {p : Part} (h : p.agenda = [.arbitrate]) (hw : p.waiters = []) :
    drain m (n + 1) p = { p with agenda := [] } := by
  rw [drain_next (by simp [h]), performNext_arbitrate h, arbitrate_no_waiters (by exact hw), drain_done rfl]

/-! ### The end of an event -/

theorem handOver_eq (j : SlotId) (p : Part) : handOver j p = { p with board := (handOver j p).board } := rfl

theorem handOverAll_eq (pre p : Part) : handOverAll pre p = { p with board := (handOverAll pre p).board } := by
  unfold handOverAll
  apply forEach_keeps (P := fun q => q = { p with board := q.board })
  · intro j q hq
    split
    · rw [handOver_eq, hq]
    · exact hq
  · rfl

/-- A header write for the lanes and the generation that the event has changed. -/
def headerCells (pre p : Part) (c : Host.Cell) : Prop :=
  (∃ n : Lane, 18 + 8 * n.val ≤ c.1 ∧ c.1 ≤ 20 + 8 * n.val ∧
    ((pre.lane n).state ≠ (p.lane n).state ∨ (pre.lane n).headerLink ≠ (p.lane n).headerLink)) ∨
  (4 ≤ c.1 ∧ c.1 ≤ 5 ∧ pre.generation ≠ p.generation)

theorem updateHeader_eq (pre p : Part) :
    ∃ cells, updateHeader pre p = { p with writes := p.writes ++ cells } ∧ ∀ c ∈ cells, headerCells pre p c := by
  let P : Part → Prop := fun q => ∃ cells, q = { p with writes := p.writes ++ cells } ∧ ∀ c ∈ cells, headerCells pre p c
  have grow : ∀ (q : Part) (a : Nat) (bytes : List Byte), P q → (∀ c ∈ cellsFrom a bytes, headerCells pre p c) →
      P (q.write a bytes) := by
    rintro q a bytes ⟨cells, rfl, hc⟩ hb
    refine ⟨cells ++ cellsFrom a bytes, by simp [Part.write], ?_⟩
    intro c h
    rcases List.mem_append.1 h with h | h
    · exact hc c h
    · exact hb c h
  have lanes : ∀ q : Part, P q → q.lanes = p.lanes ∧ q.generation = p.generation := by
    rintro q ⟨cells, rfl, -⟩
    exact ⟨rfl, rfl⟩
  have lane_eq : ∀ q : Part, P q → ∀ n, q.lane n = p.lane n := by
    intro q hq n
    simp [Part.lane, (lanes q hq).1]
  have h1 : P (forEach (List.finRange 4) (fun n q =>
      whenTrue ((pre.lane n).state != (q.lane n).state) (writeLaneState n)
        (whenTrue ((pre.lane n).headerLink != (q.lane n).headerLink) (writeLaneLink n) q)) p) := by
    apply forEach_keeps (P := P)
    · intro n q hq
      have hl : P (whenTrue ((pre.lane n).headerLink != (q.lane n).headerLink) (writeLaneLink n) q) := by
        cases hb : ((pre.lane n).headerLink != (q.lane n).headerLink)
        · exact hq
        · refine grow q _ _ hq ?_
          intro c hc
          have := mem_cellsFrom hc
          simp only [halfBytes, List.length_cons, List.length_nil] at this
          rw [lane_eq q hq] at hb
          exact Or.inl ⟨n, by omega, by omega, Or.inr (by simpa using hb)⟩
      cases hb : ((pre.lane n).state != (q.lane n).state)
      · exact hl
      · refine grow _ _ _ hl ?_
        intro c hc
        have := mem_cellsFrom hc
        simp only [List.length_cons, List.length_nil] at this
        rw [lane_eq q hq] at hb
        exact Or.inl ⟨n, by omega, by omega, Or.inl (by simpa using hb)⟩
    · exact ⟨[], by simp, by simp⟩
  unfold updateHeader
  simp only
  generalize forEach (List.finRange 4) _ p = q at h1
  cases hb : (pre.generation != p.generation)
  · exact h1
  · refine grow _ _ _ h1 ?_
    intro c hc
    have := mem_cellsFrom hc
    simp only [halfBytes, List.length_cons, List.length_nil] at this
    exact Or.inr ⟨by omega, by omega, by simpa using hb⟩

theorem writeSlot_eq (j : SlotId) (c : SlotContent) (count : Half) (p : Part) :
    writeSlot j c count p = { p with writes := (writeSlot j c count p).writes } := rfl

theorem equalise_eq (m : List Host.Cell) (p : Part) :
    equalise m p = { p with board := (equalise m p).board, writes := (equalise m p).writes } := by
  have h1 : ∀ q, q = { p with board := q.board, writes := q.writes } →
      ∀ f : Part → Part, (∀ r, f r = { r with board := (f r).board, writes := (f r).writes }) →
      f q = { p with board := (f q).board, writes := (f q).writes } := by
    intro q hq f hf
    rw [hf, hq]
  unfold equalise
  simp only
  apply h1 _ _ writeGeneration (fun _ => rfl)
  apply forEach_keeps (P := fun q => q = { p with board := q.board, writes := q.writes })
  · intro n q hq
    exact h1 _ hq (fun q => writeLaneState n (writeLaneLink n q)) (fun _ => rfl)
  · apply forEach_keeps (P := fun q => q = { p with board := q.board, writes := q.writes })
    · intro j q hq
      exact h1 _ hq (equaliseSlot m j) (fun _ => rfl)
    · rfl

theorem settleInt_eq (p : Part) : settleInt p = { p with board := (settleInt p).board } := rfl

/-- The end of an event changes the Exchange Port and what is to be written. -/
theorem closeEvent_eq (m : List Host.Cell) (pre p : Part) :
    closeEvent m pre p =
      { p with board := (closeEvent m pre p).board, writes := (closeEvent m pre p).writes, forced := [] } := by
  have key : ∀ q : Part, q = { p with board := q.board, writes := q.writes, forced := q.forced } →
      settleInt { q with forced := [] } =
        { p with board := (settleInt { q with forced := [] }).board,
                 writes := (settleInt { q with forced := [] }).writes, forced := [] } := by
    intro q hq
    rw [settleInt_eq, hq]
  unfold closeEvent
  simp only
  apply key
  split
  · split
    · obtain ⟨cells, h, -⟩ := updateHeader_eq pre (handOverAll pre p)
      rw [h, handOverAll_eq]
    · rw [equalise_eq]
  · rw [handOverAll_eq]

theorem closeEvent_follows (m : List Host.Cell) (pre p : Part) : p.Follows (closeEvent m pre p) := by
  rw [closeEvent_eq]
  exact ⟨rfl, rfl, rfl, rfl, rfl, rfl, rfl, rfl, rfl, rfl, rfl, rfl, rfl, rfl, rfl⟩

theorem closeEvent_agenda (m : List Host.Cell) (pre p : Part) : (closeEvent m pre p).agenda = p.agenda := by
  rw [closeEvent_eq]

theorem closeEvent_forced (m : List Host.Cell) (pre p : Part) : (closeEvent m pre p).forced = [] := by
  rw [closeEvent_eq]

/-- Where the board is not equalised in this event, the event adds writes to the header alone. -/
theorem closeEvent_writes {m : List Host.Cell} {pre p : Part} (h : p.equalised = true → pre.equalised = true) :
    ∃ cells, (closeEvent m pre p).writes = p.writes ++ cells ∧ ∀ c ∈ cells, headerCells pre p c := by
  unfold closeEvent
  simp only
  split
  · next he =>
    rw [if_pos (h he)]
    obtain ⟨cells, hc, hm⟩ := updateHeader_eq pre (handOverAll pre p)
    refine ⟨cells, ?_, ?_⟩
    · rw [hc, settleInt_eq, handOverAll_eq]
    · intro c hcc
      have := hm c hcc
      rw [handOverAll_eq] at this
      exact this
  · refine ⟨[], ?_, by simp⟩
    rw [handOverAll_eq, settleInt_eq]
    simp

theorem settleInt_intHolds (p : Part) : (settleInt p).intHolds := ⟨rfl, rfl, rfl⟩

theorem closeEvent_intHolds (m : List Host.Cell) (pre p : Part) : (closeEvent m pre p).intHolds := by
  unfold closeEvent
  simp only
  exact settleInt_intHolds _

/-! ### A whole event -/

theorem metHolds_none {p : Part} (h : ∀ n, (p.lane n).waitKind ≠ some .hold) : p.metHolds = [] := by
  unfold Part.metHolds
  rw [List.filter_eq_nil_iff]
  intro n _
  simp [h n]

theorem endMetHolds_none {p : Part} (h : p.metHolds = []) : endMetHolds p = p := by
  rw [endMetHolds, h]
  simp [Part.emit]

/-- An event whose agenda comes to rest at `q`, where no HOLD is met, ends with the hand-over of `q`. -/
theorem eventPart_of_drain {f : List Host.Cell → Part → Part} {m : List Host.Cell} {p q : Part}
    (hd : drain m Config.agendaBound (f m p) = q) (hq : q.agenda = [])
    (hh : q.metHolds = []) : eventPart f m p = closeEvent m p q := by
  unfold eventPart
  simp only [hd]
  rw [endMetHolds_none hh, drain_done hq]

/-- What such an event leaves in the part. -/
theorem runEvent_follows {f : List Host.Cell → Part → Part} {s : State} {q : Part}
    (hd : drain s.mem Config.agendaBound (f s.mem s.part) = q) (hq : q.agenda = [])
    (hh : q.metHolds = []) :
    q.Follows (runEvent f s).part ∧ (runEvent f s).part.agenda = [] ∧ (runEvent f s).pending = s.pending := by
  unfold runEvent
  simp only
  rw [eventPart_of_drain hd hq hh]
  refine ⟨?_, ?_, trivial⟩
  · have := closeEvent_follows s.mem s.part q
    exact ⟨this.time, this.zones, this.movers, this.doors, this.calls, this.player, this.lines, this.lanes, this.claims,
      this.waiters, this.claimTicks, this.field, this.plan, this.generation, this.port⟩
  · exact (closeEvent_agenda s.mem s.part q).trans hq

/-- What such an event writes: what its micro-operations have asked for, then the header. -/
theorem runEvent_mem {f : List Host.Cell → Part → Part} {s : State} {q : Part}
    (hd : drain s.mem Config.agendaBound (f s.mem s.part) = q) (hq : q.agenda = [])
    (hh : q.metHolds = []) (he : q.equalised = true → s.part.equalised = true) :
    ∃ cells, (runEvent f s).mem = writeCells s.mem (q.writes ++ cells) ∧ ∀ c ∈ cells, headerCells s.part q c := by
  obtain ⟨cells, hc, hm⟩ := closeEvent_writes (m := s.mem) (pre := s.part) (p := q) he
  refine ⟨cells, ?_, hm⟩
  unfold runEvent
  simp only
  rw [eventPart_of_drain hd hq hh, hc]

/-- An event that comes to rest at `q`, which leaves of the lanes their states, their header links and what they wait for,
and leaves the generation and the part state. -/
theorem ran_of_drain {f : List Host.Cell → Part → Part} {s : State} (h : s.Quiet) {q : Part}
    (hd : drain s.mem Config.agendaBound (f s.mem s.part) = q)
    (ha : q.agenda = []) (hw : q.writes = [])
    (hl : ∀ n, (q.lane n).waitKind = (s.part.lane n).waitKind ∧ (q.lane n).state = (s.part.lane n).state ∧
      (q.lane n).headerLink = (s.part.lane n).headerLink)
    (hg : q.generation = s.part.generation) (hp : q.port.partState = s.part.port.partState) :
    s.Ran (runEvent f s) q := by
  have hh : ∀ n, (q.lane n).waitKind ≠ some .hold := fun n => by rw [(hl n).1]; exact h.noHold n (by simp)
  obtain ⟨h1, h2, h3⟩ := runEvent_follows hd ha (metHolds_none hh)
  obtain ⟨cells, hm, hc⟩ := runEvent_mem hd ha (metHolds_none hh)
    (fun e => by rw [Part.equalised, ← hp]; exact e)
  have : cells = [] := by
    cases cells with
    | nil => rfl
    | cons c rest =>
      rcases hc c (by simp) with ⟨n, -, -, hne⟩ | ⟨-, -, hne⟩
      · rw [(hl n).2.1, (hl n).2.2] at hne; simp at hne
      · exact absurd hg.symm hne
  exact ⟨h1, by rw [hm, this, hw]; rfl, h3, h2⟩

/-- An event of which nothing is left to do after its own change `q`, which leaves the lanes, the generation and the
part state as they are. -/
theorem ran_of_runEvent {f : List Host.Cell → Part → Part} {s : State} (h : s.Quiet) {q : Part} (hf : f s.mem s.part = q)
    (ha : q.agenda = []) (hw : q.writes = []) (hl : q.lanes = s.part.lanes) (hg : q.generation = s.part.generation)
    (hp : q.port.partState = s.part.port.partState) : s.Ran (runEvent f s) q := by
  have hlane : ∀ n, q.lane n = s.part.lane n := fun n => by simp [Part.lane, hl]
  exact ran_of_drain h (by rw [hf, drain_done ha]) ha hw (fun n => by rw [hlane]; exact ⟨rfl, rfl, rfl⟩) hg hp

/-- The same for an event that reads no exchange memory. -/
theorem ran_of_runLocal {f : Part → Part} {s : State} (h : s.Quiet) {q : Part} (hf : f s.part = q) (ha : q.agenda = [])
    (hw : q.writes = []) (hl : q.lanes = s.part.lanes) (hg : q.generation = s.part.generation)
    (hp : q.port.partState = s.part.port.partState) : s.Ran (runLocal f s) q :=
  ran_of_runEvent (f := fun _ => f) h hf ha hw hl hg hp

theorem unlessReset_quiet {s : State} (h : s.Quiet) (f : State → State) : unlessReset f s = f s := by
  simp [unlessReset, h.running]

theorem runWhen_due {due : Part → Bool} {f : Part → Part} {s : State} (h : due s.part = true) :
    runWhen due f s = runLocal f s := by simp [runWhen, h]

/-! ### The invariant -/

theorem runEvent_inv (f : List Host.Cell → Part → Part) {s : State} (h : Memory.wf s.mem = true) :
    (runEvent f s).Inv := by
  refine ⟨writeCells_wf h, ⟨rfl, ?_⟩, ?_⟩
  · show (eventPart f s.mem s.part).forced = []
    exact closeEvent_forced _ _ _
  · have := closeEvent_intHolds s.mem s.part
      (drain s.mem Config.agendaBound (endMetHolds (drain s.mem Config.agendaBound (f s.mem s.part))))
    exact this

theorem runEvent_pending (f : List Host.Cell → Part → Part) (s : State) : (runEvent f s).pending = s.pending := rfl

end Sys2Proof.Machine
end

