-- ==== Sys2Proof/Laws/Board.lean ====
section
/-! SUPPORT. The Exchange Port: what the end of an event leaves of the counts, the pending slots and the read. -/

namespace Sys2Proof.Machine

/-- Two ports agree on what pending slots and reads are made of. -/
structure SamePending (p q : Part) : Prop where
  read : q.board.read = p.board.read
  slot : ∀ j, (q.slot j).shadow = (p.slot j).shadow ∧ (q.slot j).seen = (p.slot j).seen ∧
    (q.slot j).notify = (p.slot j).notify

theorem SamePending.refl (p : Part) : SamePending p p := ⟨rfl, fun _ => ⟨rfl, rfl, rfl⟩⟩

theorem SamePending.trans {p q r : Part} (h : SamePending p q) (h' : SamePending q r) : SamePending p r :=
  ⟨h'.read.trans h.read, fun j =>
    ⟨(h'.slot j).1.trans (h.slot j).1, (h'.slot j).2.1.trans (h.slot j).2.1, (h'.slot j).2.2.trans (h.slot j).2.2⟩⟩

theorem SamePending.pendingSlots {p q : Part} (h : SamePending p q) : q.pendingSlots = p.pendingSlots := by
  unfold Part.pendingSlots
  apply List.filter_congr
  intro j _
  obtain ⟨h1, h2, h3⟩ := h.slot j
  simp [BoardSlot.pending, h1, h2, h3]

theorem handOver_samePending (j : SlotId) (p : Part) : SamePending p (handOver j p) := by
  refine ⟨rfl, fun i => ?_⟩
  unfold handOver
  rw [Part.setSlot_get]
  split
  · next h => subst h; exact ⟨rfl, rfl, rfl⟩
  · exact ⟨rfl, rfl, rfl⟩

theorem handOverAll_samePending (pre p : Part) : SamePending p (handOverAll pre p) := by
  unfold handOverAll
  apply forEach_keeps (P := fun q => SamePending p q)
  · intro j q hq
    split
    · exact hq.trans (handOver_samePending j q)
    · exact hq
  · exact SamePending.refl p

theorem settleInt_samePending (p : Part) : SamePending p (settleInt p) := ⟨rfl, fun _ => ⟨rfl, rfl, rfl⟩⟩

/-- The end of an event leaves the counts as they are, but where it equalises the board. -/
theorem closeEvent_samePending (m : List Host.Cell) {pre p : Part} (h : p.equalised = true → pre.equalised = true) :
    SamePending p (closeEvent m pre p) := by
  have key : ∀ q, SamePending p q → SamePending p (settleInt { q with forced := [] }) := fun q hq =>
    hq.trans ⟨rfl, fun _ => ⟨rfl, rfl, rfl⟩⟩
  unfold closeEvent
  simp only
  apply key
  split
  · next he =>
    rw [if_pos (h he)]
    obtain ⟨cells, hc, -⟩ := updateHeader_eq pre (handOverAll pre p)
    rw [hc]
    exact (handOverAll_samePending pre p).trans ⟨rfl, fun _ => ⟨rfl, rfl, rfl⟩⟩
  · exact handOverAll_samePending pre p

theorem closeEvent_nInt (m : List Host.Cell) (pre p : Part) :
    (closeEvent m pre p).board.nIntLow = (p.port.intEn && decide (0 < (closeEvent m pre p).pendingSlots.length)) := by
  obtain ⟨h1, -, h3⟩ := closeEvent_intHolds m pre p
  rw [h3, h1, (closeEvent_follows m pre p).port]

/-- An event that comes to rest at `q`, where no HOLD is met, leaves the counts of `q`, and nINT follows them. -/
theorem runEvent_samePending {f : List Host.Cell → Part → Part} {s : State} {q : Part}
    (hd : drain s.mem Config.agendaBound (f s.mem s.part) = q) (hq : q.agenda = [])
    (hh : q.metHolds = []) (he : q.equalised = true → s.part.equalised = true) :
    SamePending q (runEvent f s).part ∧
      (runEvent f s).part.board.nIntLow = (q.port.intEn && decide (0 < q.pendingSlots.length)) := by
  unfold runEvent
  simp only
  rw [eventPart_of_drain hd hq hh]
  have h := closeEvent_samePending s.mem (pre := s.part) (p := q) he
  refine ⟨⟨h.read, h.slot⟩, ?_⟩
  rw [← h.pendingSlots]
  exact closeEvent_nInt s.mem s.part q

/-! ### What a soft reset cuts short (R134; log entry 44) -/

/-- A cut burst writes the first bytes of a waiting slot's content, or nothing, and takes free values alone. -/
theorem cutBurst_does (p : Part) : ∃ cells ov oc, cutBurst p = (cells, { p with openValues := ov, openCount := oc }) ∧
    (cells = [] ∨ ∃ (j : SlotId) (k : Nat), (p.slot j).waiting = true ∧
      cells = cellsFrom (boardBase j + 5) ((p.slot j).content.bytes.take k)) := by
  obtain ⟨ov, oc, h⟩ : ∃ ov oc, p.takeOpen.2.takeOpen.2 = { p with openValues := ov, openCount := oc } := by
    unfold Part.takeOpen
    split <;> split <;> exact ⟨_, _, rfl⟩
  unfold cutBurst
  simp only
  rw [h]
  split
  · next j hj =>
    have waits : (p.slot j).waiting = true := by
      have inList := List.mem_of_getElem? hj
      unfold Part.waitingSlots at inList
      simpa using (List.mem_filter.mp inList).2
    exact ⟨_, _, _, rfl, Or.inr ⟨j, _, waits, rfl⟩⟩
  · exact ⟨_, _, _, rfl, Or.inl rfl⟩

/-- A cut retirement writes the first bytes of a result block and finished time of a record that a lane holds, or nothing, and takes
free values alone. -/
theorem cutRetirement_does (p : Part) :
    ∃ cells ov oc, cutRetirement p = (cells, { p with openValues := ov, openCount := oc }) ∧
      (cells = [] ∨ ∃ (held : HeldRecord) (block : List Byte) (k : Nat), held ∈ p.heldRecords ∧ block.length = 12 ∧
        cells = (resultCells held.link block p.now).take k) := by
  obtain ⟨ov, oc, h⟩ : ∃ ov oc, p.takeOpen.2.takeOpen.2.takeOpen.2.takeOpen.2.takeOpen.2 =
      { p with openValues := ov, openCount := oc } := by
    unfold Part.takeOpen
    split <;> split <;> split <;> split <;> split <;> exact ⟨_, _, rfl⟩
  unfold cutRetirement
  simp only
  rw [h]
  split
  · next held hj => exact ⟨_, _, _, rfl, Or.inr ⟨held, _, _, List.mem_of_getElem? hj, by simp [halfBytes, wordBytes], rfl⟩⟩
  · exact ⟨_, _, _, rfl, Or.inl rfl⟩

end Sys2Proof.Machine
end

