-- ==== Sys2Proof/Laws/Orders.lean ====
section
/-! SUPPORT. How a lane takes an order, how a record retires or waits, and what is then in exchange memory. -/

namespace Sys2Proof.Machine

/-! ### Result classes (Table 6-5) -/

@[simp] theorem failure_done : ResultCode.failure .done = false := by decide
@[simp] theorem failure_started : ResultCode.failure .started = false := by decide
@[simp] theorem failure_condition : ResultCode.failure .condition = false := by decide
@[simp] theorem failure_signalled : ResultCode.failure .signalled = true := by decide
@[simp] theorem failure_expired : ResultCode.failure .expired = true := by decide
@[simp] theorem failure_claimTimeout : ResultCode.failure .claimTimeout = true := by decide
@[simp] theorem failure_aborted : ResultCode.failure .aborted = true := by decide
@[simp] theorem failure_cancelled : ResultCode.failure .cancelled = true := by decide

/-! ### Byte order -/

theorem halfAt_halfBytes (h : Half) (rest : List Byte) : halfAt (halfBytes h ++ rest) 0 = h := by
  apply BitVec.eq_of_getLsbD_eq
  intro i hi
  simp only [halfAt, halfBytes, byteAt, List.cons_append, List.nil_append, List.getD_cons_zero, List.getD_cons_succ,
    BitVec.getLsbD_or, BitVec.getLsbD_shiftLeft, BitVec.getLsbD_setWidth, BitVec.getLsbD_ushiftRight]
  by_cases h8 : i < 8
  · simp [h8, hi]
  · simp [h8, hi, show i - 8 < 16 by omega, show 8 + (i - 8) = i by omega, show i - 8 < 8 by omega]

theorem wordAt_wordBytes (w : Word) (rest : List Byte) : wordAt (wordBytes w ++ rest) 0 = w := by
  apply BitVec.eq_of_getLsbD_eq
  intro i hi
  simp only [wordAt, wordBytes, halfAt, byteAt, List.cons_append, List.nil_append, List.getD_cons_zero,
    List.getD_cons_succ, BitVec.getLsbD_or, BitVec.getLsbD_shiftLeft, BitVec.getLsbD_setWidth,
    BitVec.getLsbD_ushiftRight]
  by_cases h8 : i < 8
  · simp [h8, show i < 16 by omega, show i < 32 by omega]
  · by_cases h16 : i < 16
    · simp [h8, h16, show i < 32 by omega, show i - 8 < 8 by omega, show i - 8 < 16 by omega,
        show 8 + (i - 8) = i by omega]
    · by_cases h24 : i < 24
      · simp [h8, h16, hi, show i - 16 < 16 by omega, show i - 16 < 8 by omega, show i - 16 < 32 by omega,
          show 16 + (i - 16) = i by omega]
      · simp [h8, h16, hi, show i - 16 < 16 by omega, show ¬ i - 16 < 8 by omega, show i - 16 < 32 by omega,
          show i - 16 - 8 < 8 by omega, show i - 16 - 8 < 16 by omega, show 24 + (i - 16 - 8) = i by omega]

/-! ### The writes of a retirement (R127) -/

/-- The cells of a retirement with detail `d` and values `f` and `g`. -/
def retireCells (held : HeldRecord) (r : Result) (d : Half) (f g : Word) (at' : Stamp) : List Host.Cell :=
  cellsFrom (slotBase held.link + 36)
      ([r.code.byte, if held.clamped then r.flags ||| flagClamped else r.flags] ++ halfBytes d ++ wordBytes f ++
        wordBytes g) ++
    cellsFrom (slotBase held.link + 52) (wordBytes at'.seconds) ++ cellsFrom (slotBase held.link + 57) [centisByte at'] ++
    (if held.standing then [] else cellsFrom (slotBase held.link) [ownerRetired])

theorem takeHalf_eq (v : Option Half) (p : Part) :
    ∃ ov oc, (takeHalf v p).2 = { p with openValues := ov, openCount := oc } ∧ ∀ h, v = some h → (takeHalf v p).1 = h := by
  cases v with
  | some h => exact ⟨_, _, rfl, by rintro _ ⟨⟩; rfl⟩
  | none =>
    simp only [takeHalf, Part.takeOpen]
    split
    · exact ⟨_, _, rfl, by simp⟩
    · exact ⟨_, _, rfl, by simp⟩

theorem takeWord_eq (v : Option Word) (p : Part) :
    ∃ ov oc, (takeWord v p).2 = { p with openValues := ov, openCount := oc } ∧ ∀ h, v = some h → (takeWord v p).1 = h := by
  cases v with
  | some h => exact ⟨_, _, rfl, by rintro _ ⟨⟩; rfl⟩
  | none =>
    simp only [takeWord, Part.takeOpen]
    split
    · exact ⟨_, _, rfl, by simp⟩
    · exact ⟨_, _, rfl, by simp⟩

/-- A retirement writes its cells and may use up free values. -/
theorem retireRecord_eq (held : HeldRecord) (r : Result) (p : Part) :
    ∃ d f g ov oc,
      retireRecord held r p =
        { p with writes := p.writes ++ retireCells held r d f g p.now, openValues := ov, openCount := oc } ∧
      (∀ h, r.detail = some h → d = h) ∧ (∀ w, r.first = some w → f = w) ∧ (∀ w, r.second = some w → g = w) := by
  obtain ⟨ov1, oc1, e1, h1⟩ := takeHalf_eq r.detail p
  obtain ⟨ov2, oc2, e2, h2⟩ := takeWord_eq r.first (takeHalf r.detail p).2
  obtain ⟨ov3, oc3, e3, h3⟩ := takeWord_eq r.second (takeWord r.first (takeHalf r.detail p).2).2
  refine ⟨(takeHalf r.detail p).1, (takeWord r.first (takeHalf r.detail p).2).1,
    (takeWord r.second (takeWord r.first (takeHalf r.detail p).2).2).1, ov3, oc3, ?_, h1, h2, h3⟩
  unfold retireRecord
  simp only
  rw [e3, e2, e1]
  unfold retireCells
  cases held.standing <;> simp [Part.write, Part.now, resultCells]

/-- What a lane's retirement of a record leaves (R141). -/
theorem laneRetires_eq (n : Lane) (held : HeldRecord) (r : Result) (p : Part) :
    ∃ d f g ov oc fs,
      laneRetires n held r p =
        { p with lanes := setAt p.lanes n { p.lane n with retired := (p.lane n).retired + 1, anchor := .record held.link },
                 writes := p.writes ++ retireCells held r d f g p.now, forced := fs, openValues := ov, openCount := oc } ∧
      (∀ h, r.detail = some h → d = h) ∧ (∀ w, r.first = some w → f = w) ∧ (∀ w, r.second = some w → g = w) := by
  obtain ⟨d, f, g, ov, oc, e, h1, h2, h3⟩ := retireRecord_eq held r p
  cases hn : held.notify
  · refine ⟨d, f, g, ov, oc, p.forced, ?_, h1, h2, h3⟩
    simp only [laneRetires, hn, whenTrue_false, e]
    rfl
  · refine ⟨d, f, g, ov, oc, laneSlot n :: p.forced, ?_, h1, h2, h3⟩
    simp only [laneRetires, hn, whenTrue_true, e]
    rfl

/-- What the retirement of the current record leaves. -/
theorem retireCurrent_eq {n : Lane} {held : HeldRecord} (r : Result) {p : Part} (h : (p.lane n).current = some held) :
    ∃ d f g ov oc fs,
      retireCurrent n r p =
        { p with lanes := setAt p.lanes n { p.lane n with retired := (p.lane n).retired + 1, anchor := .record held.link, current := none, waitKind := none, holdTimer := none },
                 writes := p.writes ++ retireCells held r d f g p.now, forced := fs, openValues := ov, openCount := oc } ∧
      (∀ h, r.detail = some h → d = h) ∧ (∀ w, r.first = some w → f = w) ∧ (∀ w, r.second = some w → g = w) := by
  obtain ⟨d, f, g, ov, oc, fs, e, h1, h2, h3⟩ := laneRetires_eq n held r p
  refine ⟨d, f, g, ov, oc, fs, ?_, h1, h2, h3⟩
  simp only [retireCurrent, h, e]
  simp [dropCurrent, Part.setLane, Part.lane]

theorem followLink_eq (n : Lane) (link : Half) (p : Part) :
    followLink n link p =
      p.setLane n { p.lane n with state := if link = 0 then .resting else .working,
                                  link := if link = 0 then none else some link } := by
  unfold followLink
  split <;> simp

/-- What the retirement of the current record leaves, once the lane follows `next` (R141, R142). -/
theorem retire_follow_eq {n : Lane} {held : HeldRecord} (r : Result) (next : Half) {p : Part}
    (h : (p.lane n).current = some held) :
    ∃ d f g ov oc fs,
      followLink n next (retireCurrent n r p) =
        { p with lanes := setAt p.lanes n ((p.lane n).goesOn held.link next),
                 writes := p.writes ++ retireCells held r d f g p.now, forced := fs, openValues := ov, openCount := oc } ∧
      (∀ h, r.detail = some h → d = h) ∧ (∀ w, r.first = some w → f = w) ∧ (∀ w, r.second = some w → g = w) := by
  obtain ⟨d, f, g, ov, oc, fs, e, h1, h2, h3⟩ := retireCurrent_eq r h
  refine ⟨d, f, g, ov, oc, fs, ?_, h1, h2, h3⟩
  rw [followLink_eq, e]
  simp [Part.setLane, Part.lane, LaneContext.goesOn]

/-- A retirement takes no slot off those that the event rewrites. -/
theorem retireCurrent_forced {n : Lane} (r : Result) {p : Part} {j : SlotId} (h : j ∈ p.forced) :
    j ∈ (retireCurrent n r p).forced := by
  unfold retireCurrent
  split
  · next held _ =>
    obtain ⟨d, f, g, ov, oc, e, -⟩ := retireRecord_eq held r p
    show j ∈ (laneRetires n held r p).forced
    cases hn : held.notify
    · simp only [laneRetires, hn, whenTrue_false, e]
      exact h
    · simp only [laneRetires, hn, whenTrue_true, e]
      exact List.mem_cons_of_mem _ h
  · exact h

theorem followLink_forced (n : Lane) (link : Half) (p : Part) : (followLink n link p).forced = p.forced := by
  rw [followLink_eq]
  rfl

/-- The end of an order of the success class (R141). -/
theorem orderEnds_success {n : Lane} {held : HeldRecord} {r : Result} {p : Part} (h : (p.lane n).current = some held)
    (hr : r.code.failure = false) : orderEnds n r p = followLink n held.next (retireCurrent n r p) := by
  unfold orderEnds
  simp [h, hr]

/-- The end of an order of the failure class with an alternate link (R141). -/
theorem orderEnds_alternate {n : Lane} {held : HeldRecord} {r : Result} {p : Part} (h : (p.lane n).current = some held)
    (hr : r.code.failure = true) (ha : held.alternate ≠ 0) :
    orderEnds n r p = followLink n held.alternate (retireCurrent n r p) := by
  unfold orderEnds
  simp only [h, hr, Bool.not_true, Bool.false_eq_true, if_false]
  rw [if_pos ha]

/-- The end of an order of the failure class with no alternate link and no open group (R141). -/
theorem orderEnds_stops {n : Lane} {held : HeldRecord} {r : Result} {p : Part} (h : (p.lane n).current = some held)
    (hr : r.code.failure = true) (ha : held.alternate = 0) (hn : ((retireCurrent n r p).lane n).nest = []) :
    orderEnds n r p = stopLane n .failedOrder none (retireCurrent n r p) := by
  unfold orderEnds
  simp [h, hr, ha, hn]

theorem orderEnds_idle {n : Lane} {r : Result} {p : Part} (h : (p.lane n).current = none) : orderEnds n r p = p := by
  unfold orderEnds
  simp [h]

/-! ### What a retirement leaves in exchange memory -/

theorem wordBytes_length (w : Word) : (wordBytes w).length = 4 := rfl
theorem halfBytes_length (h : Half) : (halfBytes h).length = 2 := rfl

theorem retireCells_inside {held : HeldRecord} {r : Result} {d : Half} {f g : Word} {at' : Stamp} {c : Host.Cell}
    (h : c ∈ retireCells held r d f g at') : slotBase held.link ≤ c.1 ∧ c.1 < slotBase held.link + 64 := by
  unfold retireCells at h
  simp only [List.mem_append] at h
  rcases h with ((h | h) | h) | h
  · have := mem_cellsFrom h
    simp only [List.length_append, List.length_cons, List.length_nil, wordBytes_length, halfBytes_length] at this
    omega
  · have := mem_cellsFrom h
    rw [wordBytes_length] at this
    omega
  · have := mem_cellsFrom h
    simp only [List.length_cons, List.length_nil] at this
    omega
  · cases hs : held.standing
    · simp only [hs, Bool.false_eq_true, if_false] at h
      have := mem_cellsFrom h
      simp only [List.length_cons, List.length_nil] at this
      omega
    · simp [hs] at h

theorem readWord_at {m : List Host.Cell} {a : Nat} {w : Word} (h : readBytes m a 4 = wordBytes w) : readWord m a = w := by
  have := wordAt_wordBytes w []
  rw [List.append_nil] at this
  rw [readWord, h, this]

theorem readHalf_at {m : List Host.Cell} {a : Nat} {w : Half} (h : readBytes m a 2 = halfBytes w) : readHalf m a = w := by
  have := halfAt_halfBytes w []
  rw [List.append_nil] at this
  rw [readHalf, h, this]

/-- The result block and the owner byte after a retirement, and after later writes outside the record. -/
theorem retireCells_show {m post : List Host.Cell} {held : HeldRecord} {r : Result} {d : Half} {f g : Word} {at' : Stamp}
    (hm : Memory.wf m = true) (hv : linkValid held.link = true)
    (hp : ∀ c ∈ post, outsideSlot held.link c.1)
    (h1 : ∀ h, r.detail = some h → d = h) (h2 : ∀ w, r.first = some w → f = w) (h3 : ∀ w, r.second = some w → g = w) :
    let m' := writeCells m (retireCells held r d f g at' ++ post)
    ShowsResult m' held.link { r with flags := if held.clamped then r.flags ||| flagClamped else r.flags } ∧
      readByte m' (slotBase held.link) = (if held.standing then readByte m (slotBase held.link) else ownerRetired) := by
  have hb := slotBase_bound hv
  intro m'
  let block := [r.code.byte, if held.clamped then r.flags ||| flagClamped else r.flags] ++ halfBytes d ++ wordBytes f ++
    wordBytes g
  let m1 := writeCells m (cellsFrom (slotBase held.link + 36) block)
  let m2 := writeCells m1 (cellsFrom (slotBase held.link + 52) (wordBytes at'.seconds))
  let m3 := writeCells m2 (cellsFrom (slotBase held.link + 57) [centisByte at'])
  let m4 := writeCells m3 (if held.standing then [] else cellsFrom (slotBase held.link) [ownerRetired])
  have hm' : m' = writeCells m4 post := by
    show writeCells m (retireCells held r d f g at' ++ post) = _
    unfold retireCells
    simp only [writeCells_append]
    rfl
  have w1 : Memory.wf m1 = true := writeCells_wf hm
  have w2 : Memory.wf m2 = true := writeCells_wf w1
  have w3 : Memory.wf m3 = true := writeCells_wf w2
  have w4 : Memory.wf m4 = true := writeCells_wf w3
  have later : ∀ a, slotBase held.link ≤ a → a < slotBase held.link + 64 → readByte m' a = readByte m4 a := by
    intro a ha hb'
    rw [hm']
    apply readByte_writeCells_other w4
    intro c hc e
    have := hp c hc
    rw [e] at this
    unfold outsideSlot at this
    omega
  have owner4 : ∀ a, slotBase held.link < a → readByte m4 a = readByte m3 a := by
    intro a ha
    show readByte (writeCells m3 _) a = _
    cases held.standing
    · simp only [Bool.false_eq_true, if_false]
      exact readByte_writeCells_cellsFrom_outside w3 (by simp; omega)
    · rfl
  have body : ∀ a, slotBase held.link + 36 ≤ a → a < slotBase held.link + 48 → readByte m' a = readByte m1 a := by
    intro a ha hb'
    rw [later a (by omega) (by omega), owner4 a (by omega)]
    have e3 : readByte m3 a = readByte m2 a := readByte_writeCells_cellsFrom_outside w2 (by omega)
    have e2 : readByte m2 a = readByte m1 a := readByte_writeCells_cellsFrom_outside w1 (by omega)
    rw [e3, e2]
  have inside : ∀ i, i < 12 → readByte m' (slotBase held.link + 36 + i) = byteAt block i := by
    intro i hi
    rw [body _ (by omega) (by omega)]
    exact readByte_writeCells_cellsFrom_inside hm (by simp [block, wordBytes_length, halfBytes_length]; omega) (by omega)
  have run : ∀ (i k : Nat) (l : List Byte), i + k ≤ 12 → l.length = k →
      (∀ j, j < k → byteAt block (i + j) = byteAt l j) → readBytes m' (slotBase held.link + 36 + i) k = l := by
    intro i k l hik hl hj
    apply bytes_ext (by simp [readBytes_length, hl])
    intro j hjk
    rw [readBytes_length] at hjk
    rw [byteAt_readBytes hjk, Nat.add_assoc, inside (i + j) (by omega), hj j hjk]
  refine ⟨⟨?_, ?_, ?_, ?_, ?_⟩, ?_⟩
  · exact inside 0 (by omega)
  · exact inside 1 (by omega)
  · intro h hh
    apply readHalf_at
    refine run 2 2 _ (by omega) rfl ?_
    intro j hj
    have : d = h := h1 h hh
    subst this
    match j, hj with
    | 0, _ => rfl
    | 1, _ => rfl
  · intro w hw
    apply readWord_at
    refine run 4 4 _ (by omega) rfl ?_
    intro j hj
    have : f = w := h2 w hw
    subst this
    match j, hj with
    | 0, _ => rfl
    | 1, _ => rfl
    | 2, _ => rfl
    | 3, _ => rfl
  · intro w hw
    apply readWord_at
    refine run 8 4 _ (by omega) rfl ?_
    intro j hj
    have : g = w := h3 w hw
    subst this
    match j, hj with
    | 0, _ => rfl
    | 1, _ => rfl
    | 2, _ => rfl
    | 3, _ => rfl
  · rw [later _ (by omega) (by omega)]
    show readByte (writeCells m3 _) _ = _
    cases held.standing
    · simp only [Bool.false_eq_true, if_false]
      have := readByte_writeCells_cellsFrom_inside (m := m3) (a := slotBase held.link) (i := 0) (bytes := [ownerRetired])
        w3 (by simp) (by omega)
      simpa [byteAt] using this
    · simp only [if_true, writeCells]
      have e3 : readByte m3 (slotBase held.link) = readByte m2 (slotBase held.link) :=
        readByte_writeCells_cellsFrom_outside w2 (by omega)
      have e2 : readByte m2 (slotBase held.link) = readByte m1 (slotBase held.link) :=
        readByte_writeCells_cellsFrom_outside w1 (by omega)
      have e1 : readByte m1 (slotBase held.link) = readByte m (slotBase held.link) :=
        readByte_writeCells_cellsFrom_outside hm (by omega)
      rw [e3, e2, e1]

/-! ### Taking an order (R138, R139; log entry 4) -/

/-- The lane has taken the record in slot `link` with this image. -/
def takenPart (n : Lane) (link : Half) (standing : Bool) (image : List Byte) (p : Part) : Part :=
  writeTaken link standing (p.setLane n { p.lane n with
    current := some { link := link, standing := standing, bytes := image, clamped := false }, link := none,
    budget := (p.lane n).budget - 1, holdMarks := 0 })

/-- The cells of a taking (R126). -/
def takenCells (link : Half) (standing : Bool) (at' : Stamp) : List Host.Cell :=
  cellsFrom (slotBase link + 48) (wordBytes at'.seconds) ++ cellsFrom (slotBase link + 56) [centisByte at'] ++
    cellsFrom (slotBase link + 36) [0] ++ (if standing then [] else cellsFrom (slotBase link) [ownerActive])

theorem takenPart_eq (n : Lane) (link : Half) (standing : Bool) (image : List Byte) (p : Part) :
    takenPart n link standing image p =
      { p with
        lanes := setAt p.lanes n { p.lane n with
          current := some { link := link, standing := standing, bytes := image, clamped := false }, link := none,
          budget := (p.lane n).budget - 1, holdMarks := 0 },
        writes := p.writes ++ takenCells link standing p.now } := by
  unfold takenPart writeTaken takenCells
  cases standing <;> simp [Part.write, Part.setLane, Part.now]

section
variable (n : Lane) (link : Half) (st : Bool) (image : List Byte) (p : Part)

@[simp] theorem takenPart_time : (takenPart n link st image p).time = p.time := by rw [takenPart_eq]
@[simp] theorem takenPart_zones : (takenPart n link st image p).zones = p.zones := by rw [takenPart_eq]
@[simp] theorem takenPart_movers : (takenPart n link st image p).movers = p.movers := by rw [takenPart_eq]
@[simp] theorem takenPart_doors : (takenPart n link st image p).doors = p.doors := by rw [takenPart_eq]
@[simp] theorem takenPart_calls : (takenPart n link st image p).calls = p.calls := by rw [takenPart_eq]
@[simp] theorem takenPart_player : (takenPart n link st image p).player = p.player := by rw [takenPart_eq]
@[simp] theorem takenPart_lines : (takenPart n link st image p).lines = p.lines := by rw [takenPart_eq]
@[simp] theorem takenPart_board : (takenPart n link st image p).board = p.board := by rw [takenPart_eq]
@[simp] theorem takenPart_claims : (takenPart n link st image p).claims = p.claims := by rw [takenPart_eq]
@[simp] theorem takenPart_waiters : (takenPart n link st image p).waiters = p.waiters := by rw [takenPart_eq]
@[simp] theorem takenPart_claimTicks : (takenPart n link st image p).claimTicks = p.claimTicks := by rw [takenPart_eq]
@[simp] theorem takenPart_field : (takenPart n link st image p).field = p.field := by rw [takenPart_eq]
@[simp] theorem takenPart_plan : (takenPart n link st image p).plan = p.plan := by rw [takenPart_eq]
@[simp] theorem takenPart_generation : (takenPart n link st image p).generation = p.generation := by rw [takenPart_eq]
@[simp] theorem takenPart_port : (takenPart n link st image p).port = p.port := by rw [takenPart_eq]
@[simp] theorem takenPart_agenda : (takenPart n link st image p).agenda = p.agenda := by rw [takenPart_eq]
@[simp] theorem takenPart_forced : (takenPart n link st image p).forced = p.forced := by rw [takenPart_eq]
@[simp] theorem takenPart_openValues : (takenPart n link st image p).openValues = p.openValues := by rw [takenPart_eq]
@[simp] theorem takenPart_openCount : (takenPart n link st image p).openCount = p.openCount := by rw [takenPart_eq]
@[simp] theorem takenPart_now : (takenPart n link st image p).now = p.now := by rw [takenPart_eq]; rfl
@[simp] theorem takenPart_inForce : (takenPart n link st image p).inForce = p.inForce := by rw [takenPart_eq]; rfl
@[simp] theorem takenPart_zone (i : ZoneId) : (takenPart n link st image p).zone i = p.zone i := by rw [takenPart_eq]; rfl
@[simp] theorem takenPart_mover (i : MoverId) : (takenPart n link st image p).mover i = p.mover i := by rw [takenPart_eq]; rfl
@[simp] theorem takenPart_door (i : DoorId) : (takenPart n link st image p).door i = p.door i := by rw [takenPart_eq]; rfl
@[simp] theorem takenPart_claim (i : EntryId) : (takenPart n link st image p).claim i = p.claim i := by rw [takenPart_eq]; rfl
@[simp] theorem takenPart_line (i : LineId) : (takenPart n link st image p).line i = p.line i := by rw [takenPart_eq]; rfl
@[simp] theorem takenPart_station (i : StationId) : (takenPart n link st image p).station i = p.station i := by rw [takenPart_eq]; rfl
@[simp] theorem takenPart_slot (i : SlotId) : (takenPart n link st image p).slot i = p.slot i := by rw [takenPart_eq]; rfl
@[simp] theorem takenPart_planZone (i : ZoneId) : (takenPart n link st image p).planZone i = p.planZone i := by rw [takenPart_eq]; rfl
@[simp] theorem takenPart_planMover (i : MoverId) : (takenPart n link st image p).planMover i = p.planMover i := by rw [takenPart_eq]; rfl
@[simp] theorem takenPart_planDoor (i : DoorId) : (takenPart n link st image p).planDoor i = p.planDoor i := by rw [takenPart_eq]; rfl
@[simp] theorem takenPart_partner (i : MoverId) : (takenPart n link st image p).partner i = p.partner i := by rw [takenPart_eq]; rfl
@[simp] theorem takenPart_leader (i : MoverId) : (takenPart n link st image p).leader i = p.leader i := by rw [takenPart_eq]; rfl
@[simp] theorem takenPart_ends (i : MoverId) : (takenPart n link st image p).ends i = p.ends i := by rw [takenPart_eq]; rfl
@[simp] theorem takenPart_moverZone (i : MoverId) : (takenPart n link st image p).moverZone i = p.moverZone i := by rw [takenPart_eq]; rfl
@[simp] theorem takenPart_doorZones (i : DoorId) : (takenPart n link st image p).doorZones i = p.doorZones i := by rw [takenPart_eq]; rfl
@[simp] theorem takenPart_zoneDoors (i : ZoneId) : (takenPart n link st image p).zoneDoors i = p.zoneDoors i := by rw [takenPart_eq]; rfl
@[simp] theorem takenPart_zoneMovers (i : ZoneId) : (takenPart n link st image p).zoneMovers i = p.zoneMovers i := by rw [takenPart_eq]; rfl
@[simp] theorem takenPart_entryOfMover (i : MoverId) : (takenPart n link st image p).entryOfMover i = p.entryOfMover i := by rw [takenPart_eq]; rfl
@[simp] theorem takenPart_profilePlan (i : MoverId) : (takenPart n link st image p).profilePlan i = p.profilePlan i := by rw [takenPart_eq]; rfl
@[simp] theorem takenPart_motion (i : MoverId) : (takenPart n link st image p).motion i = p.motion i := by rw [takenPart_eq]; rfl
@[simp] theorem takenPart_setZone (k : ZoneId) (z : Zone) :
    (takenPart n link st image p).setZone k z = takenPart n link st image (p.setZone k z) := by simp [takenPart_eq, Part.setZone, Part.lane, Part.now]
@[simp] theorem takenPart_setMover (m : MoverId) (x : Mover) :
    (takenPart n link st image p).setMover m x = takenPart n link st image (p.setMover m x) := by simp [takenPart_eq, Part.setMover, Part.lane, Part.now]
@[simp] theorem takenPart_setDoor (d : DoorId) (x : Door) :
    (takenPart n link st image p).setDoor d x = takenPart n link st image (p.setDoor d x) := by simp [takenPart_eq, Part.setDoor, Part.lane, Part.now]
@[simp] theorem takenPart_setClaim (e : EntryId) (c : Claim) :
    (takenPart n link st image p).setClaim e c = takenPart n link st image (p.setClaim e c) := by simp [takenPart_eq, Part.setClaim, Part.lane, Part.now]
@[simp] theorem takenPart_setLine (k : LineId) (g : Generator) :
    (takenPart n link st image p).setLine k g = takenPart n link st image (p.setLine k g) := by simp [takenPart_eq, Part.setLine, Part.lane, Part.now]
@[simp] theorem takenPart_paramChecks (r : List Byte) (k : OrderKind) :
    (takenPart n link st image p).paramChecks r k = p.paramChecks r k := by rw [takenPart_eq]; rfl
@[simp] theorem takenPart_claimEntry (r : List Byte) : (takenPart n link st image p).claimEntry r = p.claimEntry r := by
  rw [takenPart_eq]; rfl
theorem takenPart_writes : (takenPart n link st image p).writes = p.writes ++ takenCells link st p.now := by
  rw [takenPart_eq]
theorem takenPart_lane_same : (takenPart n link st image p).lane n =
    { (p.lane n).taken with
      current := some { link := link, standing := st, bytes := image, clamped := false }, link := none } := by
  rw [takenPart_eq]; simp [Part.lane, LaneContext.taken]
theorem takenPart_lane_ne {l : Lane} (h : l ≠ n) : (takenPart n link st image p).lane l = p.lane l := by
  rw [takenPart_eq]; simp [Part.lane, Ne.symm h]
@[simp] theorem takenPart_bridge (l : Lane) : ((takenPart n link st image p).lane l).bridge = (p.lane l).bridge := by
  by_cases h : l = n
  · subst h; rw [takenPart_lane_same]; rfl
  · rw [takenPart_lane_ne _ _ _ _ _ h]
@[simp] theorem takenPart_nest (l : Lane) : ((takenPart n link st image p).lane l).nest = (p.lane l).nest := by
  by_cases h : l = n
  · subst h; rw [takenPart_lane_same]; rfl
  · rw [takenPart_lane_ne _ _ _ _ _ h]
@[simp] theorem takenPart_waitKind (l : Lane) : ((takenPart n link st image p).lane l).waitKind = (p.lane l).waitKind := by
  by_cases h : l = n
  · subst h; rw [takenPart_lane_same]; rfl
  · rw [takenPart_lane_ne _ _ _ _ _ h]
@[simp] theorem takenPart_currentBytes : (takenPart n link st image p).currentBytes n = image := by
  rw [Part.currentBytes, takenPart_lane_same]

end

/-! ### The checks (R139) -/

theorem imageNext_orderImage (h : OrderHead) (k : OrderKind) (params : List Byte) :
    imageNext (orderImage h k params) = h.next := halfAt_halfBytes h.next []

theorem imageAlternate_orderImage (h : OrderHead) (k : OrderKind) (params : List Byte) :
    imageAlternate (orderImage h k params) = h.alternate := halfAt_halfBytes h.alternate []

theorem imageWait_orderImage (h : OrderHead) (k : OrderKind) (params : List Byte) :
    imageWait (orderImage h k params) = headWaits h := rfl

theorem imageKind_orderImage (h : OrderHead) (k : OrderKind) (params : List Byte) :
    imageKind (orderImage h k params) = some k := by
  have : imageKind (orderImage h k params) = OrderKind.ofByte (BitVec.ofNat 8 k.num) := rfl
  rw [this]
  cases k <;> rfl

theorem zeros_true {r : List Byte} {i n : Nat} (h : ∀ j, j < n → byteAt r (i + j) = 0) : zeros r i n = true := by
  unfold zeros
  rw [List.all_eq_true]
  intro j hj
  simp [h j (List.mem_range.1 hj)]

/-- The fields that every kind has are in their ranges (R139, check 1). -/
theorem recordChecks_order {p : Part} {h : OrderHead} {k : OrderKind} {params : List Byte} (hl : params.length ≤ 24)
    (hp : headPasses h p) (hc : ∀ c ∈ p.paramChecks (orderImage h k params) k, c.2 = true) :
    p.badField (orderImage h k params) = none := by
  have hlen := orderImage_length h k hl
  have tail : zeros (orderImage h k params) 36 6 = true := by
    apply zeros_true
    intro j hj
    have e : (orderImage h k params) = (orderImage h k params).take 36 ++ List.replicate 6 0 := by
      have h36 : (orderImage h k params).drop 36 = List.replicate 6 0 := by
        unfold orderImage
        rw [List.drop_append_of_le_length (by simp [padParams, halfBytes]; omega), List.drop_eq_nil_of_le (by simp [padParams, halfBytes]; omega)]
        rfl
      rw [← h36, List.take_append_drop]
    rw [e]
    simp only [byteAt, List.getD]
    rw [List.getElem?_append_right (by simp [hlen])]
    simp only [List.length_take, hlen, List.getElem?_replicate]
    simp [hj]
  unfold Part.badField Part.recordChecks
  rw [imageKind_orderImage]
  simp only [Option.map_eq_none_iff, List.find?_eq_none]
  obtain ⟨h1, h2, h3⟩ := hp
  intro c hm
  simp only [List.mem_append, List.mem_cons, List.not_mem_nil, or_false] at hm
  rcases hm with (((e | e | e | e | e) | e) | e)
  · subst e; simpa [byteAt, orderImage] using h1
  · subst e
    have : zeros (orderImage h k params) 3 1 = true := rfl
    simp [this]
  · subst e
    rcases h3 with h3 | ⟨z, hz, -⟩
    · have : imageExpectMask (orderImage h k params) = 0 := h3
      simp [this]
    · have : (imageExpectZone (orderImage h k params)).toNat = z.val := hz
      simp only [this]
      have := z.isLt
      simp; omega
  · subst e
    have : (imageExpectMask (orderImage h k params)).toNat < 16 := h2
    simpa using this
  · subst e
    have : zeros (orderImage h k params) 10 2 = true := rfl
    simp [this]
  · simp [hc c e]
  · subst e; simp [tail]

theorem expectMet_order {p : Part} {h : OrderHead} {k : OrderKind} {params : List Byte} (hp : headPasses h p) :
    p.expectMet (orderImage h k params) = true := by
  obtain ⟨-, -, h3⟩ := hp
  have em : imageExpectMask (orderImage h k params) = h.expectMask := rfl
  have ez : imageExpectZone (orderImage h k params) = h.expectZone := rfl
  unfold Part.expectMet
  rw [em, ez]
  rcases h3 with h3 | ⟨z, hz, hb⟩
  · simp [h3]
  · have : Fin.ofNat 12 h.expectZone.toNat = z := by
      apply Fin.ext
      simp [Fin.ofNat, hz, Nat.mod_eq_of_lt z.isLt]
    rw [this, hb]
    simp

/-- A record that passes every check (R139). -/
theorem refusal_none {p : Part} {n : Lane} {h : OrderHead} {k : OrderKind} {params : List Byte} (hl : params.length ≤ 24)
    (hp : headPasses h p) (hc : ∀ c ∈ p.paramChecks (orderImage h k params) k, c.2 = true)
    (hplan : p.plan.isSome = true ∨ k.needsNoPlan = true)
    (hb : needsBridge (orderImage h k params) k = true → (p.lane n).bridge = true) :
    p.refusal n (orderImage h k params) = none := by
  unfold Part.refusal
  rw [recordChecks_order hl hp hc, imageKind_orderImage]
  simp only [expectMet_order hp]
  have h1 : (p.plan.isNone && !k.needsNoPlan) = false := by
    rcases hplan with e | e
    · cases hpl : p.plan <;> simp_all
    · simp [e]
  have h2 : (needsBridge (orderImage h k params) k && !(p.lane n).bridge) = false := by
    cases e : needsBridge (orderImage h k params) k
    · rfl
    · simp [hb e]
  simp [h1, h2]

/-- Which owner an image holds. -/
theorem imageOwner_orderImage (h : OrderHead) (k : OrderKind) (params : List Byte) :
    imageOwner (orderImage h k params) = if h.standing then ownerStanding else ownerArmed := rfl

/-- An order row places its record and takes it. -/
theorem runOrder_takes {s : State} {n : Lane} {link : Half} {image : List Byte} (h : s.Takes n link) :
    runOrder n image s = takeEvent n { s with mem := writeCells s.mem (imageCells link image) } := by
  have : placeOrder n image s = { s with mem := writeCells s.mem (imageCells link image) } := by
    simp [placeOrder, h.now, h.valid]
  simp [runOrder, h.now, this]

/-- Exchange memory with the host's record in place (log entry 4). -/
abbrev placed (s : State) (link : Half) (image : List Byte) : List Host.Cell := writeCells s.mem (imageCells link image)

theorem linkTake_placed {s : State} {n : Lane} {link : Half} {head : OrderHead} {k : OrderKind} {params : List Byte}
    (h : s.Takes n link) (hl : params.length ≤ 24)
    (hr : (takenPart n link head.standing (orderImage head k params) s.part).refusal n (orderImage head k params) = none) :
    linkTake n (writeCells s.mem (imageCells link (orderImage head k params))) s.part =
      (takenPart n link head.standing (orderImage head k params) s.part).emit [.passOrder n] := by
  have hi := readImage_placed (m := s.mem) h.quiet.mem h.valid (orderImage_length head k hl)
  have ho := imageOwner_orderImage head k params
  have hs : (imageOwner (orderImage head k params) == ownerStanding) = head.standing := by
    rw [ho]; cases head.standing <;> rfl
  have hok : ((imageOwner (orderImage head k params) == ownerArmed) ||
      (imageOwner (orderImage head k params) == ownerStanding)) = true := by
    rw [ho]; cases head.standing <;> rfl
  unfold linkTake
  simp only [h.now, h.valid, if_true, hi]
  rw [if_pos hok]
  unfold takeRecord
  simp only [hs]
  change (match (takenPart n link head.standing (orderImage head k params) s.part).refusal n _ with
    | some res => _ | none => _) = _
  rw [hr]
  rfl

/-- A record that fails a check ends with that refusal. -/
theorem linkTake_refused {s : State} {n : Lane} {link : Half} {head : OrderHead} {k : OrderKind} {params : List Byte}
    {r : Result} (h : s.Takes n link) (hl : params.length ≤ 24)
    (hr : (takenPart n link head.standing (orderImage head k params) s.part).refusal n (orderImage head k params) =
      some r) :
    linkTake n (placed s link (orderImage head k params)) s.part =
      (takenPart n link head.standing (orderImage head k params) s.part).emit [.orderEnds n r] := by
  have hi := readImage_placed (m := s.mem) h.quiet.mem h.valid (orderImage_length head k hl)
  have ho := imageOwner_orderImage head k params
  have hs : (imageOwner (orderImage head k params) == ownerStanding) = head.standing := by
    rw [ho]; cases head.standing <;> rfl
  have hok : ((imageOwner (orderImage head k params) == ownerArmed) ||
      (imageOwner (orderImage head k params) == ownerStanding)) = true := by
    rw [ho]; cases head.standing <;> rfl
  unfold linkTake
  simp only [h.now, h.valid, if_true, hi]
  rw [if_pos hok]
  unfold takeRecord
  simp only [hs]
  change (match (takenPart n link head.standing (orderImage head k params) s.part).refusal n _ with
    | some res => _ | none => _) = _
  rw [hr]
  rfl

/-- The header cells of an event of lane `n` lie outside every record and outside the other lanes' header fields. -/
theorem headerCells_of_lane {pre p : Part} {n : Lane} {c : Host.Cell} (h : headerCells pre p c)
    (hl : ∀ l, l ≠ n → p.lane l = pre.lane l) (hg : p.generation = pre.generation) :
    18 + 8 * n.val ≤ c.1 ∧ c.1 ≤ 20 + 8 * n.val := by
  rcases h with ⟨l, h1, h2, hne⟩ | ⟨-, -, hne⟩
  · by_cases e : l = n
    · subst e; exact ⟨h1, h2⟩
    · rw [hl l e] at hne; simp at hne
  · exact absurd hg.symm hne

/-- An event of lane `n` that retires no record. -/
theorem ranLane_of_drain {f : List Host.Cell → Part → Part} {s : State} {n : Lane} {q : Part}
    (hs : Memory.wf s.mem = true) (hd : drain s.mem Config.agendaBound (f s.mem s.part) = q) (hq : q.agenda = [])
    (hh : q.metHolds = []) (hw : q.writes = []) (hl : ∀ l, l ≠ n → q.lane l = s.part.lane l)
    (hg : q.generation = s.part.generation) (hp : q.port.partState = s.part.port.partState) :
    s.RanLane (runEvent f s) n q := by
  obtain ⟨h1, h2, h3⟩ := runEvent_follows hd hq hh
  obtain ⟨cells, hm, hc⟩ := runEvent_mem hd hq hh (fun e => by rw [Part.equalised, ← hp]; exact e)
  refine ⟨h1, ?_, h3, h2⟩
  intro a ha
  rw [hm, hw, List.nil_append]
  apply readByte_writeCells_other hs
  intro c hcc e
  have := headerCells_of_lane (hc c hcc) hl hg
  rw [e] at this
  unfold outsideLane at ha
  omega

/-- An event that changes nothing but lane `n`'s context. -/
theorem ranLane_of_setLane {f : List Host.Cell → Part → Part} {s : State} {n : Lane} {c : LaneContext} (h : s.Quiet)
    (hf : f s.mem s.part = s.part.setLane n c) (hc : c.waitKind ≠ some .hold) :
    s.RanLane (runEvent f s) n (s.part.setLane n c) := by
  refine ranLane_of_drain h.mem (by rw [hf]; exact drain_done h.agenda) h.agenda ?_ h.settled.1 ?_ rfl rfl
  · apply metHolds_none
    intro l
    rw [Part.setLane_get]
    split
    · exact hc
    · exact h.noHold l (by simp)
  · intro l hl
    exact Part.setLane_ne _ _ (Ne.symm hl)

theorem takenCells_inside {link : Half} {standing : Bool} {at' : Stamp} {c : Host.Cell}
    (h : c ∈ takenCells link standing at') : slotBase link ≤ c.1 ∧ c.1 < slotBase link + 64 := by
  unfold takenCells at h
  simp only [List.mem_append] at h
  rcases h with ((h | h) | h) | h
  · have := mem_cellsFrom h
    rw [wordBytes_length] at this
    omega
  · have := mem_cellsFrom h
    simp only [List.length_cons, List.length_nil] at this
    omega
  · have := mem_cellsFrom h
    simp only [List.length_cons, List.length_nil] at this
    omega
  · cases hs : standing
    · simp only [hs, Bool.false_eq_true, if_false] at h
      have := mem_cellsFrom h
      simp only [List.length_cons, List.length_nil] at this
      omega
    · simp [hs] at h

/-- The owner byte and the result code once a record has been taken. -/
theorem takenCells_show {m : List Host.Cell} {link : Half} {standing : Bool} {at' : Stamp} (hm : Memory.wf m = true)
    (hv : linkValid link = true) :
    readByte (writeCells m (takenCells link standing at')) (slotBase link) =
        (if standing then readByte m (slotBase link) else ownerActive) ∧
      readByte (writeCells m (takenCells link standing at')) (slotBase link + 36) = 0 := by
  have hb := slotBase_bound hv
  unfold takenCells
  simp only [writeCells_append]
  let m1 := writeCells m (cellsFrom (slotBase link + 48) (wordBytes at'.seconds))
  let m2 := writeCells m1 (cellsFrom (slotBase link + 56) [centisByte at'])
  let m3 := writeCells m2 (cellsFrom (slotBase link + 36) [0])
  have w1 : Memory.wf m1 = true := writeCells_wf hm
  have w2 : Memory.wf m2 = true := writeCells_wf w1
  have w3 : Memory.wf m3 = true := writeCells_wf w2
  change readByte (writeCells m3 _) _ = _ ∧ readByte (writeCells m3 _) _ = _
  have e36 : readByte m3 (slotBase link + 36) = 0 := by
    have := readByte_writeCells_cellsFrom_inside (m := m2) (a := slotBase link + 36) (i := 0) (bytes := [0]) w2
      (by simp) (by omega)
    exact this
  cases standing
  · simp only [Bool.false_eq_true, if_false]
    refine ⟨?_, ?_⟩
    · have := readByte_writeCells_cellsFrom_inside (m := m3) (a := slotBase link) (i := 0) (bytes := [ownerActive])
        w3 (by simp) (by omega)
      simpa [byteAt] using this
    · rw [readByte_writeCells_cellsFrom_outside w3 (by simp)]
      exact e36
  · simp only [if_true, writeCells]
    refine ⟨?_, e36⟩
    have e3 : readByte m3 (slotBase link) = readByte m2 (slotBase link) :=
      readByte_writeCells_cellsFrom_outside w2 (by omega)
    have e2 : readByte m2 (slotBase link) = readByte m1 (slotBase link) :=
      readByte_writeCells_cellsFrom_outside w1 (by omega)
    have e1 : readByte m1 (slotBase link) = readByte m (slotBase link) :=
      readByte_writeCells_cellsFrom_outside hm (by omega)
    rw [e3, e2, e1]

theorem readByte_placed_owner {m : List Host.Cell} {link : Half} {head : OrderHead} {k : OrderKind} {params : List Byte}
    (hm : Memory.wf m = true) (hv : linkValid link = true) (hl : params.length ≤ 24) :
    readByte (writeCells m (imageCells link (orderImage head k params))) (slotBase link) =
      if head.standing then ownerStanding else ownerArmed := by
  have hi := readImage_placed hm hv (orderImage_length head k hl)
  have := congrArg imageOwner hi
  rw [imageOwner_orderImage] at this
  rw [← this]
  unfold imageOwner readImage
  have h36 : byteAt (readBytes (writeCells m (imageCells link (orderImage head k params))) (slotBase link) 36) 0 = readByte (writeCells m (imageCells link (orderImage head k params))) (slotBase link) :=
    byteAt_readBytes (i := 0) (by omega)
  rw [← h36]
  simp [byteAt, readBytes]

/-- An order that needs no claim goes on to its owning block. -/
theorem drain_order {m : List Host.Cell} {b : Nat} {n : Lane} {p : Part} (h : p.agenda = [])
    (hc : p.claimEntry (p.currentBytes n) = none) :
    drain m (b + 2) (p.emit [.passOrder n]) = drain m b (blockOrder n m p) := by
  rw [drain_emit h (by simp), emit_nil]
  have : perform m (.passOrder n) p = p.emit [.blockOrder n] := by
    simp [perform, passOrder, hc]
  rw [this, drain_emit h (by simp), emit_nil]
  rfl

/-- An event that retires the record `held` of lane `n`. -/
theorem event_retires {fn : List Host.Cell → Part → Part} {s : State} {n : Lane} {q : Part} {held : HeldRecord} {r : Result}
    {d : Half} {f g : Word} {at' : Stamp} (hm : Memory.wf s.mem = true) (hv : linkValid held.link = true)
    (hd : drain s.mem Config.agendaBound (fn s.mem s.part) = q) (hq : q.agenda = []) (hh : q.metHolds = [])
    (hw : q.writes = retireCells held r d f g at')
    (h1 : ∀ h, r.detail = some h → d = h) (h2 : ∀ w, r.first = some w → f = w) (h3 : ∀ w, r.second = some w → g = w)
    (ho : ∀ l, l ≠ n → q.lane l = s.part.lane l) (hg : q.generation = s.part.generation)
    (hp : q.port.partState = s.part.port.partState) :
    s.Retires (runEvent fn s) n held.link
      (if held.standing then readByte s.mem (slotBase held.link) else ownerRetired)
      { r with flags := if held.clamped then r.flags ||| flagClamped else r.flags } q := by
  obtain ⟨f1, f2, f3⟩ := runEvent_follows hd hq hh
  obtain ⟨cells, he, hc⟩ := runEvent_mem hd hq hh (fun e => by rw [Part.equalised, ← hp]; exact e)
  have hcells : ∀ c ∈ cells, 18 + 8 * n.val ≤ c.1 ∧ c.1 ≤ 20 + 8 * n.val :=
    fun c hcc => headerCells_of_lane (hc c hcc) ho hg
  have hb := slotBase_bound hv
  have hn : n.val < 4 := n.isLt
  have hout : ∀ c ∈ cells, outsideSlot held.link c.1 := by
    intro c hcc
    have := hcells c hcc
    unfold outsideSlot
    omega
  obtain ⟨hres, hown⟩ := retireCells_show (at' := at') hm hv hout h1 h2 h3
  rw [hw] at he
  refine ⟨f1, by rw [he]; exact hown, by rw [he]; exact hres, ?_, f3, f2⟩
  intro a ha hla
  rw [he]
  apply readByte_writeCells_other hm
  intro c hcc e
  unfold outsideSlot at ha
  unfold outsideLane at hla
  rcases List.mem_append.1 hcc with hx | hx
  · have := retireCells_inside hx
    omega
  · have := hcells c hx
    omega

/-- An event that asks for nothing but the end of lane `n`'s order: the record retires and the lane goes on by the class
of the result (R141). -/
theorem event_ends {fn : List Host.Cell → Part → Part} {s : State} {n : Lane} {q : Part} {held : HeldRecord} {r : Result}
    {next : Half} (hm : Memory.wf s.mem = true) (hv : linkValid held.link = true)
    (hf : fn s.mem s.part = q.emit [.orderEnds n r]) (ha : q.agenda = []) (hw : q.writes = [])
    (hl : ∀ l, q.lane l = s.part.lane l) (hg : q.generation = s.part.generation)
    (hp : q.port.partState = s.part.port.partState) (hh : ∀ l, l ≠ n → (s.part.lane l).waitKind ≠ some .hold)
    (hc : (s.part.lane n).current = some held)
    (hn : (r.code.failure = false ∧ next = held.next) ∨
      (r.code.failure = true ∧ held.alternate ≠ 0 ∧ next = held.alternate)) :
    s.Retires (runEvent fn s) n held.link
      (if held.standing then readByte s.mem (slotBase held.link) else ownerRetired)
      { r with flags := if held.clamped then r.flags ||| flagClamped else r.flags }
      (q.setLane n ((s.part.lane n).goesOn held.link next)) := by
  have hc' : (q.lane n).current = some held := by rw [hl]; exact hc
  obtain ⟨d, f, g, ov, oc, fs, e, h1, h2, h3⟩ := retire_follow_eq r next hc'
  have hend : orderEnds n r q =
      { q with lanes := setAt q.lanes n ((q.lane n).goesOn held.link next),
               writes := q.writes ++ retireCells held r d f g q.now, forced := fs, openValues := ov, openCount := oc } := by
    rw [← e]
    rcases hn with ⟨h, rfl⟩ | ⟨h, h0, rfl⟩
    · exact orderEnds_success hc' h
    · exact orderEnds_alternate hc' h h0
  have hd : drain s.mem Config.agendaBound (fn s.mem s.part) = orderEnds n r q := by
    have hperf : perform s.mem (.orderEnds n r) q = orderEnds n r q := rfl
    rw [hf, show Config.agendaBound = 65535 + 1 from rfl, drain_emit ha (by simp), hperf]
    exact drain_emit_nil (by rw [hend]; exact ha)
  have hlane : ∀ l, l ≠ n → (orderEnds n r q).lane l = s.part.lane l := by
    intro l h
    rw [hend, ← hl]
    exact getAt_setAt_ne _ _ (Ne.symm h)
  have hsame : ((orderEnds n r q).lane n).waitKind = none := by
    rw [hend]
    simp [Part.lane, LaneContext.goesOn]
  have R := event_retires (at' := q.now) hm hv hd (by rw [hend]; exact ha)
    (metHolds_none (by
      intro l
      by_cases h : l = n
      · subst h; rw [hsame]; simp
      · rw [hlane l h]; exact hh l h))
    (by rw [hend, hw]; rfl) h1 h2 h3 hlane (by rw [hend]; exact hg) (by rw [hend]; exact hp)
  refine ⟨Part.Follows.trans ?_ R.follows, R.owner, R.result, R.keeps, R.queue, R.done⟩
  rw [hend, hl]
  exact ⟨rfl, rfl, rfl, rfl, rfl, rfl, rfl, rfl, rfl, rfl, rfl, rfl, rfl, rfl, rfl⟩

section
variable {s : State} {n : Lane} {link : Half} {head : OrderHead} {k : OrderKind} {params : List Byte} {q : Part}

/-- What an order leaves whose event comes to rest at `q`: the blocks of `q`, and after the record's taking its writes,
then the lane's header fields. -/
theorem order_leaves {acts : List Act} {rest : List Host.Cell} (h : s.Takes n link)
    (hr : linkTake n (placed s link (orderImage head k params)) s.part =
      (takenPart n link head.standing (orderImage head k params) s.part).emit acts)
    (hd : drain (placed s link (orderImage head k params)) Config.agendaBound
      ((takenPart n link head.standing (orderImage head k params) s.part).emit acts) = q)
    (hq : q.agenda = []) (hh : q.metHolds = [])
    (hw : q.writes = takenCells link head.standing s.part.now ++ rest)
    (ho : ∀ l, l ≠ n → q.lane l = s.part.lane l) (hg : q.generation = s.part.generation)
    (hp : q.port.partState = s.part.port.partState) :
    q.Follows (runOrder n (orderImage head k params) s).part ∧ (runOrder n (orderImage head k params) s).part.agenda = [] ∧
      (runOrder n (orderImage head k params) s).pending = s.pending ∧
      ∃ cells, (runOrder n (orderImage head k params) s).mem =
          writeCells (writeCells (writeCells s.mem (imageCells link (orderImage head k params)))
            (takenCells link head.standing s.part.now)) (rest ++ cells) ∧
        ∀ c ∈ cells, 18 + 8 * n.val ≤ c.1 ∧ c.1 ≤ 20 + 8 * n.val := by
  let m' := writeCells s.mem (imageCells link (orderImage head k params))
  have hdrain : drain m' Config.agendaBound (linkTake n m' s.part) = q := by
    rw [hr]; exact hd
  obtain ⟨f1, f2, f3⟩ := runEvent_follows (f := linkTake n) (s := { s with mem := m' }) hdrain hq hh
  obtain ⟨cells, hm, hc⟩ := runEvent_mem (f := linkTake n) (s := { s with mem := m' }) hdrain hq hh
    (fun e => by show s.part.equalised = true; rw [Part.equalised, ← hp]; exact e)
  rw [runOrder_takes h]
  refine ⟨f1, f2, f3, cells, ?_, fun c hcc => headerCells_of_lane (hc c hcc) ho hg⟩
  rw [takeEvent, hm, hw, List.append_assoc, writeCells_append]

/-- Cells of lane `n`'s header lie outside every record. -/
theorem header_outside {c : Host.Cell} (hv : linkValid link = true) (hc : 18 + 8 * n.val ≤ c.1 ∧ c.1 ≤ 20 + 8 * n.val) :
    outsideSlot link c.1 := by
  have hb := slotBase_bound hv
  have hn : n.val < 4 := n.isLt
  unfold outsideSlot
  omega

/-- The owner byte after the placing and the taking. -/
theorem taken_owner (h : s.Takes n link) (hl : params.length ≤ 24) (at' : Stamp) :
    readByte (writeCells (writeCells s.mem (imageCells link (orderImage head k params)))
      (takenCells link head.standing at')) (slotBase link) = if head.standing then ownerStanding else ownerActive := by
  have h1 := (takenCells_show (at' := at') (standing := head.standing)
    (writeCells_wf (cells := imageCells link (orderImage head k params)) h.quiet.mem) h.valid).1
  rw [h1, readByte_placed_owner h.quiet.mem h.valid hl]
  cases head.standing <;> rfl

/-- Outside the record slot and the lane's header, the placing, the taking and the retirement change nothing. -/
theorem order_keeps {cells rest : List Host.Cell} {a : Nat} (h : s.Takes n link) (hl : params.length ≤ 24) {at' : Stamp}
    (hrest : ∀ c ∈ rest, slotBase link ≤ c.1 ∧ c.1 < slotBase link + 64)
    (hc : ∀ c ∈ cells, 18 + 8 * n.val ≤ c.1 ∧ c.1 ≤ 20 + 8 * n.val) (ha : outsideSlot link a) (hla : outsideLane n a) :
    readByte (writeCells (writeCells (writeCells s.mem (imageCells link (orderImage head k params)))
      (takenCells link head.standing at')) (rest ++ cells)) a = readByte s.mem a := by
  have w0 : Memory.wf (writeCells s.mem (imageCells link (orderImage head k params))) = true :=
    writeCells_wf h.quiet.mem
  rw [readByte_writeCells_other (writeCells_wf w0), readByte_writeCells_other w0,
    readByte_placed_other h.quiet.mem (orderImage_length head k hl) ha]
  · intro c hcc e
    have := takenCells_inside hcc
    unfold outsideSlot at ha
    omega
  · intro c hcc e
    unfold outsideSlot at ha
    unfold outsideLane at hla
    rcases List.mem_append.1 hcc with hx | hx
    · have := hrest c hx
      omega
    · have := hc c hx
      omega

/-- What an order leaves whose event comes to rest at `q`, where its record has retired. -/
theorem order_retires {acts : List Act} {held : HeldRecord} {r : Result} {d : Half} {f g : Word} {at' : Stamp} (h : s.Takes n link)
    (hl : params.length ≤ 24)
    (hr : linkTake n (placed s link (orderImage head k params)) s.part =
      (takenPart n link head.standing (orderImage head k params) s.part).emit acts)
    (hd : drain (placed s link (orderImage head k params)) Config.agendaBound
      ((takenPart n link head.standing (orderImage head k params) s.part).emit acts) = q)
    (hq : q.agenda = []) (hh : (q.lane n).waitKind ≠ some .hold) (hk : held.link = link)
    (hs : held.standing = head.standing)
    (hw : q.writes = takenCells link head.standing s.part.now ++ retireCells held r d f g at')
    (h1 : ∀ h, r.detail = some h → d = h) (h2 : ∀ w, r.first = some w → f = w) (h3 : ∀ w, r.second = some w → g = w)
    (ho : ∀ l, l ≠ n → q.lane l = s.part.lane l) (hg : q.generation = s.part.generation)
    (hp : q.port.partState = s.part.port.partState) :
    s.Retires (runOrder n (orderImage head k params) s) n link (retiredOwner head.standing)
      { r with flags := if held.clamped then r.flags ||| flagClamped else r.flags } q := by
  subst hk
  have hhold : ∀ l, (q.lane l).waitKind ≠ some .hold := by
    intro l
    by_cases e : l = n
    · subst e; exact hh
    · rw [ho l e]; exact h.quiet.noHold l (by simp)
  obtain ⟨f1, f2, f3, cells, hm, hc⟩ := order_leaves h hr hd hq (metHolds_none hhold) hw ho hg hp
  have wm1 : Memory.wf (writeCells (writeCells s.mem (imageCells held.link (orderImage head k params)))
      (takenCells held.link head.standing s.part.now)) = true := writeCells_wf (writeCells_wf h.quiet.mem)
  obtain ⟨hres, hown⟩ := retireCells_show (at' := at') wm1 h.valid (fun c hcc => header_outside h.valid (hc c hcc)) h1 h2 h3
  refine ⟨f1, ?_, ?_, ?_, f3, f2⟩
  · rw [hm, hown, hs, taken_owner h hl]
    cases head.standing <;> rfl
  · rw [hm]; exact hres
  · intro a ha hla
    rw [hm]
    exact order_keeps h hl (fun c hcc => retireCells_inside hcc) hc ha hla

/-- Records in different slots lie apart. -/
theorem slots_apart {a b : Half} (h : a ≠ b) {x : Nat} (hx : slotBase a ≤ x ∧ x < slotBase a + 64) : outsideSlot b x := by
  have : a.toNat ≠ b.toNat := fun e => h (BitVec.eq_of_toNat_eq e)
  unfold outsideSlot
  unfold slotBase at *
  omega

/-- What an order leaves whose event comes to rest at `q`, where its record `hb` and an earlier record `ha` of its lane have
retired, in either order. -/
theorem order_retires_both {acts : List Act} {ha hb : HeldRecord} {ra rb : Result} {da db : Half} {fa ga fb gb : Word}
    {at' : Stamp} (h : s.Takes n link) (hl : params.length ≤ 24)
    (hr : linkTake n (placed s link (orderImage head k params)) s.part =
      (takenPart n link head.standing (orderImage head k params) s.part).emit acts)
    (hd : drain (placed s link (orderImage head k params)) Config.agendaBound
      ((takenPart n link head.standing (orderImage head k params) s.part).emit acts) = q)
    (hq : q.agenda = []) (hh : (q.lane n).waitKind ≠ some .hold) (hk : hb.link = link) (hne : ha.link ≠ link)
    (hva : linkValid ha.link = true) (hs : hb.standing = head.standing)
    (hw : q.writes = takenCells link head.standing s.part.now ++
        (retireCells ha ra da fa ga at' ++ retireCells hb rb db fb gb at') ∨
      q.writes = takenCells link head.standing s.part.now ++
        (retireCells hb rb db fb gb at' ++ retireCells ha ra da fa ga at'))
    (a1 : ∀ h, ra.detail = some h → da = h) (a2 : ∀ w, ra.first = some w → fa = w) (a3 : ∀ w, ra.second = some w → ga = w)
    (b1 : ∀ h, rb.detail = some h → db = h) (b2 : ∀ w, rb.first = some w → fb = w) (b3 : ∀ w, rb.second = some w → gb = w)
    (ho : ∀ l, l ≠ n → q.lane l = s.part.lane l) (hg : q.generation = s.part.generation)
    (hp : q.port.partState = s.part.port.partState) :
    s.RetiresBoth (runOrder n (orderImage head k params) s) n ha.link link
      (if ha.standing then readByte s.mem (slotBase ha.link) else ownerRetired) (retiredOwner head.standing)
      { ra with flags := if ha.clamped then ra.flags ||| flagClamped else ra.flags }
      { rb with flags := if hb.clamped then rb.flags ||| flagClamped else rb.flags } q := by
  subst hk
  have hhold : ∀ l, (q.lane l).waitKind ≠ some .hold := by
    intro l
    by_cases e : l = n
    · subst e; exact hh
    · rw [ho l e]; exact h.quiet.noHold l (by simp)
  have wm1 : Memory.wf (writeCells (writeCells s.mem (imageCells hb.link (orderImage head k params)))
      (takenCells hb.link head.standing s.part.now)) = true := writeCells_wf (writeCells_wf h.quiet.mem)
  have inA : ∀ c ∈ retireCells ha ra da fa ga at', outsideSlot hb.link c.1 :=
    fun c hc => slots_apart hne (retireCells_inside hc)
  have inB : ∀ c ∈ retireCells hb rb db fb gb at', outsideSlot ha.link c.1 :=
    fun c hc => slots_apart (Ne.symm hne) (retireCells_inside hc)
  have ownA : ∀ at'' : Stamp, readByte (writeCells (writeCells s.mem (imageCells hb.link (orderImage head k params)))
      (takenCells hb.link head.standing at'')) (slotBase ha.link) = readByte s.mem (slotBase ha.link) := by
    intro at''
    have hout : outsideSlot hb.link (slotBase ha.link) := slots_apart hne (by omega)
    rw [readByte_writeCells_other (writeCells_wf h.quiet.mem),
      readByte_placed_other h.quiet.mem (orderImage_length head k hl) hout]
    intro c hc e
    have := takenCells_inside hc
    unfold outsideSlot at hout
    omega
  have main : ∀ (x y : HeldRecord) (rx ry : Result) (dx dy : Half) (fx gx fy gy : Word) (m : List Host.Cell)
      (cells : List Host.Cell), Memory.wf m = true → linkValid x.link = true → linkValid y.link = true →
      (∀ c ∈ retireCells x rx dx fx gx at', outsideSlot y.link c.1) →
      (∀ c ∈ retireCells y ry dy fy gy at', outsideSlot x.link c.1) →
      (∀ c ∈ cells, 18 + 8 * n.val ≤ c.1 ∧ c.1 ≤ 20 + 8 * n.val) →
      (∀ h, rx.detail = some h → dx = h) → (∀ w, rx.first = some w → fx = w) → (∀ w, rx.second = some w → gx = w) →
      (∀ h, ry.detail = some h → dy = h) → (∀ w, ry.first = some w → fy = w) → (∀ w, ry.second = some w → gy = w) →
      (ShowsResult (writeCells m (retireCells x rx dx fx gx at' ++ retireCells y ry dy fy gy at' ++ cells)) x.link
          { rx with flags := if x.clamped then rx.flags ||| flagClamped else rx.flags } ∧
        readByte (writeCells m (retireCells x rx dx fx gx at' ++ retireCells y ry dy fy gy at' ++ cells)) (slotBase x.link) =
          (if x.standing then readByte m (slotBase x.link) else ownerRetired)) ∧
      (ShowsResult (writeCells m (retireCells x rx dx fx gx at' ++ retireCells y ry dy fy gy at' ++ cells)) y.link
          { ry with flags := if y.clamped then ry.flags ||| flagClamped else ry.flags } ∧
        readByte (writeCells m (retireCells x rx dx fx gx at' ++ retireCells y ry dy fy gy at' ++ cells)) (slotBase y.link) =
          (if y.standing then readByte m (slotBase y.link) else ownerRetired)) := by
    intro x y rx ry dx dy fx gx fy gy m cells hm hx hy ix iy hc x1 x2 x3 y1 y2 y3
    refine ⟨?_, ?_⟩
    · rw [List.append_assoc]
      refine retireCells_show (at' := at') hm hx ?_ x1 x2 x3
      intro c hcc
      rcases List.mem_append.1 hcc with e | e
      · exact iy c e
      · exact header_outside hx (hc c e)
    · rw [List.append_assoc, writeCells_append]
      have := retireCells_show (at' := at') (held := y) (r := ry) (post := cells) (writeCells_wf (cells := retireCells x rx dx fx gx at') hm) hy
        (fun c hcc => header_outside hy (hc c hcc)) y1 y2 y3
      refine ⟨this.1, this.2.trans ?_⟩
      rw [readByte_writeCells_other hm]
      intro c hcc e
      have := ix c hcc
      unfold outsideSlot at this
      omega
  have keeps : ∀ (m : List Host.Cell) (cells rest : List Host.Cell), Memory.wf m = true →
      (∀ c ∈ rest, (slotBase ha.link ≤ c.1 ∧ c.1 < slotBase ha.link + 64) ∨
        (slotBase hb.link ≤ c.1 ∧ c.1 < slotBase hb.link + 64)) →
      (∀ c ∈ cells, 18 + 8 * n.val ≤ c.1 ∧ c.1 ≤ 20 + 8 * n.val) → ∀ x, outsideSlot ha.link x → outsideSlot hb.link x →
      outsideLane n x → readByte (writeCells m (rest ++ cells)) x = readByte m x := by
    intro m cells rest hm h1 h2 x xa xb xl
    rw [readByte_writeCells_other hm]
    intro c hcc e
    unfold outsideSlot at xa xb
    unfold outsideLane at xl
    rcases List.mem_append.1 hcc with e' | e'
    · have := h1 c e'
      omega
    · have := h2 c e'
      omega
  have kept : ∀ x, outsideSlot hb.link x → readByte (writeCells (writeCells s.mem (imageCells hb.link
      (orderImage head k params))) (takenCells hb.link head.standing s.part.now)) x = readByte s.mem x := by
    intro x hx
    rw [readByte_writeCells_other (writeCells_wf h.quiet.mem),
      readByte_placed_other h.quiet.mem (orderImage_length head k hl) hx]
    intro c hc e
    have := takenCells_inside hc
    unfold outsideSlot at hx
    omega
  have inside : ∀ c ∈ retireCells ha ra da fa ga at' ++ retireCells hb rb db fb gb at',
      (slotBase ha.link ≤ c.1 ∧ c.1 < slotBase ha.link + 64) ∨ (slotBase hb.link ≤ c.1 ∧ c.1 < slotBase hb.link + 64) := by
    intro c hc
    rcases List.mem_append.1 hc with e | e
    · exact Or.inl (retireCells_inside e)
    · exact Or.inr (retireCells_inside e)
  rcases hw with hw | hw
  · obtain ⟨f1, f2, f3, cells, hm, hc⟩ := order_leaves h hr hd hq (metHolds_none hhold) hw ho hg hp
    obtain ⟨⟨sa, oa⟩, sb, ob⟩ := main ha hb ra rb da db fa ga fb gb _ cells wm1 hva h.valid inA inB hc a1 a2 a3 b1 b2 b3
    refine ⟨f1, ?_, ?_, by rw [hm]; exact sa, by rw [hm]; exact sb, ?_, f3, f2⟩
    · rw [hm, oa, ownA]
    · rw [hm, ob, hs, taken_owner h hl]; cases head.standing <;> rfl
    · intro x xa xb xl
      rw [hm, keeps _ cells _ wm1 inside hc x xa xb xl, kept x xb]
  · obtain ⟨f1, f2, f3, cells, hm, hc⟩ := order_leaves h hr hd hq (metHolds_none hhold) hw ho hg hp
    obtain ⟨⟨sb, ob⟩, sa, oa⟩ := main hb ha rb ra db da fb gb fa ga _ cells wm1 h.valid hva inB inA hc b1 b2 b3 a1 a2 a3
    refine ⟨f1, ?_, ?_, by rw [hm]; exact sa, by rw [hm]; exact sb, ?_, f3, f2⟩
    · rw [hm, oa, ownA]
    · rw [hm, ob, hs, taken_owner h hl]; cases head.standing <;> rfl
    · intro x xa xb xl
      rw [hm, keeps _ cells _ wm1 ?_ hc x xa xb xl, kept x xb]
      intro c hcc
      apply inside c
      rcases List.mem_append.1 hcc with e | e
      · exact List.mem_append.2 (Or.inr e)
      · exact List.mem_append.2 (Or.inl e)

/-- What an order leaves whose event comes to rest at `q`, where its record is held. -/
theorem order_holds {acts : List Act} (h : s.Takes n link) (hl : params.length ≤ 24)
    (hr : linkTake n (placed s link (orderImage head k params)) s.part =
      (takenPart n link head.standing (orderImage head k params) s.part).emit acts)
    (hd : drain (placed s link (orderImage head k params)) Config.agendaBound
      ((takenPart n link head.standing (orderImage head k params) s.part).emit acts) = q)
    (hq : q.agenda = []) (hh : q.metHolds = [])
    (hw : q.writes = takenCells link head.standing s.part.now)
    (ho : ∀ l, l ≠ n → q.lane l = s.part.lane l) (hg : q.generation = s.part.generation)
    (hp : q.port.partState = s.part.port.partState) :
    s.Holds (runOrder n (orderImage head k params) s) n link head.standing q := by
  obtain ⟨f1, f2, f3, cells, hm, hc⟩ := order_leaves (rest := []) h hr hd hq hh (by rw [hw, List.append_nil]) ho hg hp
  have wm1 : Memory.wf (writeCells (writeCells s.mem (imageCells link (orderImage head k params)))
      (takenCells link head.standing s.part.now)) = true := writeCells_wf (writeCells_wf h.quiet.mem)
  have hb := slotBase_bound h.valid
  have hn : n.val < 4 := n.isLt
  have other : ∀ a, slotBase link ≤ a →
      readByte (runOrder n (orderImage head k params) s).mem a =
        readByte (writeCells (writeCells s.mem (imageCells link (orderImage head k params)))
          (takenCells link head.standing s.part.now)) a := by
    intro a ha
    rw [hm, List.nil_append, readByte_writeCells_other wm1]
    intro c hcc e
    have := hc c hcc
    omega
  refine ⟨f1, ?_, ?_, ?_, f3, f2⟩
  · rw [other _ (Nat.le_refl _), taken_owner h hl]
    rfl
  · rw [other _ (by omega)]
    exact (takenCells_show (writeCells_wf h.quiet.mem) h.valid).2
  · intro a ha hla
    rw [hm]
    exact order_keeps h hl (by simp) hc ha hla

end

/-! ### Parameters (R125) -/

/-- A byte of the parameter run of an order's record. -/
theorem byteAt_orderImage (h : OrderHead) (k : OrderKind) (params : List Byte) {i : Nat} (hi : i < 24) :
    byteAt (orderImage h k params) (12 + i) = byteAt (padParams params) i := by
  have h1 : byteAt (orderImage h k params) (12 + i) = byteAt (padParams params ++ List.replicate 6 0) i := by
    show ([_, _, _, _, _, _, _, _, _, _, _, _] ++ padParams params ++ List.replicate 6 0).getD (12 + i) 0 = _
    rw [List.append_assoc, List.getD_append_right _ _ _ _ (by simp)]
    simp [byteAt]
  rw [h1, byteAt, List.getD_append _ _ _ _ (by simp [padParams]; omega)]
  rfl

theorem byteAt_params (h : OrderHead) (k : OrderKind) {params : List Byte} {i : Nat} (hl : params.length ≤ 24)
    (hi : i < params.length) : byteAt (orderImage h k params) (12 + i) = byteAt params i := by
  rw [byteAt_orderImage h k params (by omega), byteAt, padParams, List.getD_append _ _ _ _ hi]
  rfl

theorem byteAt_past_params (h : OrderHead) (k : OrderKind) {params : List Byte} {i : Nat} (hi : i < 24)
    (hp : params.length ≤ i) : byteAt (orderImage h k params) (12 + i) = 0 := by
  rw [byteAt_orderImage h k params hi, byteAt, padParams, List.getD_append_right _ _ _ _ hp]
  simp

/-- The reserved parameter bytes are zero. -/
theorem restZero_orderImage (h : OrderHead) (k : OrderKind) {params : List Byte} {i : Nat} (hi : 12 + params.length ≤ i)
    (h36 : i ≤ 36) : restZero (orderImage h k params) i = (i, true) := by
  have : zeros (orderImage h k params) i (36 - i) = true := by
    apply zeros_true
    intro j hj
    obtain ⟨d, rfl⟩ : ∃ d, i = 12 + d := ⟨i - 12, by omega⟩
    rw [Nat.add_assoc]
    exact byteAt_past_params h k (by omega) (by omega)
  simp [restZero, this]

/-! ### Orders in the terms of the statements -/

section
variable {s : State} {n : Lane} {link : Half} {head : OrderHead} {k : OrderKind} {params : List Byte} {p q : Part}
  {held : HeldRecord} {r : Result} {claims : Vector Claim 32}

/-- The retirement of the current record with the link of its class. -/
theorem orderEnds_eq (hc : (q.lane n).current = some held) (ha : r.code.failure = true → held.alternate ≠ 0) :
    orderEnds n r q =
      followLink n (if r.code.failure then held.alternate else held.next) (retireCurrent n r q) := by
  cases h : r.code.failure
  · rw [orderEnds_success hc h]; rfl
  · rw [orderEnds_alternate hc h (ha h)]; rfl

/-- An order whose event comes to rest where its record has retired with result `r`, with the deck as in `p`, whatever
its lane waited for before. -/
theorem order_ends_with {acts : List Act} (h : s.Takes n link) (hl : params.length ≤ 24)
    (hr : linkTake n (placed s link (orderImage head k params)) s.part =
      (takenPart n link head.standing (orderImage head k params) s.part).emit acts)
    (hd : drain (placed s link (orderImage head k params)) Config.agendaBound
      ((takenPart n link head.standing (orderImage head k params) s.part).emit acts) =
        { orderEnds n r q with claims := claims })
    (hq : q.agenda = []) (hk : held.link = link) (hs : held.standing = head.standing)
    (hb : held.bytes = orderImage head k params)
    (hc : (q.lane n).current = some held) (hgo : ∀ l, (q.lane n).goesOn link l = (p.lane n).taken.goesOn link l)
    (hp : ∀ c, (p.setLane n c).Follows { q.setLane n c with claims := claims })
    (ha : r.code.failure = true → head.alternate ≠ 0)
    (hw : q.writes = takenCells link head.standing s.part.now)
    (ho : ∀ l, l ≠ n → q.lane l = s.part.lane l) (hg : q.generation = s.part.generation)
    (hps : q.port.partState = s.part.port.partState) :
    s.OrderEnds (runOrder n (orderImage head k params) s) n link head
      { r with flags := if held.clamped then r.flags ||| flagClamped else r.flags } p := by
  have hnext : held.next = head.next := by rw [HeldRecord.next, hb]; exact imageNext_orderImage _ _ _
  have halt : held.alternate = head.alternate := by rw [HeldRecord.alternate, hb]; exact imageAlternate_orderImage _ _ _
  obtain ⟨d, f, g, ov, oc, fs, e, h1, h2, h3⟩ :=
    retire_follow_eq r (if r.code.failure then held.alternate else held.next) hc
  have hend := (orderEnds_eq (r := r) hc (by rw [halt]; exact ha)).trans e
  rw [hend] at hd
  have R := order_retires (held := held) (r := r) (d := d) (f := f) (g := g) (at' := q.now) h hl hr hd hq
    (by simp [Part.lane, LaneContext.goesOn]) hk hs (by show q.writes ++ _ = _; rw [hw]) h1 h2 h3
    (by intro l hl; exact (getAt_setAt_ne _ _ (Ne.symm hl)).trans (ho l hl)) hg hps
  refine ⟨Part.Follows.trans ?_ R.follows, R.owner, R.result, R.keeps, R.queue, R.done⟩
  have hgo : (q.lane n).goesOn held.link (if r.code.failure then held.alternate else held.next) =
      (p.lane n).taken.goesOn link (if r.code.failure then head.alternate else head.next) := by
    rw [hk, hnext, halt, hgo]
  have F := hp ((p.lane n).taken.goesOn link (if r.code.failure then head.alternate else head.next))
  rw [hgo]
  exact ⟨F.time, F.zones, F.movers, F.doors, F.calls, F.player, F.lines, F.lanes, F.claims, F.waiters, F.claimTicks,
    F.field, F.plan, F.generation, F.port⟩

/-- An order whose event comes to rest where its record has retired with result `r`, with the deck as in `p`. -/
theorem order_ends_as {acts : List Act} (h : s.Takes n link) (hl : params.length ≤ 24)
    (hr : linkTake n (placed s link (orderImage head k params)) s.part =
      (takenPart n link head.standing (orderImage head k params) s.part).emit acts)
    (hd : drain (placed s link (orderImage head k params)) Config.agendaBound
      ((takenPart n link head.standing (orderImage head k params) s.part).emit acts) =
        { orderEnds n r q with claims := claims })
    (hq : q.agenda = []) (hk : held.link = link) (hs : held.standing = head.standing)
    (hb : held.bytes = orderImage head k params)
    (hn : q.lane n = { (p.lane n).taken with current := some held, link := none })
    (hp : ∀ c, (p.setLane n c).Follows { q.setLane n c with claims := claims })
    (ha : r.code.failure = true → head.alternate ≠ 0)
    (hw : q.writes = takenCells link head.standing s.part.now)
    (ho : ∀ l, l ≠ n → q.lane l = s.part.lane l) (hg : q.generation = s.part.generation)
    (hps : q.port.partState = s.part.port.partState) :
    s.OrderEnds (runOrder n (orderImage head k params) s) n link head
      { r with flags := if held.clamped then r.flags ||| flagClamped else r.flags } p := by
  refine order_ends_with h hl hr hd hq hk hs hb (by rw [hn]) ?_ hp ha hw ho hg hps
  intro l
  rw [hn]
  rfl

/-- An order that needs no claim and that its owning block ends at once, with the deck as in `p`. -/
theorem order_done (h : s.Takes n link) (hl : params.length ≤ 24)
    (hr : (takenPart n link head.standing (orderImage head k params) s.part).refusal n (orderImage head k params) = none)
    (hc : (takenPart n link head.standing (orderImage head k params) s.part).claimEntry (orderImage head k params) = none)
    (hb : ∀ m, blockOrder n m (takenPart n link head.standing (orderImage head k params) s.part) =
      q.emit [.orderEnds n r])
    (hq : q.agenda = [])
    (hn : q.lane n = { (p.lane n).taken with
      current := some { link := link, standing := head.standing, bytes := orderImage head k params, clamped := false },
      link := none })
    (hp : ∀ c, (p.setLane n c).Follows (q.setLane n c)) (ha : r.code.failure = true → head.alternate ≠ 0)
    (hw : q.writes = takenCells link head.standing s.part.now)
    (ho : ∀ l, l ≠ n → q.lane l = s.part.lane l) (hg : q.generation = s.part.generation)
    (hps : q.port.partState = s.part.port.partState) :
    s.OrderEnds (runOrder n (orderImage head k params) s) n link head r p := by
  have hT : (takenPart n link head.standing (orderImage head k params) s.part).agenda = [] := by
    rw [takenPart_agenda]; exact h.quiet.agenda
  have hcur : (q.lane n).current =
      some { link := link, standing := head.standing, bytes := orderImage head k params, clamped := false } := by rw [hn]
  have hacl : (orderEnds n r q).agenda = [] ∧ (orderEnds n r q).claims = q.claims := by
    obtain ⟨_, _, _, _, _, _, e, -⟩ := retire_follow_eq r (if r.code.failure then
      HeldRecord.alternate { link := link, standing := head.standing, bytes := orderImage head k params, clamped := false }
      else HeldRecord.next { link := link, standing := head.standing, bytes := orderImage head k params, clamped := false })
      hcur
    have hend := (orderEnds_eq (r := r) hcur (by
      intro hf; rw [HeldRecord.alternate, imageAlternate_orderImage]; exact ha hf)).trans e
    rw [hend]
    exact ⟨hq, rfl⟩
  have hlt : linkTake n (placed s link (orderImage head k params)) s.part =
      (takenPart n link head.standing (orderImage head k params) s.part).emit [.passOrder n] := linkTake_placed h hl hr
  refine order_ends_as (q := q) (claims := q.claims) h hl hlt ?_ hq rfl rfl rfl hn hp ha hw ho hg hps
  generalize placed s link (orderImage head k params) = m
  have e1 := drain_order (m := m) (b := 65534) (n := n) hT (by rw [takenPart_currentBytes]; exact hc)
  have e2 := drain_emit (m := m) (n := 65533) (p := q) (a := .orderEnds n r) (rest := []) hq (by simp)
  have e3 : perform m (.orderEnds n r) q = orderEnds n r q := rfl
  rw [show Config.agendaBound = 65534 + 2 from rfl, e1, hb, e2, e3, emit_nil, drain_done hacl.1, ← hacl.2]

theorem headPasses_taken {st : Bool} {image : List Byte} (h : headPasses head p) :
    headPasses head (takenPart n link st image p) := by
  simpa [headPasses] using h

/-- An order that passes its checks and needs no claim goes on to its owning block, and then to what the block asks for. -/
theorem order_to_acts {acts : List Act} (h : s.TakesOrder n link head) (hl : params.length ≤ 24)
    (hc : ∀ c ∈ s.part.paramChecks (orderImage head k params) k, c.2 = true)
    (hplan : s.part.plan.isSome = true ∨ k.needsNoPlan = true)
    (hb : needsBridge (orderImage head k params) k = true → (s.part.lane n).bridge = true)
    (he : s.part.claimEntry (orderImage head k params) = none)
    (hB : blockOrder n (placed s link (orderImage head k params))
      (takenPart n link head.standing (orderImage head k params) s.part) = q.emit acts) :
    linkTake n (placed s link (orderImage head k params)) s.part =
        (takenPart n link head.standing (orderImage head k params) s.part).emit [.passOrder n] ∧
      drain (placed s link (orderImage head k params)) Config.agendaBound
          ((takenPart n link head.standing (orderImage head k params) s.part).emit [.passOrder n]) =
        drain (placed s link (orderImage head k params)) 65534 (q.emit acts) := by
  refine ⟨linkTake_placed h.takes hl (refusal_none hl (headPasses_taken h.passes) ?_ ?_ ?_), ?_⟩
  · rw [takenPart_paramChecks]
    exact hc
  · simpa using hplan
  · simpa using hb
  · rw [show Config.agendaBound = 65534 + 2 from rfl, drain_order, hB]
    · rw [takenPart_agenda]; exact h.takes.quiet.agenda
    · rw [takenPart_currentBytes, takenPart_claimEntry]; exact he

/-- The same where the block asks for nothing more. -/
theorem order_to_block (h : s.TakesOrder n link head) (hl : params.length ≤ 24)
    (hc : ∀ c ∈ s.part.paramChecks (orderImage head k params) k, c.2 = true)
    (hplan : s.part.plan.isSome = true ∨ k.needsNoPlan = true)
    (hb : needsBridge (orderImage head k params) k = true → (s.part.lane n).bridge = true)
    (he : s.part.claimEntry (orderImage head k params) = none)
    (hB : blockOrder n (placed s link (orderImage head k params))
      (takenPart n link head.standing (orderImage head k params) s.part) = q)
    (hq : q.agenda = []) :
    linkTake n (placed s link (orderImage head k params)) s.part =
        (takenPart n link head.standing (orderImage head k params) s.part).emit [.passOrder n] ∧
      drain (placed s link (orderImage head k params)) Config.agendaBound
        ((takenPart n link head.standing (orderImage head k params) s.part).emit [.passOrder n]) = q := by
  obtain ⟨h1, h2⟩ := order_to_acts (acts := []) h hl hc hplan hb he (by rw [hB, emit_nil])
  exact ⟨h1, h2.trans (drain_emit_nil hq)⟩

/-- An order whose event comes to rest at `q`, where its record is held and waits, with the deck as in `p`. -/
theorem order_waits {acts : List Act} {kind : WaitKind} (h : s.Takes n link) (hl : params.length ≤ 24)
    (hr : linkTake n (placed s link (orderImage head k params)) s.part =
      (takenPart n link head.standing (orderImage head k params) s.part).emit acts)
    (hd : drain (placed s link (orderImage head k params)) Config.agendaBound
      ((takenPart n link head.standing (orderImage head k params) s.part).emit acts) = q)
    (hq : q.agenda = []) (hh : kind = .hold → q.holdMet n (q.currentBytes n) = false)
    (hw : q.writes = takenCells link head.standing s.part.now)
    (hn : q.lane n = (p.lane n).taken.waitsOn
      { link := link, standing := head.standing, bytes := orderImage head k params, clamped := false } kind)
    (hp : ∀ c, (p.setLane n c).Follows (q.setLane n c))
    (ho : ∀ l, l ≠ n → q.lane l = s.part.lane l) (hg : q.generation = s.part.generation)
    (hps : q.port.partState = s.part.port.partState) :
    s.OrderWaits (runOrder n (orderImage head k params) s) n link head (orderImage head k params) kind p := by
  have hmet : q.metHolds = [] := by
    unfold Part.metHolds
    rw [List.filter_eq_nil_iff]
    intro l _
    by_cases e : l = n
    · subst e
      by_cases hk : kind = .hold
      · simp [hh hk]
      · rw [hn]
        simp [LaneContext.waitsOn, hk]
    · rw [ho l e]
      simp [h.quiet.noHold l (by simp)]
  have H := order_holds h hl hr hd hq hmet hw ho hg hps
  refine ⟨Part.Follows.trans ?_ H.follows, H.owner, H.result, H.keeps, H.queue, H.done⟩
  have F := hp (q.lane n)
  have e : q.setLane n (q.lane n) = q := Part.setLane_self q n
  rw [e] at F
  rw [← hn]
  exact F

/-- A FREE claim is open to every lane of no group. -/
theorem Part.ClaimFree.isOpen {p : Part} {n : Lane} {e : EntryId} (h : p.ClaimFree n e) : p.ClaimOpen n e :=
  ⟨h.nest, Or.inl h.free, h.waiters⟩

/-- An order that passes its checks and needs a claim that is FREE takes it, or keeps its own, and goes on to its owning
block (R154). -/
theorem order_to_claim {e : EntryId} {acts : List Act} (h : s.TakesOrder n link head) (hl : params.length ≤ 24)
    (hc : ∀ c ∈ s.part.paramChecks (orderImage head k params) k, c.2 = true)
    (hplan : s.part.plan.isSome = true ∨ k.needsNoPlan = true)
    (hb : needsBridge (orderImage head k params) k = true → (s.part.lane n).bridge = true)
    (he : s.part.claimEntry (orderImage head k params) = some e) (hf : s.part.ClaimOpen n e)
    (hB : blockOrder n (placed s link (orderImage head k params))
      ((takenPart n link head.standing (orderImage head k params) s.part).setClaim e (implicitOf n)) = q.emit acts) :
    linkTake n (placed s link (orderImage head k params)) s.part =
        (takenPart n link head.standing (orderImage head k params) s.part).emit [.passOrder n] ∧
      drain (placed s link (orderImage head k params)) Config.agendaBound
          ((takenPart n link head.standing (orderImage head k params) s.part).emit [.passOrder n]) =
        drain (placed s link (orderImage head k params)) 65534 (q.emit (acts ++ [.steadyReport e])) := by
  refine ⟨linkTake_placed h.takes hl (refusal_none hl (headPasses_taken h.passes) ?_ ?_ ?_), ?_⟩
  · rw [takenPart_paramChecks]
    exact hc
  · simpa using hplan
  · simpa using hb
  · obtain ⟨T, hT⟩ : ∃ T, T = takenPart n link head.standing (orderImage head k params) s.part := ⟨_, rfl⟩
    have hTa : T.agenda = [] := by rw [hT, takenPart_agenda]; exact h.takes.quiet.agenda
    have hcl : T.claim e = Claim.free ∨ T.claim e = implicitOf n := by rw [hT, takenPart_claim]; exact hf.entry
    have hnest : (T.lane n).nest = [] := by rw [hT, takenPart_nest]; exact hf.nest
    have hpass : ∀ m, perform m (.passOrder n) T =
        (T.setClaim e (implicitOf n)).emit [.blockOrder n, .steadyReport e] := by
      intro m
      have : T.claimEntry (T.currentBytes n) = some e := by
        rw [hT, takenPart_currentBytes, takenPart_claimEntry]; exact he
      have hopen : (T.claim e).openTo n = true := by rcases hcl with h | h <;> simp [h, Claim.openTo, Claim.free, implicitOf]
      have htake : takeImplicit n e T = T.setClaim e (implicitOf n) := by
        unfold takeImplicit
        rcases hcl with h | h
        · rw [h]; rfl
        · rw [if_neg (by rw [h]; simp [implicitOf]), ← h, Part.setClaim_self]
      simp [perform, passOrder, this, hnest, hopen, htake]
    have hTa' : (T.setClaim e (implicitOf n)).agenda = [] := hTa
    rw [← hT] at hB ⊢
    rw [show Config.agendaBound = 65534 + 1 + 1 from rfl, drain_emit hTa (by simp), hpass, emit_nil,
      drain_emit hTa' (by simp)]
    have : perform (placed s link (orderImage head k params)) (.blockOrder n) (T.setClaim e (implicitOf n)) = q.emit acts := hB
    rw [this, emit_emit]

/-- A steady actuator gives its implicit claim back (R154). -/
theorem steadyReport_releases {e : EntryId} (hc : q.claim e = implicitOf n) (hs : q.steady e = true) :
    steadyReport e q = (q.setClaim e Claim.free).emit [.arbitrate] := by
  unfold steadyReport
  simp [hc, implicitOf, hs]

/-- An actuator that is not steady keeps it. -/
theorem steadyReport_keeps {e : EntryId} (hs : q.steady e = false) : steadyReport e q = q := by
  unfold steadyReport
  simp only [hs]
  split
  · simp
  · simp
  · rfl

/-- The report of a steady actuator at the end of an event, with no lane that waits for a claim. -/
theorem drain_steady {m : List Host.Cell} {b : Nat} {e : EntryId} (ha : q.agenda = []) (hc : q.claim e = implicitOf n)
    (hs : q.steady e = true) (hw : q.waiters = []) :
    drain m (b + 2) (q.emit [.steadyReport e]) = q.setClaim e Claim.free := by
  have hp : perform m (.steadyReport e) q = steadyReport e q := rfl
  have ha' : (q.setClaim e Claim.free).agenda = [] := ha
  rw [drain_emit ha (by simp), hp, steadyReport_releases hc hs, emit_nil, drain_arbitrate (by simp [Part.emit, ha])
    (by exact hw)]
  simp [Part.emit, Part.setClaim, ha]

/-- The report of an actuator that is not steady. -/
theorem drain_unsteady {m : List Host.Cell} {b : Nat} {e : EntryId} (ha : q.agenda = []) (hs : q.steady e = false) :
    drain m (b + 1) (q.emit [.steadyReport e]) = q := by
  have hp : perform m (.steadyReport e) q = steadyReport e q := rfl
  rw [drain_emit ha (by simp), hp, steadyReport_keeps hs, emit_nil, drain_done ha]

/-- A FREE entry that has been claimed and given back. -/
theorem setClaim_back {e : EntryId} (h : p.claim e = Claim.free) (c : Claim) :
    setAt (setAt p.claims e c) e Claim.free = p.claims := by
  have := Part.setClaim_self p e
  rw [h] at this
  simp only [setAt_setAt]
  exact congrArg Part.claims this

/-- An order of the deck as a command: it takes place as long as no reset is in progress. -/
theorem orderCommand_runs (h : s.Takes n link) :
    orderCommand n head k params s = .next (runOrder n (orderImage head k params) s) := by
  simp [orderCommand, unlessReset, h.quiet.running]

/-- The part once the order's record has been taken. -/
theorem takenPart_of (h : s.Takes n link) (st : Bool) (image : List Byte) :
    takenPart n link st image s.part =
      { s.part with
        lanes := setAt s.part.lanes n { (s.part.lane n).taken with
          current := some { link := link, standing := st, bytes := image, clamped := false }, link := none },
        writes := takenCells link st s.part.now } := by
  rw [takenPart_eq, h.quiet.settled.1, List.nil_append]
  rfl

/-- An order whose record fails a check of R139: it ends with the refusal and the deck is as it was. -/
theorem order_refused (h : s.Takes n link) (hl : params.length ≤ 24)
    (hr : (takenPart n link head.standing (orderImage head k params) s.part).refusal n (orderImage head k params) =
      some r) (ha : r.code.failure = true → head.alternate ≠ 0) :
    s.OrderEnds (runOrder n (orderImage head k params) s) n link head r s.part := by
  obtain ⟨T, hT⟩ : ∃ T, T = takenPart n link head.standing (orderImage head k params) s.part := ⟨_, rfl⟩
  have hTa : T.agenda = [] := by rw [hT, takenPart_agenda]; exact h.quiet.agenda
  have hcur : (T.lane n).current =
      some { link := link, standing := head.standing, bytes := orderImage head k params, clamped := false } := by
    rw [hT, takenPart_lane_same]
  have halt : r.code.failure = true → HeldRecord.alternate
      { link := link, standing := head.standing, bytes := orderImage head k params, clamped := false } ≠ 0 := by
    intro hf
    rw [HeldRecord.alternate, imageAlternate_orderImage]
    exact ha hf
  obtain ⟨_, _, _, _, _, _, e, -⟩ := retire_follow_eq r (if r.code.failure then
    HeldRecord.alternate { link := link, standing := head.standing, bytes := orderImage head k params, clamped := false }
    else HeldRecord.next { link := link, standing := head.standing, bytes := orderImage head k params, clamped := false })
    hcur
  have hend := (orderEnds_eq (r := r) hcur halt).trans e
  have hd : ∀ m, drain m Config.agendaBound (T.emit [.orderEnds n r]) = { orderEnds n r T with claims := T.claims } := by
    intro m
    have e2 := drain_emit (m := m) (n := 65535) (p := T) (a := .orderEnds n r) (rest := []) hTa (by simp)
    have e3 : perform m (.orderEnds n r) T = orderEnds n r T := rfl
    rw [show Config.agendaBound = 65535 + 1 from rfl, e2, e3, emit_nil, drain_done (by rw [hend]; exact hTa), hend]
  rw [hT] at hd
  refine order_ends_as (q := takenPart n link head.standing (orderImage head k params) s.part) h hl
    (linkTake_refused h hl hr) (hd _) (by rw [takenPart_agenda]; exact h.quiet.agenda) rfl rfl rfl
    (takenPart_lane_same ..) ?_ ha ?_ ?_ ?_ ?_
  · intro c
    rw [takenPart_of h]
    refine ⟨rfl, rfl, rfl, rfl, rfl, rfl, rfl, ?_, rfl, rfl, rfl, rfl, rfl, rfl, rfl⟩
    simp [Part.setLane]
  · rw [takenPart_of h]
  · intro l hl
    exact takenPart_lane_ne _ _ _ _ _ hl
  · exact takenPart_generation ..
  · rw [takenPart_port]

/-- An order that needs no claim and that its owning block ends at once, where the deck `p` has every lane as it was but for
what lane `n` itself has set (`p.lane n`). -/
theorem order_done_deck (h : s.Takes n link) (hl : params.length ≤ 24)
    (hr : (takenPart n link head.standing (orderImage head k params) s.part).refusal n (orderImage head k params) = none)
    (hc : (takenPart n link head.standing (orderImage head k params) s.part).claimEntry (orderImage head k params) = none)
    (hb : ∀ m, blockOrder n m (takenPart n link head.standing (orderImage head k params) s.part) =
      Part.emit [.orderEnds n r] { p with
        lanes := setAt s.part.lanes n { (p.lane n).taken with
          current := some { link := link, standing := head.standing, bytes := orderImage head k params, clamped := false },
          link := none },
        writes := takenCells link head.standing s.part.now })
    (hla : ∀ c, setAt p.lanes n c = setAt s.part.lanes n c) (hag : p.agenda = [])
    (hg : p.generation = s.part.generation) (hps : p.port.partState = s.part.port.partState)
    (ha : r.code.failure = true → head.alternate ≠ 0) :
    s.OrderEnds (runOrder n (orderImage head k params) s) n link head r p := by
  refine order_done h hl hr hc hb hag ?_ ?_ ha rfl ?_ hg hps
  · simp [Part.lane]
  · intro c
    refine ⟨rfl, rfl, rfl, rfl, rfl, rfl, rfl, ?_, rfl, rfl, rfl, rfl, rfl, rfl, rfl⟩
    simp [Part.setLane, hla]
  · intro l hl
    exact getAt_setAt_ne _ _ (Ne.symm hl)

/-- The same in terms of the taken record: the block leaves the part as if the record had been taken on the deck `p`. -/
theorem order_done_taken (h : s.TakesOrder n link head) (hl : params.length ≤ 24)
    (hc : ∀ c ∈ s.part.paramChecks (orderImage head k params) k, c.2 = true)
    (hplan : s.part.plan.isSome = true ∨ k.needsNoPlan = true)
    (hbr : needsBridge (orderImage head k params) k = true → (s.part.lane n).bridge = true)
    (he : s.part.claimEntry (orderImage head k params) = none)
    (hb : ∀ m, blockOrder n m (takenPart n link head.standing (orderImage head k params) s.part) =
      (takenPart n link head.standing (orderImage head k params) p).emit [.orderEnds n r])
    (ha : r.code.failure = true → head.alternate ≠ 0) (hlanes : p.lanes = s.part.lanes)
    (hw : p.writes = s.part.writes) (hnow : p.now = s.part.now) (hag : p.agenda = s.part.agenda)
    (hg : p.generation = s.part.generation) (hps : p.port.partState = s.part.port.partState) :
    s.OrderEnds (runOrder n (orderImage head k params) s) n link head r p := by
  have hr := refusal_none (n := n) (k := k) (params := params) hl
    (headPasses_taken (n := n) (link := link) (st := head.standing) (image := orderImage head k params) h.passes)
    (by rw [takenPart_paramChecks]; exact hc) (by simpa using hplan) (by simpa using hbr)
  refine order_done_deck h.takes hl hr (by rw [takenPart_claimEntry]; exact he) ?_ (by rw [hlanes]; exact fun _ => rfl)
    (by rw [hag]; exact h.takes.quiet.agenda) hg hps ha
  intro m
  rw [hb, takenPart_eq, hw, hnow, h.takes.quiet.settled.1]
  simp [Part.lane, hlanes, LaneContext.taken]

/-- What the end of lane `n`'s order leaves, with its current record's bytes at `orderImage`. -/
theorem orderEnds_leaves (hcur : (q.lane n).current = some held) (hb : held.bytes = orderImage head k params)
    (ha : r.code.failure = true → head.alternate ≠ 0) :
    ∃ ws ov oc fs, orderEnds n r q =
      { q with lanes := setAt q.lanes n ((q.lane n).goesOn held.link (if r.code.failure then head.alternate else head.next)),
               writes := ws, forced := fs, openValues := ov, openCount := oc } := by
  have hnext : held.next = head.next := by rw [HeldRecord.next, hb]; exact imageNext_orderImage _ _ _
  have halt : held.alternate = head.alternate := by rw [HeldRecord.alternate, hb]; exact imageAlternate_orderImage _ _ _
  obtain ⟨d, f, g, ov, oc, fs, e, -⟩ := retire_follow_eq r (if r.code.failure then held.alternate else held.next) hcur
  have e' := (orderEnds_eq (r := r) hcur (by rw [halt]; exact ha)).trans e
  rw [hnext, halt] at e'
  exact ⟨_, ov, oc, fs, e'⟩

/-- The end of an order among micro-operations that change nothing. -/
theorem drain_ends_among {m : List Host.Cell} {pre rest : List Act} (hq : q.agenda = [])
    (hcur : (q.lane n).current = some held) (hb : held.bytes = orderImage head k params)
    (ha : r.code.failure = true → head.alternate ≠ 0) (hlen : pre.length + rest.length < 65000)
    (hpre : ∀ a ∈ pre, a ≠ .arbitrate ∧ perform m a q = q)
    (hrest : ∀ a ∈ rest, a ≠ .arbitrate ∧ perform m a (orderEnds n r q) = orderEnds n r q) :
    drain m 65534 (q.emit (pre ++ .orderEnds n r :: rest)) = orderEnds n r q := by
  obtain ⟨ws, ov, oc, fs, e⟩ := orderEnds_leaves (r := r) (head := head) (k := k) (params := params) hcur hb ha
  have hqa : (orderEnds n r q).agenda = [] := by rw [e]; exact hq
  obtain ⟨x, hx⟩ : ∃ x, 65534 = x + rest.length + 1 + pre.length := ⟨65534 - rest.length - 1 - pre.length, by omega⟩
  have hp : perform m (.orderEnds n r) q = orderEnds n r q := rfl
  rw [hx, drain_idle hq hpre, drain_emit hq (by simp), hp]
  have := drain_idle (m := m) (n := x) (rest := []) hqa hrest
  rw [List.append_nil] at this
  rw [this, drain_emit_nil hqa]

/-- An order that needs no claim, whose block leaves the deck `p` and asks for the end of the order among micro-operations
that change nothing. -/
theorem order_done_among {pre rest : List Act} (h : s.TakesOrder n link head) (hl : params.length ≤ 24)
    (hc : ∀ c ∈ s.part.paramChecks (orderImage head k params) k, c.2 = true)
    (hplan : s.part.plan.isSome = true ∨ k.needsNoPlan = true)
    (hbr : needsBridge (orderImage head k params) k = true → (s.part.lane n).bridge = true)
    (he : s.part.claimEntry (orderImage head k params) = none)
    (hb : ∀ m, blockOrder n m (takenPart n link head.standing (orderImage head k params) s.part) =
      (takenPart n link head.standing (orderImage head k params) p).emit (pre ++ .orderEnds n r :: rest))
    (hlen : pre.length + rest.length < 65000)
    (hpre : ∀ m, ∀ a ∈ pre, a ≠ .arbitrate ∧
      perform m a (takenPart n link head.standing (orderImage head k params) p) =
        takenPart n link head.standing (orderImage head k params) p)
    (hrest : ∀ m, ∀ a ∈ rest, a ≠ .arbitrate ∧
      perform m a (orderEnds n r (takenPart n link head.standing (orderImage head k params) p)) =
        orderEnds n r (takenPart n link head.standing (orderImage head k params) p))
    (ha : r.code.failure = true → head.alternate ≠ 0) (hlanes : p.lanes = s.part.lanes)
    (hw : p.writes = s.part.writes) (hnow : p.now = s.part.now) (hag : p.agenda = s.part.agenda)
    (hg : p.generation = s.part.generation) (hps : p.port.partState = s.part.port.partState) :
    s.OrderEnds (runOrder n (orderImage head k params) s) n link head r p := by
  obtain ⟨hlt, hd⟩ := order_to_acts h hl hc hplan hbr he (hb _)
  have hcur : ((takenPart n link head.standing (orderImage head k params) p).lane n).current =
      some { link := link, standing := head.standing, bytes := orderImage head k params, clamped := false } := by
    rw [takenPart_lane_same]
  have hqa : (takenPart n link head.standing (orderImage head k params) p).agenda = [] := by
    rw [takenPart_agenda, hag]; exact h.takes.quiet.agenda
  have hd' := hd.trans (drain_ends_among hqa hcur rfl ha hlen (hpre _) (hrest _))
  obtain ⟨ws, ov, oc, fs, e⟩ := orderEnds_leaves (r := r) (head := head) (k := k) (params := params) hcur rfl ha
  refine order_ends_as (q := takenPart n link head.standing (orderImage head k params) p) (claims := p.claims) h.takes hl
    hlt (hd'.trans ?_) hqa rfl rfl rfl (takenPart_lane_same ..) ?_ ha ?_ ?_ ?_ ?_
  · rw [e, takenPart_eq]
  · intro c
    rw [takenPart_eq]
    refine ⟨rfl, rfl, rfl, rfl, rfl, rfl, rfl, ?_, rfl, rfl, rfl, rfl, rfl, rfl, rfl⟩
    simp [Part.setLane]
  · rw [takenPart_writes, hw, hnow, h.takes.quiet.settled.1]; rfl
  · intro l hl
    rw [takenPart_lane_ne _ _ _ _ _ hl, Part.lane, hlanes]; rfl
  · rw [takenPart_generation, hg]
  · rw [takenPart_port, hps]

/-- The part in the middle of lane `n`'s order, on the deck `p`: the lane's context is `c` and the event has asked for the
writes `w`. -/
def midOrder (n : Lane) (c : LaneContext) (w : List Host.Cell) (p : Part) : Part :=
  { p with lanes := setAt p.lanes n c, writes := w }

/-- The lane's context right after the taking. -/
def LaneContext.holding (c : LaneContext) (held : HeldRecord) : LaneContext := { c.taken with current := some held, link := none }

theorem takenPart_mid (h : s.Takes n link) (st : Bool) (image : List Byte) (hlanes : p.lanes = s.part.lanes)
    (hw : p.writes = s.part.writes) (hnow : p.now = s.part.now) :
    takenPart n link st image p = midOrder n ((s.part.lane n).holding
      { link := link, standing := st, bytes := image, clamped := false }) (takenCells link st s.part.now) p := by
  rw [takenPart_eq, hw, hnow, h.quiet.settled.1]
  simp [midOrder, LaneContext.holding, Part.lane, hlanes, LaneContext.taken]

/-- An order whose event comes to rest where its record has retired, from the middle of the order. -/
theorem midOrder_ends {acts : List Act} {c : LaneContext} (h : s.Takes n link) (hl : params.length ≤ 24)
    (hr : linkTake n (placed s link (orderImage head k params)) s.part =
      (takenPart n link head.standing (orderImage head k params) s.part).emit acts)
    (hd : drain (placed s link (orderImage head k params)) Config.agendaBound
      ((takenPart n link head.standing (orderImage head k params) s.part).emit acts) =
        { orderEnds n r (midOrder n c (takenCells link head.standing s.part.now) p) with claims := claims })
    (hc : c.current = some held) (hk : held.link = link) (hs : held.standing = head.standing)
    (hb : held.bytes = orderImage head k params)
    (hgo : ∀ l, c.goesOn link l = (s.part.lane n).taken.goesOn link l)
    (ha : r.code.failure = true → head.alternate ≠ 0) (hlanes : p.lanes = s.part.lanes) (hag : p.agenda = [])
    (hg : p.generation = s.part.generation) (hps : p.port.partState = s.part.port.partState) :
    s.OrderEnds (runOrder n (orderImage head k params) s) n link head
      { r with flags := if held.clamped then r.flags ||| flagClamped else r.flags } { p with claims := claims } := by
  have hn : (midOrder n c (takenCells link head.standing s.part.now) p).lane n = c := by simp [midOrder, Part.lane]
  have hp : Part.lane { p with claims := claims } n = s.part.lane n := by simp [Part.lane, hlanes]
  refine order_ends_with h hl hr hd hag hk hs hb (by rw [hn]; exact hc) (by rw [hn, hp]; exact hgo) ?_ ha rfl ?_ hg hps
  · intro c'
    refine ⟨rfl, rfl, rfl, rfl, rfl, rfl, rfl, ?_, rfl, rfl, rfl, rfl, rfl, rfl, rfl⟩
    simp [midOrder, Part.setLane]
  · intro l hl
    show getAt (setAt p.lanes n c) l = s.part.lane l
    rw [getAt_setAt_ne _ _ (Ne.symm hl), hlanes]
    rfl

/-- An order whose event comes to rest where its record is held. -/
theorem midOrder_waits {acts : List Act} {kind : WaitKind} (h : s.Takes n link) (hl : params.length ≤ 24)
    (hr : linkTake n (placed s link (orderImage head k params)) s.part =
      (takenPart n link head.standing (orderImage head k params) s.part).emit acts)
    (hd : drain (placed s link (orderImage head k params)) Config.agendaBound
      ((takenPart n link head.standing (orderImage head k params) s.part).emit acts) =
        midOrder n ((s.part.lane n).taken.waitsOn
          { link := link, standing := head.standing, bytes := orderImage head k params, clamped := false } kind)
          (takenCells link head.standing s.part.now) p)
    (hkind : kind ≠ .hold) (hlanes : p.lanes = s.part.lanes) (hag : p.agenda = [])
    (hg : p.generation = s.part.generation) (hps : p.port.partState = s.part.port.partState) :
    s.OrderWaits (runOrder n (orderImage head k params) s) n link head (orderImage head k params) kind p := by
  refine order_waits h hl hr hd hag (fun e => absurd e hkind) rfl ?_ ?_ ?_ hg hps
  · simp [midOrder, Part.lane, hlanes]
  · intro c
    refine ⟨rfl, rfl, rfl, rfl, rfl, rfl, rfl, ?_, rfl, rfl, rfl, rfl, rfl, rfl, rfl⟩
    simp [midOrder, Part.setLane]
  · intro l hl
    show getAt (setAt p.lanes n _) l = s.part.lane l
    rw [getAt_setAt_ne _ _ (Ne.symm hl), hlanes]
    rfl

/-- What the end of the order leaves, from the middle of the order. -/
theorem midOrder_orderEnds {c : LaneContext} {w : List Host.Cell} (hc : c.current = some held)
    (hb : held.bytes = orderImage head k params) (ha : r.code.failure = true → head.alternate ≠ 0) :
    ∃ c' ws ov oc fs, orderEnds n r (midOrder n c w p) =
      { midOrder n c' ws p with forced := fs, openValues := ov, openCount := oc } := by
  obtain ⟨ws, ov, oc, fs, e⟩ := orderEnds_leaves (r := r) (head := head) (k := k) (params := params) (n := n)
    (q := midOrder n c w p) (held := held) (by simpa [midOrder, Part.lane] using hc) hb ha
  exact ⟨_, ws, ov, oc, fs, by rw [e]; simp [midOrder]; rfl⟩

/-- From the middle of an order on the deck `p`, whatever its lane has become, the micro-operations change nothing but the
claims, which they leave as `claims`. -/
def ClaimSettles (n : Lane) (rest : List Act) (p : Part) (claims : Vector Claim 32) : Prop :=
  ∀ (m : List Host.Cell) (b : Nat) (c : LaneContext) (w : List Host.Cell) (fs : List SlotId) (ov : List Word) (oc : Nat),
    65000 ≤ b →
    drain m b (Part.emit rest { midOrder n c w p with forced := fs, openValues := ov, openCount := oc }) =
      { midOrder n c w p with forced := fs, openValues := ov, openCount := oc, claims := claims }

/-- The report of an actuator that is not steady, after micro-operations that change nothing. -/
theorem settles_unsteady {e : EntryId} {rest : List Act} (ha : p.agenda = []) (hs : p.steady e = false)
    (hlen : rest.length ≤ 1000)
    (hrest : ∀ (m : List Host.Cell) (a : Act) (c : LaneContext) (w : List Host.Cell) (fs : List SlotId) (ov : List Word)
      (oc : Nat), a ∈ rest → a ≠ .arbitrate ∧
        perform m a { midOrder n c w p with forced := fs, openValues := ov, openCount := oc } =
          { midOrder n c w p with forced := fs, openValues := ov, openCount := oc }) :
    ClaimSettles n (rest ++ [.steadyReport e]) p p.claims := by
  intro m b c w fs ov oc hb
  obtain ⟨q, hq⟩ : ∃ q : Part, q = { midOrder n c w p with forced := fs, openValues := ov, openCount := oc } := ⟨_, rfl⟩
  have hqa : q.agenda = [] := by rw [hq]; exact ha
  obtain ⟨x, rfl⟩ : ∃ x, b = (x + 1) + rest.length := ⟨b - 1 - rest.length, by omega⟩
  rw [← hq, drain_idle hqa, drain_unsteady hqa]
  · rw [hq]; rfl
  · rw [hq]; exact hs
  · intro a ha'
    rw [hq]
    exact hrest m a c w fs ov oc ha'

/-- The report of a steady actuator. -/
theorem settles_steady {e : EntryId} (ha : p.agenda = []) (hs : p.steady e = true) (hc : p.claim e = implicitOf n)
    (hw : p.waiters = []) : ClaimSettles n [.steadyReport e] p (setAt p.claims e Claim.free) := by
  intro m b c w fs ov oc hb
  obtain ⟨q, hq⟩ : ∃ q : Part, q = { midOrder n c w p with forced := fs, openValues := ov, openCount := oc } := ⟨_, rfl⟩
  have hqa : q.agenda = [] := by rw [hq]; exact ha
  obtain ⟨x, rfl⟩ : ∃ x, b = x + 2 := ⟨b - 2, by omega⟩
  rw [← hq, drain_steady (n := n) hqa]
  · rw [hq]; rfl
  · rw [hq]; exact hc
  · rw [hq]; exact hs
  · rw [hq]; exact hw

/-- An order that takes its actuator's claim and ends in the event that took it, the deck left as in `p`. -/
theorem claim_ends {e : EntryId} {rest : List Act} {c : LaneContext} (h : s.TakesOrder n link head)
    (hl : params.length ≤ 24) (hc : ∀ c ∈ s.part.paramChecks (orderImage head k params) k, c.2 = true)
    (hplan : s.part.plan.isSome = true ∨ k.needsNoPlan = true)
    (hb : needsBridge (orderImage head k params) k = true → (s.part.lane n).bridge = true)
    (he : s.part.claimEntry (orderImage head k params) = some e) (hf : s.part.ClaimOpen n e)
    (hB : ∀ m, blockOrder n m (midOrder n ((s.part.lane n).holding
        { link := link, standing := head.standing, bytes := orderImage head k params, clamped := false })
        (takenCells link head.standing s.part.now) (s.part.setClaim e (implicitOf n))) =
      (midOrder n c (takenCells link head.standing s.part.now) p).emit (.orderEnds n r :: rest))
    (hcur : c.current = some held) (hk : held.link = link) (hs : held.standing = head.standing)
    (hbytes : held.bytes = orderImage head k params)
    (hgo : ∀ l, c.goesOn link l = (s.part.lane n).taken.goesOn link l)
    (hrest : ClaimSettles n (rest ++ [.steadyReport e]) p claims)
    (ha : r.code.failure = true → head.alternate ≠ 0) (hlanes : p.lanes = s.part.lanes) (hag : p.agenda = [])
    (hg : p.generation = s.part.generation) (hps : p.port.partState = s.part.port.partState) :
    s.OrderEnds (runOrder n (orderImage head k params) s) n link head
      { r with flags := if held.clamped then r.flags ||| flagClamped else r.flags } { p with claims := claims } := by
  obtain ⟨hlt, hd⟩ := order_to_claim h hl hc hplan hb he hf (by
    rw [takenPart_setClaim, takenPart_mid (p := s.part.setClaim e (implicitOf n)) h.takes _ _ rfl rfl rfl]
    exact hB _)
  obtain ⟨c', ws, ov, oc, fs, eend⟩ := midOrder_orderEnds (r := r) (head := head) (k := k) (params := params) (n := n)
    (p := p) (w := takenCells link head.standing s.part.now) hcur hbytes ha
  obtain ⟨q, hq⟩ : ∃ q, q = midOrder n c (takenCells link head.standing s.part.now) p := ⟨_, rfl⟩
  have hqa : q.agenda = [] := by rw [hq]; exact hag
  refine midOrder_ends (c := c) (held := held) h.takes hl hlt (hd.trans ?_) hcur hk hs hbytes hgo ha hlanes hag hg hps
  rw [← hq] at eend ⊢
  have hpe : ∀ m, perform m (.orderEnds n r) q = orderEnds n r q := fun _ => rfl
  rw [List.cons_append, show 65534 = 65533 + 1 from rfl, drain_emit hqa (by simp), hpe, eend]
  exact hrest _ _ _ _ _ _ _ (by omega)

/-- An order that takes its actuator's claim and waits for the action it has started, the deck left as in `p`. -/
theorem claim_waits {e : EntryId} {rest : List Act} {kind : WaitKind} (h : s.TakesOrder n link head)
    (hl : params.length ≤ 24) (hc : ∀ c ∈ s.part.paramChecks (orderImage head k params) k, c.2 = true)
    (hplan : s.part.plan.isSome = true ∨ k.needsNoPlan = true)
    (hb : needsBridge (orderImage head k params) k = true → (s.part.lane n).bridge = true)
    (he : s.part.claimEntry (orderImage head k params) = some e) (hf : s.part.ClaimOpen n e)
    (hB : ∀ m, blockOrder n m (midOrder n ((s.part.lane n).holding
        { link := link, standing := head.standing, bytes := orderImage head k params, clamped := false })
        (takenCells link head.standing s.part.now) (s.part.setClaim e (implicitOf n))) =
      (midOrder n ((s.part.lane n).taken.waitsOn
        { link := link, standing := head.standing, bytes := orderImage head k params, clamped := false } kind)
        (takenCells link head.standing s.part.now) p).emit rest)
    (hkind : kind ≠ .hold) (hrest : ClaimSettles n (rest ++ [.steadyReport e]) p claims)
    (hlanes : p.lanes = s.part.lanes) (hag : p.agenda = [])
    (hg : p.generation = s.part.generation) (hps : p.port.partState = s.part.port.partState) :
    s.OrderWaits (runOrder n (orderImage head k params) s) n link head (orderImage head k params) kind
      { p with claims := claims } := by
  obtain ⟨hlt, hd⟩ := order_to_claim h hl hc hplan hb he hf (by
    rw [takenPart_setClaim, takenPart_mid (p := s.part.setClaim e (implicitOf n)) h.takes _ _ rfl rfl rfl]
    exact hB _)
  refine midOrder_waits (p := { p with claims := claims }) h.takes hl hlt (hd.trans ?_) hkind hlanes hag hg hps
  exact hrest _ _ _ _ p.forced p.openValues p.openCount (by omega)

end

end Sys2Proof.Machine
end

