-- ==== Sys2Proof/Laws/Deck.lean ====
section
/-! SUPPORT. What the shared operations of the deck's blocks leave alone, and what they set. -/

namespace Sys2Proof.Machine

variable (p : Part)

/-! ### Operations that change one kind of record -/

/-- A list of updates that each change the movers alone. -/
theorem forEach_movers {α : Type} {f : α → Part → Part} (hf : ∀ x q, f x q = { q with movers := (f x q).movers })
    (l : List α) (p : Part) : forEach l f p = { p with movers := (forEach l f p).movers } := by
  apply forEach_keeps (P := fun q => q = { p with movers := q.movers })
  · intro x q hq
    rw [hf, hq]
  · rfl

/-- A list of updates that each change the line generators alone. -/
theorem forEach_lines {α : Type} {f : α → Part → Part} (hf : ∀ x q, f x q = { q with lines := (f x q).lines })
    (l : List α) (p : Part) : forEach l f p = { p with lines := (forEach l f p).lines } := by
  apply forEach_keeps (P := fun q => q = { p with lines := q.lines })
  · intro x q hq
    rw [hf, hq]
  · rfl

theorem setMotion_eq (m : MoverId) (mo : Motion) : setMotion m mo p = { p with movers := (setMotion m mo p).movers } :=
  forEach_movers (fun _ _ => rfl) _ _

theorem mapEnds_eq (m : MoverId) (f : Mover → Mover) : mapEnds m f p = { p with movers := (mapEnds m f p).movers } :=
  forEach_movers (fun _ _ => rfl) _ _

theorem postFire_eq (k : LineId) : postFire k p = { p with lines := (postFire k p).lines } := by
  unfold postFire
  simp only
  split <;> rfl

theorem postWarn_eq (k : LineId) : postWarn k p = { p with lines := (postWarn k p).lines } := by
  unfold postWarn
  simp only
  split
  · rfl
  · split <;> rfl

theorem postChime_eq (k : LineId) (n : Nat) : postChime k n p = { p with lines := (postChime k n p).lines } := by
  unfold postChime
  simp only
  split <;> rfl

theorem withdrawFire_eq (k : LineId) : withdrawFire k p = { p with lines := (withdrawFire k p).lines } := by
  unfold withdrawFire
  simp only
  split <;> rfl

theorem withdrawWarn_eq (k : LineId) : withdrawWarn k p = { p with lines := (withdrawWarn k p).lines } := by
  unfold withdrawWarn
  simp only
  split
  · split <;> rfl
  · rfl

theorem withdrawChime_eq (k : LineId) : withdrawChime k p = { p with lines := (withdrawChime k p).lines } := by
  unfold withdrawChime
  simp only
  split
  · split <;> rfl
  · rfl

theorem withdrawChimes_eq (l : List LineId) :
    forEach l withdrawChime p = { p with lines := (forEach l withdrawChime p).lines } :=
  forEach_lines (fun k q => withdrawChime_eq q k) _ _

theorem postChimes_eq (l : List LineId) (n : Nat) :
    forEach l (fun k => postChime k n) p = { p with lines := (forEach l (fun k => postChime k n) p).lines } :=
  forEach_lines (fun k q => postChime_eq q k n) _ _

theorem syncFire_eq : syncFire p = { p with lines := (syncFire p).lines } := by
  apply forEach_lines
  intro k q
  split
  · exact postFire_eq q k
  · exact withdrawFire_eq q k

theorem syncWarn_eq (d : DoorId) : syncWarn d p = { p with lines := (syncWarn d p).lines } := by
  apply forEach_lines
  intro k q
  split
  · exact postWarn_eq q _
  · exact withdrawWarn_eq q _

/-- Posting or withdrawing on lines reads no more of the part than the plan and the lines. -/
theorem postChimes_congr (l : List LineId) (n : Nat) {p q : Part} (hl : q.lines = p.lines) (hp : q.plan = p.plan) :
    (forEach l (fun k => postChime k n) q).lines = (forEach l (fun k => postChime k n) p).lines := by
  induction l generalizing p q with
  | nil => exact hl
  | cons k rest ih =>
    simp only [forEach_cons]
    apply ih
    · have e : ∀ (r r' : Part), r.lines = r'.lines → r.plan = r'.plan → (postChime k n r).lines = (postChime k n r').lines := by
        intro r r' h1 h2
        have e1 : r.line k = r'.line k := by simp [Part.line, h1]
        have e2 : r.inForce = r'.inForce := by simp [Part.inForce, h2]
        have e3 : ∀ g, r.afterDemand k g = r'.afterDemand k g := by
          intro g
          have e4 : ∀ g, r.restartLine k g = r'.restartLine k g := by
            intro g
            simp [Part.restartLine, Part.highestPattern, Part.planZone, Part.shownOf, Part.pattern, e2]
          simp [Part.afterDemand, e4]
        unfold postChime
        simp only [e1, e3]
        split <;> simp [h1]
      exact e q p hl hp
    · rw [postChime_eq q, postChime_eq p]
      exact hp

/-! ### Both ends of a mover -/

/-- An end of a mover has the motion that was set. -/
theorem setMotion_mover (m : MoverId) (mo : Motion) (e : MoverId) :
    (setMotion m mo p).mover e = if e ∈ p.ends m then { p.mover e with motion := mo } else p.mover e := by
  unfold setMotion
  have key : ∀ (l : List MoverId) (q : Part),
      (forEach l (fun e q => q.setMover e { q.mover e with motion := mo }) q).mover e =
        if e ∈ l then { q.mover e with motion := mo } else q.mover e := by
    intro l
    induction l with
    | nil => intro q; simp
    | cons x rest ih =>
      intro q
      rw [forEach_cons, ih, Part.setMover_get]
      by_cases h : x = e
      · subst h
        by_cases hr : x ∈ rest <;> simp [hr]
      · have : e ≠ x := fun y => h y.symm
        simp [h, this]
  exact key _ _

/-! ### FIRE demands (R12) -/

theorem restartLine_fire (k : LineId) (g : Generator) : (p.restartLine k g).fire = g.fire := by
  unfold Part.restartLine
  split <;> rfl

theorem afterDemand_fire (k : LineId) (g : Generator) : (p.afterDemand k g).fire = g.fire := by
  unfold Part.afterDemand
  split
  · split
    · exact restartLine_fire p k g
    · rfl
  · split
    · exact restartLine_fire p k g
    · split <;> rfl

theorem fireWanted_congr {p q : Part} (hz : q.zones = p.zones) (hp : q.plan = p.plan) (k : LineId) :
    q.fireWanted k = p.fireWanted k := by
  simp [Part.fireWanted, Part.zone, Part.inForce, hz, hp]

/-- After the synchronisation a line carries FIRE exactly where R12 wants it. -/
theorem syncFire_fire (k : LineId) : ((syncFire p).line k).fire = p.fireWanted k := by
  unfold syncFire
  have key : ∀ (l : List LineId) (q : Part), q.zones = p.zones → q.plan = p.plan →
      ((forEach l (fun k q => if q.fireWanted k then postFire k q else withdrawFire k q) q).line k).fire =
        if k ∈ l then p.fireWanted k else (q.line k).fire := by
    intro l
    induction l with
    | nil => intro q _ _; simp
    | cons x rest ih =>
      intro q hz hp
      rw [forEach_cons]
      have hw := fireWanted_congr hz hp x
      have hstep : ∀ r, r = (if q.fireWanted x then postFire x q else withdrawFire x q) →
          r.zones = p.zones ∧ r.plan = p.plan ∧ (r.line k).fire = if x = k then p.fireWanted k else (q.line k).fire := by
        intro r hr
        rw [hr]
        cases hx : q.fireWanted x
        · simp only [Bool.false_eq_true, if_false]
          refine ⟨by rw [withdrawFire_eq]; exact hz, by rw [withdrawFire_eq]; exact hp, ?_⟩
          unfold withdrawFire
          simp only
          split
          · rw [Part.setLine_get]
            split
            · next e => subst e; rw [afterDemand_fire, ← hw, hx]
            · rfl
          · next h =>
            split
            · next e => subst e; rw [← hw, hx]; simpa using h
            · rfl
        · simp only [if_true]
          refine ⟨by rw [postFire_eq]; exact hz, by rw [postFire_eq]; exact hp, ?_⟩
          unfold postFire
          simp only
          split
          · next h =>
            split
            · next e => subst e; rw [← hw, hx]; exact h
            · rfl
          · rw [Part.setLine_get]
            split
            · next e => subst e; rw [restartLine_fire, ← hw, hx]
            · rfl
      obtain ⟨h1, h2, h3⟩ := hstep _ rfl
      rw [ih _ h1 h2, h3]
      by_cases e : x = k
      · subst e
        simp
      · have : k ≠ x := fun y => e y.symm
        simp [e, this]
  rw [key _ _ rfl rfl, if_pos (List.mem_finRange k)]

/-! ### Reports that find no claim -/

theorem steadyReport_free {e : EntryId} (h : (p.claim e).holder = none) : steadyReport e p = p := by
  unfold steadyReport
  simp [h]

theorem faultReport_free {e : EntryId} (h : (p.claim e).holder = none) : faultReport e p = p := by
  unfold faultReport
  simp [h]

/-! ### Lists of events -/

theorem runAll_idle {s : State} : ∀ l : List (State → State), (∀ f ∈ l, f s = s) → runAll l s = s := by
  intro l
  induction l with
  | nil => exact fun _ => rfl
  | cons f rest ih =>
    intro h
    rw [runAll, h f (by simp)]
    exact ih (fun g hg => h g (by simp [hg]))

theorem runWhen_idle {due : Part → Bool} {f : Part → Part} {s : State} (h : due s.part = false) :
    runWhen due f s = s := by simp [runWhen, h]

/-! ### The slots at the end of an event (R129) -/

theorem slotContent_board (b : ExchangePort) (j : SlotId) : Part.slotContent { p with board := b } j = p.slotContent j := by
  unfold Part.slotContent
  split <;> rfl

theorem handOverAll_slot (pre : Part) (j : SlotId) :
    (handOverAll pre p).slot j =
      if p.forced.contains j || (pre.slotKey j != p.slotKey j) then
        { p.slot j with content := p.slotContent j, waiting := p.equalised }
      else p.slot j := by
  unfold handOverAll
  have key : ∀ (l : List SlotId) (q : Part), l.Nodup → q = { p with board := q.board } →
      (forEach l (fun j q => if p.forced.contains j || (pre.slotKey j != p.slotKey j) then handOver j q else q) q).slot j =
        if j ∈ l ∧ (p.forced.contains j || (pre.slotKey j != p.slotKey j)) = true then
          { q.slot j with content := p.slotContent j, waiting := p.equalised }
        else q.slot j := by
    intro l
    induction l with
    | nil => intro q _ _; simp
    | cons x rest ih =>
      intro q hn hq
      have hn' := List.nodup_cons.1 hn
      rw [forEach_cons]
      by_cases hx : (p.forced.contains x || (pre.slotKey x != p.slotKey x)) = true
      · simp only [if_pos hx]
        rw [ih _ hn'.2 (by rw [handOver_eq, hq])]
        have hc : q.slotContent x = p.slotContent x := by rw [hq, slotContent_board]
        have he : q.equalised = p.equalised := by rw [hq]; rfl
        by_cases e : x = j
        · subst e
          rw [if_neg (fun h => hn'.1 h.1), if_pos ⟨by simp, hx⟩]
          unfold handOver
          rw [Part.setSlot_same, hc, he]
        · have hs : (handOver x q).slot j = q.slot j := Part.setSlot_ne _ _ e
          have : (j ∈ x :: rest) ↔ j ∈ rest := by
            constructor
            · intro h; rcases List.mem_cons.1 h with h | h
              · exact absurd h.symm e
              · exact h
            · exact fun h => by simp [h]
          rw [hs]
          simp only [this]
      · simp only [if_neg hx]
        rw [ih _ hn'.2 hq]
        by_cases e : x = j
        · subst e
          rw [if_neg (fun h => hx h.2), if_neg (fun h => hx h.2)]
        · have : (j ∈ x :: rest) ↔ j ∈ rest := by
            constructor
            · intro h; rcases List.mem_cons.1 h with h | h
              · exact absurd h.symm e
              · exact h
            · exact fun h => by simp [h]
          simp only [this]
  rw [key _ _ (List.nodup_finRange 52) rfl]
  by_cases h : (p.forced.contains j || (pre.slotKey j != p.slotKey j)) = true
  · rw [if_pos ⟨List.mem_finRange j, h⟩, if_pos h]
  · rw [if_neg (fun x => h x.2), if_neg h]

/-- The slots after the end of an event on an equalised board: the hand-over's. -/
theorem closeEvent_slot (m : List Host.Cell) {pre : Part} (h : p.equalised = true) (h' : pre.equalised = true)
    (j : SlotId) : (closeEvent m pre p).slot j = (handOverAll pre p).slot j := by
  unfold closeEvent
  simp only [h, h', if_true]
  obtain ⟨cells, hc, -⟩ := updateHeader_eq pre (handOverAll pre p)
  rw [hc]
  rfl

/-- The slots after an event that comes to rest at `q`, on an equalised board. -/
theorem runEvent_slot {f : List Host.Cell → Part → Part} {s : State} {q : Part}
    (hd : drain s.mem Config.agendaBound (f s.mem s.part) = q) (hq : q.agenda = []) (hh : q.metHolds = [])
    (he : q.equalised = true) (he' : s.part.equalised = true) (j : SlotId) :
    (runEvent f s).part.slot j =
      if q.forced.contains j || (s.part.slotKey j != q.slotKey j) then
        { q.slot j with content := q.slotContent j, waiting := true }
      else q.slot j := by
  have e := eventPart_of_drain hd hq hh
  have hb : (runEvent f s).part.board = (eventPart f s.mem s.part).board := rfl
  have hs : (runEvent f s).part.slot j = (closeEvent s.mem s.part q).slot j := by
    unfold Part.slot
    rw [hb, e]
  rw [hs, closeEvent_slot q s.mem he he', handOverAll_slot, he]

end Sys2Proof.Machine
end

