-- ==== Sys2Proof/Laws/Step.lean ====
section
/-! SUPPORT. What a command can do, said once: it is nothing, a reset, or a chain of events, with an order's record placed
before it. What each of these keeps, every command keeps. -/

namespace Sys2Proof.Machine

variable {P : State → Prop}

/-- A change of the machine keeps a property. -/
def Keeps (P : State → Prop) (f : State → State) : Prop := ∀ s, P s → P (f s)

/-- Every event keeps the property. -/
def EventsKeep (P : State → Prop) : Prop := ∀ f : List Host.Cell → Part → Part, Keeps P (runEvent f)

theorem keeps_runAll : ∀ l : List (State → State), (∀ f ∈ l, Keeps P f) → Keeps P (runAll l) := by
  intro l
  induction l with
  | nil => exact fun _ s h => h
  | cons f rest ih => exact fun h s hs => ih (fun g hg => h g (by simp [hg])) _ (h f (by simp) s hs)

theorem keeps_runWhen (h : EventsKeep P) (due : Part → Bool) (f : Part → Part) : Keeps P (runWhen due f) := by
  intro s hs
  unfold runWhen runLocal
  split
  · exact h _ s hs
  · exact hs

theorem keeps_unlessReset {f : State → State} (h : Keeps P f) : Keeps P (unlessReset f) := by
  intro s hs
  unfold unlessReset
  split
  · exact hs
  · exact h s hs

theorem keeps_allExpiries (h : EventsKeep P) : ∀ f ∈ allExpiries, Keeps P f := by
  intro f hf
  unfold allExpiries at hf
  simp only [List.mem_append, List.mem_map, List.mem_cons, List.not_mem_nil, or_false] at hf
  rcases hf with
    ((((((((⟨k, -, rfl⟩ | ⟨k, -, rfl⟩) | ⟨k, -, rfl⟩) | ⟨k, -, rfl⟩) | ⟨k, -, rfl⟩) | ⟨k, -, rfl⟩) | rfl | rfl) |
      ⟨k, -, rfl⟩) | ⟨k, -, rfl⟩)
  all_goals exact keeps_runWhen h _ _

theorem keeps_markEvent (h : EventsKeep P) : Keeps P markEvent := by
  intro s hs
  unfold markEvent
  split
  · exact h _ _ (keeps_runAll _ (keeps_allExpiries h) s hs)
  · exact hs

theorem keeps_secondEvent (h : EventsKeep P) : Keeps P secondEvent := by
  intro s hs
  unfold secondEvent
  split
  · exact keeps_markEvent h s hs
  · exact hs

theorem keeps_checkEvent (h : EventsKeep P) : Keeps P checkEvent := by
  intro s hs
  unfold checkEvent
  split
  · exact h _ _ hs
  · exact hs

theorem keeps_leftOver (h : EventsKeep P) : ∀ f ∈ leftOver, Keeps P f := by
  intro f hf
  unfold leftOver at hf
  simp only [List.mem_append, List.mem_map, List.mem_cons, List.not_mem_nil, or_false] at hf
  rcases hf with ((rfl | rfl | rfl) | ⟨k, -, rfl⟩) | rfl | rfl
  · exact keeps_runWhen h _ _
  · exact keeps_checkEvent h
  · exact keeps_markEvent h
  all_goals exact keeps_runWhen h _ _

theorem keeps_tickEvent (h : EventsKeep P) : Keeps P tickEvent := fun s hs =>
  h _ _ (keeps_runAll _ (keeps_leftOver h) s hs)

theorem keeps_runOrder (h : EventsKeep P) (hp : ∀ s n image, P s → P (placeOrder n image s)) (n : Lane)
    (image : List Byte) : Keeps P (runOrder n image) := by
  intro s hs
  unfold runOrder
  split
  · exact h _ _ (hp s n image hs)
  · exact hs

/-- What every event, both resets and the placing of a record keep, every command keeps, and every command completes. -/
theorem exec_keeps (h : EventsKeep P)
    (hr : ∀ s cells seconds b ov oc, P s →
      P { s with mem := writeCells s.mem cells, part := Part.reset seconds b ov oc })
    (hp : ∀ s n image, P s → P (placeOrder n image s)) (c : Instr) (s : State) (hs : P s) :
    ∃ t, exec c s = .next t ∧ P t := by
  have ev : ∀ f : State → State, Keeps P f →
      ∃ t, (.next (unlessReset f s) : Host.Outcome State Fault Refusal) = .next t ∧ P t :=
    fun f hf => ⟨_, rfl, keeps_unlessReset hf s hs⟩
  have order : ∀ n head k params, ∃ t, orderCommand n head k params s = .next t ∧ P t :=
    fun n head k params => ev _ (keeps_runOrder h hp n _)
  have seen : Keeps P (fun t => if readDue t.part then runEvent seenCountRead t else t) := by
    intro t ht
    simp only
    split
    · exact h _ _ ht
    · exact ht
  cases c
  case powerOnReset => exact ⟨_, rfl, hr s [] 0 false _ _ hs⟩
  case softReset =>
    by_cases e : s.part.port.inReset = true
    · exact ⟨s, by simp [exec, execSoftReset, e], hs⟩
    · exact ⟨_, by simp only [exec, execSoftReset, if_neg e]; rfl, hr s _ _ _ _ _ hs⟩
  case resetEnd => exact ⟨_, rfl, h _ _ hs⟩
  case ignoredRegisterWrite => exact ⟨_, rfl, hs⟩
  case deckTick => exact ev _ (keeps_tickEvent h)
  case checkMark => exact ev _ (keeps_checkEvent h)
  case centisecondMark => exact ev _ (keeps_markEvent h)
  case secondEnd => exact ev _ (keeps_secondEvent h)
  case seenCountRead => exact ev _ seen
  all_goals first
    | exact order _ _ _ _
    | exact ev _ (keeps_runWhen h _ _)
    | exact ev _ (h _)

theorem reset_pendingSlots (seconds : Word) (b : Bool) (ov : List Word) (oc : Nat) :
    (Part.reset seconds b ov oc).pendingSlots = [] := by
  unfold Part.pendingSlots
  rw [List.filter_eq_nil_iff]
  intro j _
  simp [Part.slot, Part.reset, ExchangePort.reset, BoardSlot.reset, BoardSlot.pending]

theorem reset_intHolds (seconds : Word) (b : Bool) (ov : List Word) (oc : Nat) :
    (Part.reset seconds b ov oc).intHolds := by
  refine ⟨?_, ?_, ?_⟩
  · rw [reset_pendingSlots]; rfl
  · rw [reset_pendingSlots]; rfl
  · rfl

/-! ### Orders -/

/-- An order's command is its record placed and taken. -/
theorem exec_orderOf {c : Instr} {s : State} {n : Lane} {head : OrderHead} {k : OrderKind} {params : List Byte}
    (h : orderOf c = some (n, head, k, params)) : exec c s = orderCommand n head k params s := by
  cases c <;> simp only [orderOf, Option.some.injEq, Prod.mk.injEq, reduceCtorEq] at h <;>
    (obtain ⟨rfl, rfl, rfl, rfl⟩ := h; rfl)

/-- An order's parameters fit the record. -/
theorem orderOf_length {c : Instr} {n : Lane} {head : OrderHead} {k : OrderKind} {params : List Byte}
    (h : orderOf c = some (n, head, k, params)) : params.length ≤ 24 := by
  cases c <;> simp only [orderOf, Option.some.injEq, Prod.mk.injEq, reduceCtorEq] at h <;>
    (obtain ⟨-, -, -, rfl⟩ := h
     simp [holdParams, groupParams, moveParams, callParams, halfBytes, wordBytes])

end Sys2Proof.Machine
end

