-- ==== Sys2Proof/Laws/Movers.lean ====
section
/-! SUPPORT. Mover orders inside the taking of their record: what passes through, what is read,
    the parameters of MOVE. -/

namespace Sys2Proof.Machine

/-- A small number survives the passage through a byte. -/
theorem toNat_ofNat8 {N x : Nat} (h : x < N) (hN : N ≤ 256) : (BitVec.ofNat 8 x).toNat = x := by
  rw [BitVec.toNat_ofNat]; apply Nat.mod_eq_of_lt; omega

section
variable (n : Lane) (c : LaneContext) (w : List Host.Cell) (p : Part)

/-- A loop over operations that pass through `midOrder` passes through it. -/
theorem midOrder_forEach {α : Type} {f : α → Part → Part}
    (hf : ∀ x q, f x (midOrder n c w q) = midOrder n c w (f x q)) :
   ∀ (l : List α) (q : Part), forEach l f (midOrder n c w q) = midOrder n c w (forEach l f q) := by
  intro l; induction l with
  | nil => intro q; rfl
  | cons a l ih => intro q; simp only [forEach_cons]; rw [hf, ih]

/-- `setMotion` passes through `midOrder`. -/
theorem midOrder_setMotion (m : MoverId) (mo : Motion) : setMotion m mo (midOrder n c w p) = midOrder n c w
    (setMotion m mo p) :=
  midOrder_forEach n c w (f := fun e q => q.setMover e { q.mover e with motion := mo }) (fun _ _ => rfl) (p.ends m) p

/-- `mapEnds` passes through `midOrder`. -/
theorem midOrder_mapEnds (m : MoverId) (f : Mover → Mover) : mapEnds m f (midOrder n c w p) = midOrder n c w
    (mapEnds m f p) :=
  midOrder_forEach n c w (f := fun e q => q.setMover e (f (q.mover e))) (fun _ _ => rfl) (p.ends m) p

/-- The lane context of `midOrder`. -/
theorem midOrder_lane : (midOrder n c w p).lane n = c := by simp [midOrder, Part.lane]

/-- The kept content of the record in hand in `midOrder`. -/
theorem midOrder_currentBytes (held : HeldRecord) (h : c.current = some held) : (midOrder n c w p).currentBytes n =
    held.bytes := by
  unfold Part.currentBytes; rw [midOrder_lane, h]

end

section
variable (p : Part) (m : MoverId) (mo : Motion) (f : Mover → Mover)

/-- `setMotion` leaves the pairs. -/
theorem setMotion_ends (m' : MoverId) : (setMotion m mo p).ends m' = p.ends m' := by rw [setMotion_eq]; rfl

/-- `mapEnds` leaves the pairs. -/
theorem mapEnds_ends (m' : MoverId) : (mapEnds m f p).ends m' = p.ends m' := by rw [mapEnds_eq]; rfl

end

/-- The parameters of an order of one mover index are in range (R29, R36, R49, R53). -/
theorem moverOrder_paramChecks (p : Part) (head : OrderHead) {kind : OrderKind}
    (hk : kind = .stopMover ∨ kind = .floatRamp ∨ kind = .clearMoverFault) (m : MoverId) :
   ∀ c ∈ p.paramChecks (orderImage head kind [BitVec.ofNat 8 m.val]) kind, c.2 = true := by
  have e : p.paramChecks (orderImage head kind [BitVec.ofNat 8 m.val]) kind =
      [(12, decide (paramIndex (orderImage head kind [BitVec.ofNat 8 m.val]) < 8)), restZero
      (orderImage head kind [BitVec.ofNat 8 m.val]) 13] := by
    rcases hk with rfl | rfl | rfl <;> rfl
  rw [e]
  intro c hc
  simp only [List.mem_cons, List.not_mem_nil, or_false] at hc
  rcases hc with rfl | rfl
  · apply decide_eq_true
    show (BitVec.ofNat 8 m.val).toNat < 8
    rw [toNat_ofNat8 m.isLt (by omega)]; exact m.isLt
  · rw [restZero_orderImage _ _ (by simp) (by omega)]

/-- The mover index that an order image names. -/
theorem paramMover_orderImage (head : OrderHead) (kind : OrderKind) (m : MoverId) (rest : List Byte) : paramMover
    (orderImage head kind (BitVec.ofNat 8 m.val :: rest)) = m := by
  apply Fin.ext
  show (BitVec.ofNat 8 m.val).toNat % 8 = m.val
  rw [toNat_ofNat8 m.isLt (by omega), Nat.mod_eq_of_lt m.isLt]

/-- A mover entry is steady as the leading end is (R54). -/
theorem steady_entryOfMover (p : Part) (m : MoverId) : p.steady (p.entryOfMover m) =
    (p.mover (p.leader m)).motion.state.steady := by
  unfold Part.steady Part.entryOfMover actuatorOf moverEntry
  simp [(p.leader m).isLt]

/-- The leading end is an end. -/
theorem leader_mem_ends (p : Part) (m : MoverId) : p.leader m ∈ p.ends m := by
  unfold Part.leader Part.ends Plan.leader Part.partner
  cases p.inForce.partner m with
  | none => simp
  | some q => by_cases h : q.val < m.val <;> simp [h]

/-- A mover is one of its ends. -/
theorem self_mem_ends (p : Part) (m : MoverId) : m ∈ p.ends m := by
  unfold Part.ends
  cases p.partner m with
  | none => simp
  | some q => by_cases h : q.val < m.val <;> simp [h]

/-- An entry taken and freed again leaves the claims. -/
theorem claims_freed_again {q p : Part} {e : EntryId} (hq : q.claims = p.claims) (h : p.claim e = Claim.free)
    (c : Claim) :
   { q.setClaim e c with claims := setAt (q.setClaim e c).claims e Claim.free } = q := by
  have : setAt (setAt q.claims e c) e Claim.free = q.claims := setClaim_back (p := q) (by unfold Part.claim at h ⊢; rw [hq]; exact h) c
  show { q.setClaim e c with claims := setAt (setAt q.claims e c) e Claim.free } = q
  rw [this]; rfl

/-- The record as the lane holds it when it is taken. -/
abbrev heldBy (link : Half) (head : OrderHead) (im : List Byte) : HeldRecord :=
    { link := link, standing := head.standing, bytes := im, clamped := false }

section
variable {n : Lane} {link : Half} {head : OrderHead} {k : OrderKind} {params : List Byte} {r : Result}
    {w : List Host.Cell} {q : Part} {c : LaneContext}

/-- With WAIT clear the record retires (R140). -/
theorem startedOrWaits_ends {held : HeldRecord} (hc : c.current = some held)
    (hb : held.bytes = orderImage head k params) (h : headWaits head = false) :
   startedOrWaits n r (midOrder n c w q) = (midOrder n c w q).emit [.orderEnds n r] := by
  unfold startedOrWaits
  rw [midOrder_currentBytes n _ _ _ _ hc, hb]
  have : (byteAt (orderImage head k params) 2).getLsbD 0 = headWaits head := imageWait_orderImage _ _ _
  rw [this, h]; rfl

/-- With WAIT set the lane waits (R140). -/
theorem startedOrWaits_waits {held : HeldRecord} (hc : c.current = some held)
    (hb : held.bytes = orderImage head k params) (h : headWaits head = true) :
   startedOrWaits n r (midOrder n c w q) = midOrder n { c with state := .waiting, waitKind := some .action } w q := by
  unfold startedOrWaits
  rw [midOrder_currentBytes n _ _ _ _ hc, hb]
  have : (byteAt (orderImage head k params) 2).getLsbD 0 = headWaits head := imageWait_orderImage _ _ _
  rw [this, h]
  simp [laneWaits, midOrder, Part.setLane, Part.lane]

end

/-- The last motion set stands. -/
theorem setMotion_setMotion (p : Part) (m : MoverId) (a b : Motion) : setMotion m a (setMotion m b p) =
    setMotion m a p := by
  have key : ∀ p : Part, (setMotion m a p).movers = (setMotion m a p).movers := fun _ => rfl
  rw [setMotion_eq (p := setMotion m b p), setMotion_eq m a (p := p)]
  have : (setMotion m a (setMotion m b p)).movers = (setMotion m a p).movers := by
    apply table_ext
    intro e
    have h1 := setMotion_mover (p := setMotion m b p) m a e
    have h2 := setMotion_mover (p := p) m a e
    have h3 := setMotion_mover (p := p) m b e
    rw [setMotion_ends, h3] at h1
    show (setMotion m a (setMotion m b p)).mover e = (setMotion m a p).mover e
    rw [h1, h2]
    split <;> rfl
  rw [this, setMotion_eq m b (p := p)]

/-- The motion just set. -/
theorem setMotion_motion_self (p : Part) (m : MoverId) (mo : Motion) : (setMotion m mo p).motion m = mo := by
  unfold Part.motion; rw [setMotion_mover, if_pos (self_mem_ends _ _)]

/-- `setMotion` leaves the measured positions. -/
theorem setMotion_position (p : Part) (m : MoverId) (mo : Motion) (e : MoverId):
    ((setMotion m mo p).mover e).position = (p.mover e).position := by
  rw [setMotion_mover]; split <;> rfl

/-- `setMotion` leaves the setpoints sent. -/
theorem setMotion_sent (p : Part) (m : MoverId) (mo : Motion) (e : MoverId): ((setMotion m mo p).mover e).sent =
    (p.mover e).sent := by
  rw [setMotion_mover]; split <;> rfl

/-- `setMotion` and `setClaim` commute. -/
theorem setMotion_setClaim (p : Part) (m : MoverId) (mo : Motion) (e : EntryId) (c : Claim) : setMotion m mo
    (p.setClaim e c) = (setMotion m mo p).setClaim e c := by
  have : ∀ (l : List MoverId) (p : Part), forEach l (fun e q => q.setMover e { q.mover e with motion := mo })
      (p.setClaim e c) = (forEach l (fun e q => q.setMover e { q.mover e with motion := mo }) p).setClaim e c := by
    intro l; induction l with
    | nil => intro p; rfl
    | cons a l ih => intro p; simp only [forEach_cons]; rw [← ih]; rfl
  exact this (p.ends m) p

/-- `setMotion` leaves the entries. -/
theorem setMotion_entryOfMover (p : Part) (m : MoverId) (mo : Motion) (m' : MoverId) :
    (setMotion m mo p).entryOfMover m' = p.entryOfMover m' := by
  rw [setMotion_eq]; rfl

/-- `setMotion` leaves the leading ends. -/
theorem setMotion_leader (p : Part) (m : MoverId) (mo : Motion) (m' : MoverId) : (setMotion m mo p).leader m' =
    p.leader m' := by
  rw [setMotion_eq]; rfl

/-- A mover entry is steady as the motion just set is. -/
theorem setMotion_steady (p : Part) (m : MoverId) (mo : Motion) : (setMotion m mo p).steady (p.entryOfMover m) =
    mo.state.steady := by
  rw [← setMotion_entryOfMover p m mo m, steady_entryOfMover, setMotion_leader, setMotion_mover, if_pos (leader_mem_ends _ _)]

/-- The result of a mover order inside `midOrder`. -/
theorem moverResult_midOrder {n : Lane} {c : LaneContext} {w : List Host.Cell} {q : Part} {held : HeldRecord}
    {head : OrderHead} {kind : OrderKind} {m : MoverId} {rest : List Byte} (hc : c.current = some held)
    (hb : held.bytes = orderImage head kind (BitVec.ofNat 8 m.val :: rest)) (code : ResultCode) (fl : Byte)
    (t : Option Nat) :
   moverResult n code fl t (midOrder n c w q) = { moverShown code m (q.mover m).position
       (t.getD (q.mover m).sent) with flags := fl } := by
  unfold moverResult
  rw [midOrder_currentBytes n _ _ _ _ hc, hb, paramMover_orderImage]
  rfl

/-- `setMotion` and `emit` commute. -/
theorem setMotion_emit (p : Part) (m : MoverId) (mo : Motion) (l : List Act) : setMotion m mo (p.emit l) =
    (setMotion m mo p).emit l := by
  have : ∀ (l' : List MoverId) (p : Part), forEach l' (fun e q => q.setMover e { q.mover e with motion := mo })
      (p.emit l) = (forEach l' (fun e q => q.setMover e { q.mover e with motion := mo }) p).emit l := by
    intro l'; induction l' with
    | nil => intro p; rfl
    | cons a l' ih => intro p; simp only [forEach_cons]; rw [← ih]; rfl
  exact this (p.ends m) p

/-- `mapEnds` and `emit` commute. -/
theorem mapEnds_emit (p : Part) (m : MoverId) (f : Mover → Mover) (l : List Act) : mapEnds m f (p.emit l) =
    (mapEnds m f p).emit l := by
  have : ∀ (l' : List MoverId) (p : Part), forEach l' (fun e q => q.setMover e (f (q.mover e))) (p.emit l) =
      (forEach l' (fun e q => q.setMover e (f (q.mover e))) p).emit l := by
    intro l'; induction l' with
    | nil => intro p; rfl
    | cons a l' ih => intro p; simp only [forEach_cons]; rw [← ih]; rfl
  exact this (p.ends m) p

/-- `mapEnds` and `setClaim` commute. -/
theorem mapEnds_setClaim (p : Part) (m : MoverId) (f : Mover → Mover) (e : EntryId) (c : Claim) : mapEnds m f
    (p.setClaim e c) = (mapEnds m f p).setClaim e c := by
  have : ∀ (l' : List MoverId) (p : Part), forEach l' (fun e q => q.setMover e (f (q.mover e))) (p.setClaim e c) =
      (forEach l' (fun e q => q.setMover e (f (q.mover e))) p).setClaim e c := by
    intro l'; induction l' with
    | nil => intro p; rfl
    | cons a l' ih => intro p; simp only [forEach_cons]; rw [← ih]; rfl
  exact this (p.ends m) p

/-- `mapEnds` with a change that keeps the motion leaves the motions. -/
theorem mapEnds_motion (p : Part) (m : MoverId) (f : Mover → Mover) (hf : ∀ x, (f x).motion = x.motion)
    (e : MoverId) : (mapEnds m f p).motion e = p.motion e := by
  have : ∀ (l' : List MoverId) (p : Part), (forEach l' (fun e q => q.setMover e (f (q.mover e))) p).motion e =
      p.motion e := by
    intro l'; induction l' with
    | nil => intro p; rfl
    | cons a l' ih => intro p; simp only [forEach_cons]; rw [ih]; unfold Part.motion; rw [Part.setMover_get]; split
                      · next h => subst h; exact hf _
                      · rfl
  exact this (p.ends m) p

/-- `mapEnds` leaves the entries. -/
theorem mapEnds_entryOfMover (p : Part) (m : MoverId) (f : Mover → Mover) (m' : MoverId) :
    (mapEnds m f p).entryOfMover m' = p.entryOfMover m' := by
  rw [mapEnds_eq]; rfl

/-- Two steady reports of one implicit claim free it once. -/
theorem settles_twice {n : Lane} {e : EntryId} {p : Part} (ha : p.agenda = []) (hs : p.steady e = true)
    (hc : p.claim e = implicitOf n)
    (hw : p.waiters = []) : ClaimSettles n [.steadyReport e, .steadyReport e] p (setAt p.claims e Claim.free) := by
  intro m b c w fs ov oc hb
  obtain ⟨q, hq⟩ : ∃ q : Part, q = { midOrder n c w p with forced := fs, openValues := ov, openCount := oc } := ⟨_, rfl⟩
  have hqa : q.agenda = [] := by rw [hq]; exact ha
  have hqc : q.claim e = implicitOf n := by rw [hq]; exact hc
  have hqs : q.steady e = true := by rw [hq]; exact hs
  have hqw : q.waiters = [] := by rw [hq]; exact hw
  obtain ⟨x, rfl⟩ : ∃ x, b = x + 1 + 1 + 1 + 1 := ⟨b - 4, by omega⟩
  have hp : perform m (.steadyReport e) q = steadyReport e q := rfl
  rw [← hq, drain_emit hqa (by simp), hp, steadyReport_releases hqc hqs]
  obtain ⟨r, hr⟩ : ∃ r, r = q.setClaim e Claim.free := ⟨_, rfl⟩
  have hra : r.agenda = [] := by rw [hr]; exact hqa
  rw [← hr, emit_emit]
  have h1 : performNext m (r.emit ([.arbitrate] ++ [.steadyReport e])) = r.emit [.steadyReport e, .arbitrate] := by
    simp [performNext, Part.emit, hra]
  rw [drain_next (by simp [Part.emit]), h1]
  have hp2 : perform m (.steadyReport e) r = r := by
    show steadyReport e r = r
    apply steadyReport_free; rw [hr]; simp [Claim.free]
  rw [drain_emit hra (by simp), hp2, drain_arbitrate (by simp [Part.emit, hra]) (by rw [hr]; exact hqw)]
  have : ({ r.emit [Act.arbitrate] with agenda := [] } : Part) = r := by simp [Part.emit, ← hra]
  rw [this, hr, hq]; rfl

/-- `setMotion` passes through the taking of a record. -/
theorem takenPart_setMotion {n : Lane} {link : Half} {st : Bool} {im : List Byte} {p : Part} (m : MoverId)
    (mo : Motion) : setMotion m mo (takenPart n link st im p) = takenPart n link st im (setMotion m mo p) := by
  have : ∀ (l : List MoverId) (p : Part), forEach l (fun e q => q.setMover e { q.mover e with motion := mo })
      (takenPart n link st im p) = takenPart n link st im
      (forEach l (fun e q => q.setMover e { q.mover e with motion := mo }) p) := by
    intro l; induction l with
    | nil => intro p; rfl
    | cons a l ih => intro p; simp only [forEach_cons]; rw [← ih]; simp
  unfold setMotion
  rw [takenPart_ends]; exact this (p.ends m) p

/-- `mapEnds` passes through the taking of a record. -/
theorem takenPart_mapEnds {n : Lane} {link : Half} {st : Bool} {im : List Byte} {p : Part} (m : MoverId)
    (f : Mover → Mover) : mapEnds m f (takenPart n link st im p) = takenPart n link st im (mapEnds m f p) := by
  have : ∀ (l : List MoverId) (p : Part), forEach l (fun e q => q.setMover e (f (q.mover e)))
      (takenPart n link st im p) = takenPart n link st im (forEach l (fun e q => q.setMover e (f (q.mover e))) p) :=
      by
    intro l; induction l with
    | nil => intro p; rfl
    | cons a l ih => intro p; simp only [forEach_cons]; rw [← ih]; simp
  unfold mapEnds
  rw [takenPart_ends]; exact this (p.ends m) p

/-- The result of a mover order inside the taking of its record. -/
theorem moverResult_takenPart {n : Lane} {link : Half} {head : OrderHead} {kind : OrderKind} {m : MoverId}
    {q : Part} (code : ResultCode) (fl : Byte) (t : Option Nat) :
   moverResult n code fl t (takenPart n link head.standing (orderImage head kind [BitVec.ofNat 8 m.val]) q) =
       { moverShown code m (q.mover m).position (t.getD (q.mover m).sent) with flags := fl } := by
  unfold moverResult
  rw [takenPart_currentBytes, paramMover_orderImage]
  dsimp only
  rw [takenPart_mover]
  rfl

/-- An end after `mapEnds`, where the change done twice is the change done once. -/
theorem mapEnds_mover (p : Part) (m : MoverId) (f : Mover → Mover) (e : MoverId) (hf : ∀ x, f (f x) = f x) :
    (mapEnds m f p).mover e = if e ∈ p.ends m then f (p.mover e) else p.mover e := by
  unfold mapEnds
  have key : ∀ (l : List MoverId) (q : Part),
      (forEach l (fun e q => q.setMover e (f (q.mover e))) q).mover e =
        if e ∈ l then f (q.mover e) else q.mover e := by
    intro l
    induction l with
    | nil => intro q; simp
    | cons x rest ih =>
      intro q
      rw [forEach_cons, ih, Part.setMover_get]
      by_cases h : x = e
      · subst h
        by_cases hr : x ∈ rest <;> simp [hr, hf]
      · have : e ≠ x := fun y => h y.symm
        simp [h, this]
  exact key _ _

section
variable (head : OrderHead) (m : MoverId) (mode share : Byte) (value : Word)

/-- The image of a MOVE. -/
abbrev moveImage := orderImage head .move (moveParams (BitVec.ofNat 8 m.val) mode share value)

/-- The mover of a MOVE image. -/
theorem moveImage_mover : paramMover (moveImage head m mode share value) = m := paramMover_orderImage _ _ _ _

/-- A parameter byte of a MOVE image. -/
theorem moveImage_byte (i : Nat) (hi : i < 8) : byteAt (moveImage head m mode share value) (12 + i) = byteAt
    (moveParams (BitVec.ofNat 8 m.val) mode share value) i :=
  byteAt_params head .move (params := moveParams (BitVec.ofNat 8 m.val) mode share value) (by simp [moveParams, wordBytes]) (by simpa [moveParams, wordBytes] using hi)

/-- The mode of a MOVE image. -/
theorem moveImage_mode : moveMode (moveImage head m mode share value) = mode.toNat := by
  unfold moveMode; rw [show 13 = 12 + 1 from rfl, moveImage_byte _ _ _ _ _ _ (by omega)]; rfl

/-- The share of a MOVE image; 0 is taken as 100 (R29). -/
theorem moveImage_share : moveShare (moveImage head m mode share value) = if share = 0 then 100 else share.toNat := by
  unfold moveShare; rw [show 14 = 12 + 2 from rfl, moveImage_byte _ _ _ _ _ _ (by omega)]
  have : byteAt (moveParams (BitVec.ofNat 8 m.val) mode share value) 2 = share := rfl
  rw [this]
  by_cases h : share = 0
  · subst h; rfl
  · have : share.toNat ≠ 0 := fun e => h (BitVec.eq_of_toNat_eq (by simpa using e))
    rw [if_neg h, if_neg this]

/-- The value of a MOVE image. -/
theorem moveImage_value : moveValue (moveImage head m mode share value) = value.toInt := by
  unfold moveValue
  congr 1
  have e : ∀ i, i < 4 → byteAt (moveImage head m mode share value) (16 + i) = byteAt (wordBytes value ++ []) i := by
    intro i hi
    rw [show 16 + i = 12 + (4 + i) by omega, moveImage_byte _ _ _ _ _ _ (by omega)]
    rw [List.append_nil]
    show byteAt ([_, _, _, _] ++ wordBytes value) (4 + i) = _
    unfold byteAt
    rw [List.getD_append_right _ _ _ _ (by simp)]
    simp
  refine Eq.trans ?_ (wordAt_wordBytes value [])
  unfold wordAt halfAt
  have e0 : byteAt (moveImage head m mode share value) 16 = _ := e 0 (by omega)
  have e1 : byteAt (moveImage head m mode share value) (16 + 1) = _ := e 1 (by omega)
  have e2 : byteAt (moveImage head m mode share value) (16 + 2) = _ := e 2 (by omega)
  have e3 : byteAt (moveImage head m mode share value) (16 + 2 + 1) = _ := e 3 (by omega)
  rw [e0, e1, e2, e3]

/-- The parameters of a fitting MOVE are in range (R29). -/
theorem moveImage_paramChecks (p : Part) (h : moveFits mode share value) : ∀ c ∈ p.paramChecks
    (moveImage head m mode share value) .move, c.2 = true := by
  intro c hc
  have h2 := moveImage_mode head m mode share value
  have h3 := moveImage_value head m mode share value
  obtain ⟨hs, hm⟩ := h
  have hb0 : byteAt (moveImage head m mode share value) 12 = BitVec.ofNat 8 m.val := moveImage_byte head m mode share value 0 (by omega)
  have hb2 : byteAt (moveImage head m mode share value) 14 = share := moveImage_byte head m mode share value 2 (by omega)
  have hb3 : byteAt (moveImage head m mode share value) 15 = 0 := moveImage_byte head m mode share value 3 (by omega)
  unfold Part.paramChecks at hc
  simp only [List.mem_cons, List.not_mem_nil, or_false] at hc
  rcases hc with rfl | rfl | rfl | rfl | rfl | rfl
  · apply decide_eq_true
    show (byteAt _ 12).toNat < 8
    rw [hb0, toNat_ofNat8 m.isLt (by omega)]; exact m.isLt
  · apply decide_eq_true
    rw [h2]
    rcases hm with ⟨rfl, _⟩ | ⟨rfl, _⟩ | ⟨rfl, _⟩ <;> decide
  · apply decide_eq_true; rw [hb2]; exact hs
  · apply zeros_true; intro j hj
    have : j = 0 := by omega
    subst this; exact hb3
  · show moveValueOk _ = true
    unfold moveValueOk
    rw [h2, h3]
    rcases hm with ⟨rfl, h⟩ | ⟨rfl, h⟩ | ⟨rfl, h⟩ <;> exact decide_eq_true h
  · have : restZero (moveImage head m mode share value) 20 = (20, true) := restZero_orderImage _ _ (by simp [moveParams, wordBytes]) (by omega)
    rw [this]

end

/-- The verdict of a MOVE does not depend on the order in hand. -/
theorem judgeMove_midOrder (p : Part) (n : Lane) (c : LaneContext) (w : List Host.Cell) (e : EntryId) (cl : Claim)
    (m : MoverId) (mode : Nat) (v : Int) :
   (midOrder n c w (p.setClaim e cl)).judgeMove m mode v = p.judgeMove m mode v := rfl

/-- With no door in WAIT_CLEAR a mover report changes nothing (R64). -/
theorem moversClear_noWaitClear {p : Part} (k : ZoneId) (h : ∀ d, (p.door d).state ≠ .waitClear) : moversClear k p =
    p := by
  unfold moversClear
  refine forEach_id _ ?_
  intro d _
  rw [if_neg]; intro hh; exact h d hh.1

/-- Marking the order as clamped inside `midOrder`. -/
theorem markClamped_midOrder (n : Lane) (c : LaneContext) (w : List Host.Cell) (p : Part) :
   markClamped n (midOrder n c w p) =
     midOrder n { c with current := c.current.map (fun r => { r with clamped := true }) } w p := by
  simp [markClamped, midOrder, Part.setLane, Part.lane]

end Sys2Proof.Machine
end

