-- ==== Sys2Proof/Laws/Doors.lean ====
section
/-! SUPPORT. Door orders: WARN demands and door records pass through one another; an order that ends at once or starts a sequence. -/

namespace Sys2Proof.Machine

/-- A loop commutes with what each of its operations commutes with. -/
theorem forEach_commutes {α : Type} {f : α → Part → Part} {g : Part → Part} (hf : ∀ x q, f x (g q) = g (f x q)) :
   ∀ (l : List α) (q : Part), forEach l f (g q) = g (forEach l f q) := by
  intro l; induction l with
  | nil => intro q; rfl
  | cons a l ih => intro q; simp only [forEach_cons]; rw [hf, ih]

/-- One zone of `syncWarn` (R63). -/
def syncZoneWarn (k : ZoneId) (q : Part) : Part := if q.warnWanted k then postWarn (zoneLine k) q else withdrawWarn
    (zoneLine k) q

/-- `postWarn` passes through `midOrder`. -/
theorem postWarn_midOrder (n : Lane) (c : LaneContext) (w : List Host.Cell) (k : LineId) (p : Part) : postWarn k
    (midOrder n c w p) = midOrder n c w (postWarn k p) := by
  unfold postWarn
  have : (midOrder n c w p).line k = p.line k := rfl
  rw [this]; dsimp only
  split
  · rfl
  · split <;> rfl

/-- `withdrawWarn` passes through `midOrder`. -/
theorem withdrawWarn_midOrder (n : Lane) (c : LaneContext) (w : List Host.Cell) (k : LineId) (p : Part) :
    withdrawWarn k (midOrder n c w p) = midOrder n c w (withdrawWarn k p) := by
  unfold withdrawWarn
  have : (midOrder n c w p).line k = p.line k := rfl
  rw [this]; dsimp only
  split
  · split <;> rfl
  · rfl

/-- `syncZoneWarn` passes through `midOrder`. -/
theorem syncZoneWarn_midOrder (n : Lane) (c : LaneContext) (w : List Host.Cell) (k : ZoneId) (p : Part) :
    syncZoneWarn k (midOrder n c w p) = midOrder n c w (syncZoneWarn k p) := by
  unfold syncZoneWarn
  have : (midOrder n c w p).warnWanted k = p.warnWanted k := rfl
  rw [this, postWarn_midOrder, withdrawWarn_midOrder]; split <;> rfl

/-- `syncWarn` passes through `midOrder`. -/
theorem syncWarn_midOrder (n : Lane) (c : LaneContext) (w : List Host.Cell) (d : DoorId) (p : Part) : syncWarn d
    (midOrder n c w p) = midOrder n c w (syncWarn d p) := by
  exact forEach_commutes (g := midOrder n c w) (f := syncZoneWarn) (fun k q => syncZoneWarn_midOrder n c w k q) (p.doorZones d) p

/-- `postWarn` and `setClaim` commute. -/
theorem postWarn_setClaim (e : EntryId) (c : Claim) (k : LineId) (p : Part) : postWarn k (p.setClaim e c) =
    (postWarn k p).setClaim e c := by
  unfold postWarn
  have : (p.setClaim e c).line k = p.line k := rfl
  rw [this]; dsimp only
  split
  · rfl
  · split <;> rfl

/-- `withdrawWarn` and `setClaim` commute. -/
theorem withdrawWarn_setClaim (e : EntryId) (c : Claim) (k : LineId) (p : Part) : withdrawWarn k (p.setClaim e c) =
    (withdrawWarn k p).setClaim e c := by
  unfold withdrawWarn
  have : (p.setClaim e c).line k = p.line k := rfl
  rw [this]; dsimp only
  split
  · split <;> rfl
  · rfl

/-- `syncZoneWarn` and `setClaim` commute. -/
theorem syncZoneWarn_setClaim (e : EntryId) (c : Claim) (k : ZoneId) (p : Part) : syncZoneWarn k (p.setClaim e c) =
    (syncZoneWarn k p).setClaim e c := by
  unfold syncZoneWarn
  have : (p.setClaim e c).warnWanted k = p.warnWanted k := rfl
  rw [this, postWarn_setClaim, withdrawWarn_setClaim]; split <;> rfl

/-- `syncWarn` and `setClaim` commute. -/
theorem syncWarn_setClaim (e : EntryId) (c : Claim) (d : DoorId) (p : Part) : syncWarn d (p.setClaim e c) =
    (syncWarn d p).setClaim e c :=
  forEach_commutes (g := fun q => q.setClaim e c) (f := syncZoneWarn) (fun k q => syncZoneWarn_setClaim e c k q)
      (p.doorZones d) p

/-- `postWarn` and `setDoor` commute. -/
theorem postWarn_setDoor (e : DoorId) (c : Door) (k : LineId) (p : Part) : postWarn k (p.setDoor e c) =
    (postWarn k p).setDoor e c := by
  unfold postWarn
  have : (p.setDoor e c).line k = p.line k := rfl
  rw [this]; dsimp only
  split
  · rfl
  · split <;> rfl

/-- `withdrawWarn` and `setDoor` commute. -/
theorem withdrawWarn_setDoor (e : DoorId) (c : Door) (k : LineId) (p : Part) : withdrawWarn k (p.setDoor e c) =
    (withdrawWarn k p).setDoor e c := by
  unfold withdrawWarn
  have : (p.setDoor e c).line k = p.line k := rfl
  rw [this]; dsimp only
  split
  · split <;> rfl
  · rfl

/-- `syncZoneWarn` leaves the doors. -/
theorem syncZoneWarn_doors (k : ZoneId) (p : Part) : (syncZoneWarn k p).doors = p.doors := by
  unfold syncZoneWarn
  split
  · rw [postWarn_eq]
  · rw [withdrawWarn_eq]

/-- `syncZoneWarn` and a `setDoor` that keeps the state commute. -/
theorem syncZoneWarn_setDoor (d : DoorId) (c : Door) (k : ZoneId) (p : Part) (h : (p.door d).state = c.state) :
    syncZoneWarn k (p.setDoor d c) = (syncZoneWarn k p).setDoor d c := by
  unfold syncZoneWarn
  have : (p.setDoor d c).warnWanted k = p.warnWanted k := by
    unfold Part.warnWanted
    have h1 : (p.setDoor d c).zoneDoors k = p.zoneDoors k := rfl
    rw [h1]; congr 1; funext d'
    rw [Part.setDoor_get]; split
    · next e => subst e; rw [h]
    · rfl
  rw [this, postWarn_setDoor, withdrawWarn_setDoor]; split <;> rfl

/-- `syncWarn` and a `setDoor` that keeps the state commute. -/
theorem syncWarn_setDoor (d d' : DoorId) (c : Door) (p : Part) (h : (p.door d').state = c.state) : syncWarn d
    (p.setDoor d' c) = (syncWarn d p).setDoor d' c := by
  have : ∀ (l : List ZoneId) (p : Part), (p.door d').state = c.state → forEach l syncZoneWarn (p.setDoor d' c) =
      (forEach l syncZoneWarn p).setDoor d' c := by
    intro l; induction l with
    | nil => intro p _; rfl
    | cons a l ih =>
      intro p h; simp only [forEach_cons]; rw [syncZoneWarn_setDoor _ _ _ _ h, ih]
      unfold Part.door at h ⊢; rw [syncZoneWarn_doors]; exact h
  exact this (p.doorZones d) p h

/-- `syncWarn` leaves the doors. -/
theorem syncWarn_door (d d' : DoorId) (p : Part) : (syncWarn d p).door d' = p.door d' := by rw [syncWarn_eq]; rfl

/-- A door entry is steady as its door is (R59). -/
theorem steady_doorEntry (p : Part) (d : DoorId) : p.steady (doorEntry d) = (p.door d).state.steady := by
  unfold Part.steady doorEntry actuatorOf
  simp

/-- The door index that an order image names. -/
theorem paramDoor_orderImage (head : OrderHead) (kind : OrderKind) (m : DoorId) (rest : List Byte) : paramDoor
    (orderImage head kind (BitVec.ofNat 8 m.val :: rest)) = m := by
  apply Fin.ext
  show (BitVec.ofNat 8 m.val).toNat % 24 = m.val
  rw [toNat_ofNat8 m.isLt (by omega), Nat.mod_eq_of_lt m.isLt]

/-- The parameters of an order of one door index are in range (R71). -/
theorem doorOrder_paramChecks (p : Part) (head : OrderHead) {kind : OrderKind}
    (hk : kind = .closeDoor ∨ kind = .openDoor ∨ kind = .forceClose ∨ kind = .clearDoorFault) (m : DoorId) :
   ∀ c ∈ p.paramChecks (orderImage head kind [BitVec.ofNat 8 m.val]) kind, c.2 = true := by
  have e : p.paramChecks (orderImage head kind [BitVec.ofNat 8 m.val]) kind =
      [(12, decide (paramIndex (orderImage head kind [BitVec.ofNat 8 m.val]) < 24)), restZero
      (orderImage head kind [BitVec.ofNat 8 m.val]) 13] := by
    rcases hk with rfl | rfl | rfl | rfl <;> rfl
  rw [e]
  intro c hc
  simp only [List.mem_cons, List.not_mem_nil, or_false] at hc
  rcases hc with rfl | rfl
  · apply decide_eq_true
    show (BitVec.ofNat 8 m.val).toNat < 24
    rw [toNat_ofNat8 m.isLt (by omega)]; exact m.isLt
  · rw [restZero_orderImage _ _ (by simp) (by omega)]

/-- The result of a door order inside `midOrder`. -/
theorem doorResult_midOrder {n : Lane} {c : LaneContext} {w : List Host.Cell} {q : Part} {held : HeldRecord}
    {head : OrderHead} {kind : OrderKind} {m : DoorId} {rest : List Byte} (hc : c.current = some held)
    (hb : held.bytes = orderImage head kind (BitVec.ofNat 8 m.val :: rest)) (code : ResultCode) :
   doorResult n code (midOrder n c w q) = doorShown code m (q.door m).state (q.door m).retries := by
  unfold doorResult
  rw [midOrder_currentBytes n _ _ _ _ hc, hb, paramDoor_orderImage]
  rfl

/-- A door order that ends at once and leaves the door steady. -/
theorem doorOrder_endsAtOnce {s : State} {n : Lane} {link : Half} {head : OrderHead} {d : DoorId} {kind : OrderKind}
    (ht : s.TakesOrder n link head)
    (hp : s.part.plan.isSome = true) (hf : s.part.ClaimFree n (doorEntry d))
        (hk : kind = .closeDoor ∨ kind = .openDoor ∨ kind = .forceClose)
    (hb : kind = .forceClose → (s.part.lane n).bridge = true) (code : ResultCode)
    (hB : ∀ mm c w, c.current = some (heldBy link head (orderImage head kind [BitVec.ofNat 8 d.val])) → c.bridge =
        (s.part.lane n).bridge →
        blockOrder n mm (midOrder n c w (s.part.setClaim (doorEntry d) (implicitOf n))) =
            (midOrder n c w (s.part.setClaim (doorEntry d) (implicitOf n))).emit [.orderEnds n
            (doorShown code d (s.part.door d).state (s.part.door d).retries)])
    (hs : (s.part.door d).state.steady = true) (ha : code.failure = true → head.alternate ≠ 0) :
    s.OrderEnds (runOrder n (orderImage head kind [BitVec.ofNat 8 d.val]) s) n link head
        (doorShown code d (s.part.door d).state (s.part.door d).retries) s.part := by
  have hdc := doorOrder_paramChecks s.part head (kind := kind) (by rcases hk with h | h | h <;> simp [h]) d
  have hsettle := settles_steady (n := n) (e := doorEntry d) (p := s.part.setClaim (doorEntry d) (implicitOf n)) (by exact ht.takes.quiet.agenda) (by exact (steady_doorEntry s.part d).trans hs) (by simp) hf.waiters
  have := claim_ends (e := doorEntry d) (k := kind) (params := [BitVec.ofNat 8 d.val]) (p := s.part.setClaim (doorEntry d) (implicitOf n)) (rest := []) (r := doorShown code d (s.part.door d).state (s.part.door d).retries) (held := heldBy link head (orderImage head kind [BitVec.ofNat 8 d.val])) (c := (s.part.lane n).holding (heldBy link head (orderImage head kind [BitVec.ofNat 8 d.val]))) (claims := setAt (s.part.setClaim (doorEntry d) (implicitOf n)).claims (doorEntry d) Claim.free) ht (by simp) hdc (Or.inl hp) (by intro h; rcases hk with rfl | rfl | rfl <;> first | exact hb rfl | cases h) (by rcases hk with rfl | rfl | rfl <;> simp [Part.claimEntry, imageKind_orderImage, paramDoor_orderImage]) hf.isOpen (fun mm => hB mm _ _ rfl rfl) rfl rfl rfl rfl (by intro l; rfl) hsettle ha rfl ht.takes.quiet.agenda rfl rfl
  rw [claims_freed_again rfl hf.free] at this
  exact this

/-- A door order that starts a sequence and keeps its claim. -/
theorem doorOrder_starts {s : State} {n : Lane} {link : Half} {head : OrderHead} {d : DoorId} {kind : OrderKind}
    {q0 : Part} {x : Door} (ht : s.TakesOrder n link head)
    (hp : s.part.plan.isSome = true) (hf : s.part.ClaimOpen n (doorEntry d))
        (hk : kind = .closeDoor ∨ kind = .openDoor ∨ kind = .forceClose)
    (hb : kind = .forceClose → (s.part.lane n).bridge = true)
    (hx : x.waiting = if headWaits head then some n else none)
    (hB : ∀ mm c w, c.current = some (heldBy link head (orderImage head kind [BitVec.ofNat 8 d.val])) → c.bridge =
        (s.part.lane n).bridge →
        blockOrder n mm (midOrder n c w (s.part.setClaim (doorEntry d) (implicitOf n))) = doorStartedOrWaits d n
            (midOrder n c w ((syncWarn d (s.part.setDoor d { x with waiting := none })).setClaim (doorEntry d)
            (implicitOf n))))
    (hs : x.state.steady = false) (hq : q0 = (syncWarn d (s.part.setDoor d x)).setClaim (doorEntry d)
        (implicitOf n)) :
    (headWaits head = false → s.OrderEnds (runOrder n (orderImage head kind [BitVec.ofNat 8 d.val]) s) n link head
        (doorShown .started d x.state x.retries) q0) ∧
    (headWaits head = true → s.OrderWaits (runOrder n (orderImage head kind [BitVec.ofNat 8 d.val]) s) n link head
        (orderImage head kind [BitVec.ofNat 8 d.val]) .action q0) := by
  obtain ⟨im, him⟩ : ∃ im, im = orderImage head kind [BitVec.ofNat 8 d.val] := ⟨_, rfl⟩
  have hdc := doorOrder_paramChecks s.part head (kind := kind) (by rcases hk with h | h | h <;> simp [h]) d
  obtain ⟨w, hwd⟩ : ∃ w, w = takenCells link head.standing s.part.now := ⟨_, rfl⟩
  obtain ⟨c, hcd⟩ : ∃ c, c = (s.part.lane n).holding (heldBy link head im) := ⟨_, rfl⟩
  have hcc : c.current = some (heldBy link head im) := by rw [hcd]; rfl
  have hqd : q0.door d = x := by rw [hq]; show (syncWarn d (s.part.setDoor d x)).door d = x; rw [syncWarn_door, Part.setDoor_get, if_pos rfl]
  have hqa : q0.agenda = [] := by rw [hq, syncWarn_eq]; exact ht.takes.quiet.agenda
  have hql : q0.lanes = s.part.lanes := by rw [hq, syncWarn_eq]; rfl
  have hqg : q0.generation = s.part.generation := by rw [hq, syncWarn_eq]; rfl
  have hqp : q0.port.partState = s.part.port.partState := by rw [hq, syncWarn_eq]; rfl
  have hset := settles_unsteady (n := n) (rest := []) (p := q0) (e := doorEntry d) hqa (by rw [steady_doorEntry, hqd]; exact hs) (by simp) (by simp)
  have hB2 : ∀ mm, blockOrder n mm (midOrder n c w (s.part.setClaim (doorEntry d) (implicitOf n))) =
      startedOrWaits n (doorShown .started d x.state x.retries) (midOrder n c w q0) := by
    intro mm
    rw [hB mm c w (by rw [hcc, him]) (by rw [hcd]; rfl)]
    unfold doorStartedOrWaits
    rw [midOrder_currentBytes n _ _ _ _ hcc, doorResult_midOrder hcc him]
    have h3 : imageWait (heldBy link head im).bytes = headWaits head := by show imageWait im = _; rw [him]; exact imageWait_orderImage _ _ _
    have hd0 : ((syncWarn d (s.part.setDoor d { x with waiting := none })).setClaim (doorEntry d)
        (implicitOf n)).door d = { x with waiting := none } := by
      show (syncWarn d (s.part.setDoor d { x with waiting := none })).door d = _; rw [syncWarn_door, Part.setDoor_get, if_pos rfl]
    rw [h3, hd0]
    congr 1
    cases hw : headWaits head with
    | false =>
      rw [hw] at hx
      rw [whenTrue_false, hq]
      have : { x with waiting := none } = x := by rw [show (none : Option Lane) = x.waiting from hx.symm]
      rw [this]
    | true =>
      rw [whenTrue_true]
      unfold doorWaits
      have : (midOrder n c w ((syncWarn d (s.part.setDoor d { x with waiting := none })).setClaim (doorEntry d)
          (implicitOf n))).door d = { x with waiting := none } := hd0
      dsimp only
      rw [this]
      dsimp only
      rw [emit_nil]
      have hxx : { { x with waiting := none } with waiting := some n } = x := by
        rw [hw] at hx
        have : some n = x.waiting := hx.symm
        rw [this]
      show (midOrder n c w ((syncWarn d (s.part.setDoor d { x with waiting := none })).setClaim (doorEntry d) (implicitOf n))).setDoor d { { x with waiting := none } with waiting := some n } = _
      rw [hxx, hq]
      have : (syncWarn d (s.part.setDoor d x)) = (syncWarn d
          (s.part.setDoor d { x with waiting := none })).setDoor d x := by
        rw [← syncWarn_setDoor _ _ _ _ (by rw [Part.setDoor_get, if_pos rfl])]
        simp
      rw [this]; rfl
  refine ⟨?_, ?_⟩
  · intro hwf
    exact claim_ends (e := doorEntry d) (k := kind) (params := [BitVec.ofNat 8 d.val]) (p := q0) (rest := []) (c := c) (held := heldBy link head im) (claims := q0.claims) ht (by simp) hdc (Or.inl hp) (by intro h; rcases hk with rfl | rfl | rfl <;> first | exact hb rfl | cases h) (by rcases hk with rfl | rfl | rfl <;> simp [Part.claimEntry, imageKind_orderImage, paramDoor_orderImage]) hf (by rw [← him, ← hcd, ← hwd]; intro mm; rw [hB2, startedOrWaits_ends hcc him hwf]) hcc rfl rfl him (by intro l; rw [hcd]; rfl) hset (by intro h; simp [doorShown, Result.of] at h) hql hqa hqg hqp
  · intro hwt
    exact claim_waits (e := doorEntry d) (k := kind) (params := [BitVec.ofNat 8 d.val]) (p := q0) (rest := []) (claims := q0.claims) ht (by simp) hdc (Or.inl hp) (by intro h; rcases hk with rfl | rfl | rfl <;> first | exact hb rfl | cases h) (by rcases hk with rfl | rfl | rfl <;> simp [Part.claimEntry, imageKind_orderImage, paramDoor_orderImage]) hf (by rw [← him, ← hcd, ← hwd]; intro mm; rw [hB2, startedOrWaits_waits hcc him hwt, emit_nil, hcd]; rfl) (by simp) hset hql hqa hqg hqp

/-- The lead of R62 as a case split. -/
theorem chosenLead_eq (p : Part) (d : DoorId) (x : Door) :
   p.chosenLead d x =
     if x.forced = true ∨ (x.zoneOrigin = true ∧ ∃ k ∈ p.doorZones d, (p.zone k).level = .fire) then
       (p.planDoor d).fireLead
     else (p.planDoor d).lead := by
  unfold Part.chosenLead Part.fireLeadApplies
  simp

/-- A standing door enters WARNING (R62). -/
theorem enterWarning_atRest {d : DoorId} {x y : Door} {p : Part}
    (hs : (p.door d).state = .opened ∨ (p.door d).state = .halted) (_hw : (p.door d).waiting = none)
    (hy : y =
      { x with state := .warning, leadCounter := 0, motionTimer := none, retryTimer := none, lead := p.chosenLead d x })
    (hl : y.lead ≠ 0) :
   enterWarning d x none p = syncWarn d (p.setDoor d y) := by
  unfold enterWarning doorTo
  rw [← hy]
  dsimp only
  have hyd : { y with laneOrigin := y.laneOrigin && !y.state.dropsLane, zoneOrigin := y.zoneOrigin &&
      (y.state != .closed), waiting := if (none : Option ResultCode).isSome then none else y.waiting } = y := by
    rw [hy]; simp [DoorState.dropsLane]
  rw [hyd]
  have hst : y.state = .warning := by rw [hy]
  have hrep : doorReports d (p.door d).state y.state = [] := by
    rw [hst]; rcases hs with h | h <;> rw [h] <;> rfl
  rw [hrep]
  have : leadReached (((syncWarn d (p.setDoor d y)).emit ([] ++ [])).door d) = false := by
    have : ((syncWarn d (p.setDoor d y)).emit ([] ++ [])).door d = y := by
      rw [List.append_nil, emit_nil, syncWarn_door, Part.setDoor_get, if_pos rfl]
    rw [this]; unfold leadReached
    rw [hst, hy]
    have : ¬ ((p.chosenLead d x) ≤ 0) := by rw [hy] at hl; simpa using hl
    simp; omega
  rw [this]
  simp [emit_nil]

/-- `setDoor` passes through `midOrder` and a claim. -/
theorem midOrder_setDoor (n : Lane) (c : LaneContext) (w : List Host.Cell) (e : EntryId) (cl : Claim) (d : DoorId)
    (x : Door) (p : Part) :
  (midOrder n c w (p.setClaim e cl)).setDoor d x = midOrder n c w ((p.setDoor d x).setClaim e cl) := rfl

end Sys2Proof.Machine
end

