-- ==== Sys2Proof/Laws/Calls.lean ====
section
/-! SUPPORT. The parameters of CALL. -/

namespace Sys2Proof.Machine

section
variable {n : Lane} {link : Half} {head : OrderHead} {priority message : Byte} {lines : Half}
    {repeats policy chime : Byte} {pr : Priority}

/-- The image of a CALL. -/
abbrev callImage (head : OrderHead) (priority message : Byte) (lines : Half) (repeats policy chime : Byte) :=
    orderImage head .call (callParams priority message lines repeats policy chime)

/-- A parameter byte of a CALL image. -/
theorem callImage_byte (i : Nat) (hi : i < 7) : byteAt (callImage head priority message lines repeats policy chime)
    (12 + i) = byteAt (callParams priority message lines repeats policy chime) i :=
  byteAt_params head .call (params := callParams priority message lines repeats policy chime) (by simp [callParams, halfBytes]) (by simpa [callParams, halfBytes] using hi)

/-- The priority of a CALL image. -/
theorem callImage_priority (hf : callFits priority message lines repeats policy chime pr) : callPriority
    (callImage head priority message lines repeats policy chime) = pr := by
  have h0 : byteAt (callImage head priority message lines repeats policy chime) 12 = priority := callImage_byte 0 (by omega)
  unfold callPriority; rw [h0]
  obtain ⟨h, _⟩ := hf
  cases pr
  · have : priority = 0 := BitVec.eq_of_toNat_eq h
    simp [this]
  · have : priority = 1 := BitVec.eq_of_toNat_eq h
    simp [this]
  · have : priority = 2 := BitVec.eq_of_toNat_eq h
    simp [this]

/-- The message of a CALL image. -/
theorem callImage_message : callMessage (callImage head priority message lines repeats policy chime) = message :=
    callImage_byte 1 (by omega)

/-- The line set of a CALL image. -/
theorem callImage_lines : callLines (callImage head priority message lines repeats policy chime) = lines := by
  refine Eq.trans ?_ (halfAt_halfBytes lines [])
  unfold callLines halfAt
  have h0 : byteAt (callImage head priority message lines repeats policy chime) 14 = byteAt (halfBytes lines ++ []) 0 := callImage_byte 2 (by omega)
  have h1 : byteAt (callImage head priority message lines repeats policy chime) (14 + 1) = byteAt (halfBytes lines ++ []) (0 + 1) := callImage_byte 3 (by omega)
  rw [h0, h1]

/-- The repeats of a CALL image. -/
theorem callImage_repeats : callRepeats (callImage head priority message lines repeats policy chime) =
    repeats.toNat := by
  have : byteAt (callImage head priority message lines repeats policy chime) 16 = repeats := callImage_byte 4 (by omega)
  unfold callRepeats; rw [this]

/-- The resume policy of a CALL image. -/
theorem callImage_continues : callContinues (callImage head priority message lines repeats policy chime) = decide
    (policy = 1) := by
  have : byteAt (callImage head priority message lines repeats policy chime) 17 = policy := callImage_byte 5 (by omega)
  unfold callContinues; rw [this]; rfl

/-- The chime pattern of a CALL image. -/
theorem callImage_chime : callChime (callImage head priority message lines repeats policy chime) = chime.toNat := by
  have : byteAt (callImage head priority message lines repeats policy chime) 18 = chime := callImage_byte 6 (by omega)
  unfold callChime; rw [this]

/-- The parameters of a fitting CALL are in range (R85). -/
theorem callImage_paramChecks (p : Part) (hf : callFits priority message lines repeats policy chime pr) :
    ∀ c ∈ p.paramChecks (callImage head priority message lines repeats policy chime) .call, c.2 = true := by
  intro c hc
  obtain ⟨h1, h2, h3, h4, h5, h6, h7⟩ := hf
  unfold Part.paramChecks at hc
  simp only [List.mem_cons, List.not_mem_nil, or_false] at hc
  rcases hc with rfl | rfl | rfl | rfl | rfl | rfl | rfl
  · apply decide_eq_true
    have h0 : byteAt (callImage head priority message lines repeats policy chime) 12 = priority := callImage_byte 0 (by omega)
    rw [h0, h1]; cases pr <;> decide
  · show (callMessage _ != 0) = true; rw [callImage_message]; simpa using h2
  · show (callLines _ != 0) = true; rw [callImage_lines]; simpa using h3
  · apply decide_eq_true; rw [callImage_repeats]; exact ⟨h4, h5⟩
  · apply decide_eq_true
    have h0 : byteAt (callImage head priority message lines repeats policy chime) 17 = policy := callImage_byte 5 (by omega)
    rw [h0]; exact h6
  · apply decide_eq_true; rw [callImage_chime]; exact h7
  · have : restZero (callImage head priority message lines repeats policy chime) 19 = (19, true) := restZero_orderImage _ _ (by simp [callParams, halfBytes]) (by omega)
    rw [this]

end

end Sys2Proof.Machine
end

