-- ==== Sys2Proof/Laws/Groups.lean ====
section
/-! SUPPORT. Claim sets, group claims and halts. -/

namespace Sys2Proof.Machine

/-- The bits of an entry bit. -/
theorem entryBit_getLsbD (e : EntryId) (i : Nat) (hi : i < 32) : (entryBit e).getLsbD i = decide (e.val = i) := by
  unfold entryBit
  rw [BitVec.getLsbD_shiftLeft]
  have he := e.isLt
  by_cases h : e.val = i
  · subst h; simp [he]
  · by_cases h2 : i < e.val
    · simp [h, h2]
    · have h3 : i - e.val ≠ 0 := by omega
      simp [h, h2, hi, h3]

/-- The bits of a set built entry by entry. -/
theorem foldBits_getLsbD (f : EntryId → Word) (l : List EntryId) (hf : ∀ e ∈ l, f e = entryBit e) (acc : Word) (i : Nat) (hi : i < 32) :
  (l.foldl (fun acc e => acc ||| f e) acc).getLsbD i = (acc.getLsbD i || l.any (fun e => e.val == i)) := by
  induction l generalizing acc with
  | nil => simp
  | cons a l ih =>
    rw [List.foldl_cons, ih (fun e he => hf e (by simp [he]))]
    rw [BitVec.getLsbD_or, hf a (by simp), entryBit_getLsbD _ _ hi]
    simp [Bool.or_assoc, List.any_cons]
    rfl

/-- A set of leading ends is its own normal set (R153). -/
theorem normalSet_leaders (p : Part) (cs : Word) (h : ∀ m : MoverId, cs.getLsbD m.val = true → p.leader m = m) : p.normalSet cs = cs := by
  apply BitVec.eq_of_getLsbD_eq
  intro i hi
  unfold Part.normalSet
  have e1 : (setEntries cs).foldl (fun acc e => match actuatorOf e with | .mover m => acc ||| entryBit (p.entryOfMover m) | .door _ => acc ||| entryBit e) 0 = (setEntries cs).foldl (fun acc e => acc ||| (match actuatorOf e with | .mover m => entryBit (p.entryOfMover m) | .door _ => entryBit e)) (0 : Word) := by
    congr 1
    funext acc e
    cases actuatorOf e <;> rfl
  refine Eq.trans (congrArg (fun x : Word => x.getLsbD i) e1) ?_
  refine (foldBits_getLsbD (fun e => match actuatorOf e with | .mover m => entryBit (p.entryOfMover m) | .door _ => entryBit e) (setEntries cs) ?_ 0 i hi).trans ?_
  rotate_left
  · rw [show BitVec.getLsbD (0 : Word) i = false by simp, Bool.false_or]
    have h1 : (setEntries cs).any (fun e => e.val == i) = true ↔ cs.getLsbD i = true := by
      simp only [List.any_eq_true, setEntries, List.mem_filter, inSet, beq_iff_eq]
      constructor
      · rintro ⟨e, ⟨_, h1⟩, h2⟩; rw [← h2]; exact h1
      · intro h; exact ⟨⟨i, hi⟩, ⟨List.mem_finRange _, h⟩, rfl⟩
    rw [Bool.eq_iff_iff]; exact h1
  · intro e he
    unfold setEntries at he
    have hin := (List.mem_filter.mp he).2
    unfold actuatorOf
    by_cases h8 : e.val < 8
    · rw [dif_pos h8]
      simp only
      have := h ⟨e.val, h8⟩ hin
      unfold Part.entryOfMover
      rw [this]; rfl
    · rw [dif_neg h8]

/-- A set of leading ends is a fit claim set (R158). -/
theorem groupSetOk_leaders (p : Part) (cs : Word) (h : ∀ m : MoverId, cs.getLsbD m.val = true → p.leader m = m) : p.groupSetOk cs = true := by
  unfold Part.groupSetOk
  rw [List.all_eq_true]
  intro e he
  have hin := (List.mem_filter.mp he).2
  unfold actuatorOf
  by_cases h8 : e.val < 8
  · rw [dif_pos h8]
    simp only
    have := h ⟨e.val, h8⟩ hin
    simp [this]
  · rw [dif_neg h8]

/-- A GROUP claim as it is taken (R159). -/
def groupClaim (n : Lane) (d : Nat) (p : Part) (e : EntryId) : Claim := { holder := some n, kind := some .group, level := d, saved := p.savedState e, status := .none }

/-- The claims after a set of entries is taken (R159). -/
theorem takeGroup_loop (n : Lane) (d : Nat) : ∀ (l : List EntryId) (p : Part),
   forEach l (takeGroup n d) p = { p with claims := tableOf 32 (fun e => if e ∈ l ∧ (p.claim e).inNest n = false then groupClaim n d p e else p.claim e) } := by
  intro l
  induction l with
  | nil =>
    intro p
    have : tableOf 32 (fun e => if e ∈ ([] : List EntryId) ∧ (p.claim e).inNest n = false then groupClaim n d p e else p.claim e) = p.claims := by
      apply table_ext; intro e; rw [getAt_tableOf, if_neg (by simp)]; rfl
    rw [this]; rfl
  | cons a l ih =>
    intro p
    rw [forEach_cons, ih]
    have hp : ∃ C, takeGroup n d a p = { p with claims := C } ∧ (∀ e, getAt C e = if e = a ∧ (p.claim e).inNest n = false then groupClaim n d p e else p.claim e) := by
      unfold takeGroup
      split
      · next h =>
        refine ⟨p.claims, rfl, ?_⟩
        intro e
        rw [if_neg]; · rfl
        rintro ⟨h1, h2⟩; subst h1; rw [h] at h2; cases h2
      · next h =>
        refine ⟨setAt p.claims a (groupClaim n d p a), rfl, ?_⟩
        intro e
        rw [getAt_setAt]
        by_cases he : a = e
        · subst he; rw [if_pos rfl, if_pos ⟨rfl, by simpa using h⟩]
        · rw [if_neg he, if_neg (by rintro ⟨h1, _⟩; exact he h1.symm)]; rfl
    obtain ⟨C, h1, h2⟩ := hp
    rw [h1]
    have : (tableOf 32 (fun e => if e ∈ l ∧ (Part.claim { p with claims := C } e).inNest n = false then groupClaim n d { p with claims := C } e else Part.claim { p with claims := C } e)) = tableOf 32 (fun e => if e ∈ a :: l ∧ (p.claim e).inNest n = false then groupClaim n d p e else p.claim e) := by
      apply table_ext
      intro e
      rw [getAt_tableOf, getAt_tableOf]
      have hc : Part.claim { p with claims := C } e = if e = a ∧ (p.claim e).inNest n = false then groupClaim n d p e else p.claim e := h2 e
      have hg : groupClaim n d { p with claims := C } e = groupClaim n d p e := rfl
      rw [hc, hg]
      by_cases hin : (p.claim e).inNest n = false
      · by_cases hea : e = a
        · subst hea
          simp [hin]
        · simp [hin, hea]
      · simp [hin]
    rw [this]

/-- The claim set and the mode of a GROUP OPEN image. -/
theorem groupImage_fields (head : OrderHead) (mode : Byte) (cs : Word) : groupSet (orderImage head .groupOpen (groupParams mode cs)) = cs ∧ byteAt (orderImage head .groupOpen (groupParams mode cs)) 12 = mode := by
  have hl : (groupParams mode cs).length ≤ 24 := by simp [groupParams, wordBytes]
  have hb : ∀ i, i < 8 → byteAt (orderImage head .groupOpen (groupParams mode cs)) (12 + i) = byteAt (groupParams mode cs) i :=
    fun i hi => byteAt_params head .groupOpen hl (by simpa [groupParams, wordBytes] using hi)
  refine ⟨?_, hb 0 (by omega)⟩
  have e : ∀ i, i < 4 → byteAt (orderImage head .groupOpen (groupParams mode cs)) (16 + i) = byteAt (wordBytes cs ++ []) i := by
    intro i hi
    rw [show 16 + i = 12 + (4 + i) by omega, hb _ (by omega), List.append_nil]
    show byteAt ([_, _, _, _] ++ wordBytes cs) (4 + i) = _
    unfold byteAt
    rw [List.getD_append_right _ _ _ _ (by simp)]
    simp
  refine Eq.trans ?_ (wordAt_wordBytes cs [])
  unfold groupSet wordAt halfAt
  have e0 : byteAt (orderImage head .groupOpen (groupParams mode cs)) 16 = _ := e 0 (by omega)
  have e1 : byteAt (orderImage head .groupOpen (groupParams mode cs)) (16 + 1) = _ := e 1 (by omega)
  have e2 : byteAt (orderImage head .groupOpen (groupParams mode cs)) (16 + 2) = _ := e 2 (by omega)
  have e3 : byteAt (orderImage head .groupOpen (groupParams mode cs)) (16 + 2 + 1) = _ := e 3 (by omega)
  rw [e0, e1, e2, e3]

/-- The parameters of a fitting GROUP OPEN are in range (R158). -/
theorem groupImage_paramChecks (head : OrderHead) (mode : Byte) (cs : Word) (p : Part) (hm : mode.toNat ≤ 1) (h : ∀ m : MoverId, cs.getLsbD m.val = true → p.leader m = m) :
   ∀ c ∈ p.paramChecks (orderImage head .groupOpen (groupParams mode cs)) .groupOpen, c.2 = true := by
  intro c hc
  obtain ⟨g1, g2⟩ := groupImage_fields head mode cs
  have hl : (groupParams mode cs).length ≤ 24 := by simp [groupParams, wordBytes]
  unfold Part.paramChecks at hc
  simp only [List.mem_cons, List.not_mem_nil, or_false] at hc
  rcases hc with rfl | rfl | rfl | rfl
  · apply decide_eq_true; rw [g2]; exact hm
  · apply zeros_true
    intro j hj
    rw [show 13 + j = 12 + (1 + j) by omega, byteAt_params head .groupOpen hl (by simp [groupParams, wordBytes]; omega)]
    have : j = 0 ∨ j = 1 ∨ j = 2 := by omega
    rcases this with rfl | rfl | rfl <;> rfl
  · show p.groupSetOk _ = true; rw [g1]; exact groupSetOk_leaders p cs h
  · have : restZero (orderImage head .groupOpen (groupParams mode cs)) 20 = (20, true) := restZero_orderImage _ _ (by simp [groupParams, wordBytes]) (by omega)
    rw [this]

/-- Where no block keeps a record of the lane, forgetting it changes nothing. -/
theorem forgetLane_unwaited {p : Part} {n : Lane} (h1 : ∀ m, (p.mover m).motion.waiting ≠ some n) (h2 : ∀ d, (p.door d).waiting ≠ some n) (h3 : ∀ e ∈ p.calls.entries, n ∉ e.waiting) (hw : p.waiters = []) :
  forgetLane n p = p := by
  unfold forgetLane forgetCallLane setCalls
  have e1 : mapAll (fun (x : Mover) => { x with motion := { x.motion with waiting := if x.motion.waiting = some n then none else x.motion.waiting } }) p.movers = p.movers := by
    apply table_ext; intro m; rw [getAt_mapAll]
    have := h1 m
    unfold Part.mover at this
    rw [if_neg this]
  have e2 : mapAll (fun (x : Door) => { x with waiting := if x.waiting = some n then none else x.waiting }) p.doors = p.doors := by
    apply table_ext; intro m; rw [getAt_mapAll]
    have := h2 m
    unfold Part.door at this
    rw [if_neg this]
  have hf : ∀ e ∈ p.calls.entries, ({ e with waiting := e.waiting.filter (fun m => m != n) } : CallEntry) = e := by
    intro e he
    have : e.waiting.filter (fun m => m != n) = e.waiting := by
      rw [List.filter_eq_self]; intro a ha; simp; intro h; subst h; exact h3 e he ha
    rw [this]
  have e3 : p.calls.mapEntries (fun e => { e with waiting := e.waiting.filter (fun m => m != n) }) = p.calls := by
    have hl : ∀ l : List CallEntry, (∀ e ∈ l, e ∈ p.calls.entries) → l.map (fun e => ({ e with waiting := e.waiting.filter (fun m => m != n) } : CallEntry)) = l := by
      intro l hl
      rw [List.map_congr_left (g := id) (fun e he => hf e (hl e he)), List.map_id]
    have ho : ∀ o : Option CallEntry, (∀ e ∈ o.toList, e ∈ p.calls.entries) → o.map (fun e => ({ e with waiting := e.waiting.filter (fun m => m != n) } : CallEntry)) = o := by
      intro o h
      cases o with
      | none => rfl
      | some e => rw [Option.map_some, hf e (h e (by simp))]
    unfold CallStore.mapEntries
    rw [hl p.calls.routine (by intro e he; simp [CallStore.entries, he]), hl p.calls.urgent (by intro e he; simp [CallStore.entries, he]), hl p.calls.emergency (by intro e he; simp [CallStore.entries, he]),
      ho p.calls.active (by intro e he; unfold CallStore.entries; simp only [List.mem_append]; tauto), ho p.calls.suspendedRoutine (by intro e he; unfold CallStore.entries; simp only [List.mem_append]; tauto), ho p.calls.suspendedUrgent (by intro e he; unfold CallStore.entries; simp only [List.mem_append]; tauto)]
  dsimp only
  rw [e1, e2, hw, List.filter_nil, e3, ← hw]

/-- A halt of a steady actuator changes nothing (R35, R74). -/
theorem haltEntry_steady {p : Part} {e : EntryId} (h : p.steady e = true) : haltEntry e p = p := by
  unfold haltEntry
  unfold Part.steady at h
  cases ha : actuatorOf e with
  | mover m =>
    rw [ha] at h
    simp only at h ⊢
    unfold moverStop
    have : (p.motion m).state = (p.mover m).motion.state := rfl
    dsimp only
    rw [this]
    cases hs : (p.mover m).motion.state <;> rw [hs] at h <;> first | rfl | cases h
  | door d =>
    rw [ha] at h
    simp only at h ⊢
    unfold doorHalt
    dsimp only
    rw [if_pos h]

end Sys2Proof.Machine
end

