-- ==== Sys2Proof/Laws/Adoption.lean ====
section
/-! SUPPORT. A first adoption of a deck plan, block by block. -/

namespace Sys2Proof.Machine

/-- Setting the value that stands changes nothing. -/
theorem setMover_same (p : Part) (m : MoverId) (x : Mover) (h : p.mover m = x) : p.setMover m x = p := by
  rw [← h]; simp [Part.setMover, Part.mover]

/-- An end without an outcome stores nothing. -/
theorem storeReply_nothing (p : Part) (m : MoverId) (h : (p.mover m).step = none) : storeReply m p = p := by
  unfold storeReply; simp only [h]

/-- Movers at their reset values stay so at an adoption (R55). -/
theorem adoptMovers_reset (p : Part) (old : Plan) (hm : ∀ m, p.mover m = Mover.reset) : adoptMovers old p = p := by
  unfold adoptMovers
  have e1 : forEach (List.finRange 8)
      (fun m q => if old.partner m = q.partner m then q else storeKept m q) p = p := by
    refine forEach_id _ ?_
    intro m _
    split
    · rfl
    · rw [storeKept, storeReply_nothing p m (by rw [hm]; rfl)]
      apply setMover_same; rw [hm]; rfl
  rw [e1]
  have e2 : forEach (List.finRange 8) (adoptMoverAlone old) p = p := by
    refine forEach_id _ ?_
    intro m _
    unfold adoptMoverAlone
    simp only [hm]
    split
    · rw [setMover_same _ _ _ (hm m)]; exact emit_nil _
    · rw [if_neg (by simp [Mover.reset, Motion.reset])]
  dsimp only
  rw [e2]
  refine forEach_id _ ?_
  intro m _
  unfold adoptPair
  have hmo : ∀ e, p.motion e = Motion.reset := fun e => by unfold Part.motion; rw [hm]; rfl
  have hq : forEach (p.ends m) (fun e q => q.setMover e
      { q.mover e with motion := Motion.reset, valve := 0, sent := (p.mover m).sent }) p = p := by
    refine forEach_id _ ?_
    intro e _
    apply setMover_same; rw [hm, hm]; rfl
  have hall : ∀ (f : Motion → Bool), f Motion.reset = false → ((p.ends m).map p.motion).find? f = none := by
    intro f hf
    rw [List.find?_eq_none]
    intro x hx
    obtain ⟨e, _, rfl⟩ := List.mem_map.mp hx
    rw [hmo, hf]; simp
  have hany : ((p.ends m).map p.motion).any (fun mo => mo.state == .offline) = true := by
    rw [List.any_eq_true]
    refine ⟨p.motion m, List.mem_map.mpr ⟨m, self_mem_ends p m, rfl⟩, ?_⟩
    rw [hmo]; rfl
  dsimp only
  rw [hall _ rfl, hall _ rfl]
  dsimp only
  rw [if_pos hany]
  exact hq

/-- Setting the value that stands changes nothing. -/
theorem setDoor_same (p : Part) (m : DoorId) (x : Door) (h : p.door m = x) : p.setDoor m x = p := by
  rw [← h]; simp [Part.setDoor, Part.door]

/-- Doors at their reset values stay so at an adoption (R82). -/
theorem adoptDoors_reset (p : Part) (old : Plan) (hm : ∀ m, p.door m = Door.reset) : adoptDoors old p = p := by
  refine forEach_id _ ?_
  intro m _
  split
  · rfl
  · exact setDoor_same _ _ _ (hm m)

/-- The stations that a first adoption sets polled. -/
theorem adoptStations_loop (b : StationId → Bool) : ∀ (l : List StationId) (p : Part), (∀ st, b st = false → (p.station st).polled = false) → 
   ∃ S, forEach l (fun st q => if false = b st then q else q.setStation st { Station.reset with polled := b st }) p = { p with field := { p.field with stations := S } } ∧
   ∀ st, getAt S st = if st ∈ l ∧ b st = true then { Station.reset with polled := b st } else p.station st := by
  intro l
  induction l with
  | nil => intro p _; exact ⟨p.field.stations, rfl, by intro st; simp; rfl⟩
  | cons x rest ih =>
    intro p hp
    rw [forEach_cons]
    by_cases hx : false = b x
    · rw [if_pos hx]
      obtain ⟨S, e, h⟩ := ih p hp
      refine ⟨S, e, ?_⟩
      intro st
      rw [h]
      by_cases hs : st = x
      · subst hs; simp [← hx]
      · simp [hs]
    · rw [if_neg hx]
      have hx' : b x = true := by cases h : b x <;> simp_all
      obtain ⟨S, e, h⟩ := ih (p.setStation x { Station.reset with polled := b x }) (by
        intro st hst
        unfold Part.setStation Part.station
        rw [getAt_setAt]
        split
        · next h => subst h; rw [hst] at hx'; cases hx'
        · exact hp st hst)
      refine ⟨S, e, ?_⟩
      intro st
      rw [h]
      by_cases hs : st = x
      · subst hs
        have e : Part.station (Part.setStation st { Station.reset with polled := b st } p) st = { Station.reset with polled := b st } := by
          unfold Part.setStation Part.station
          exact getAt_setAt_same _ _ _
        rw [e]; simp [hx']
      · have : Part.station (Part.setStation x { Station.reset with polled := b x } p) st = p.station st := by
          unfold Part.setStation Part.station
          exact getAt_setAt_ne _ _ (Ne.symm hs)
        rw [this]; simp [hs]

/-- With no plan no station is enabled. -/
theorem off_enables_none (st : StationId) : Plan.off.enables st = false := by
  unfold Plan.enables Plan.off
  split <;> simp [PlanMover.off, PlanDoor.off, PlanZone.off]

/-- The stations after a first adoption (R177). -/
theorem adoptStations_first (p : Part) (hs : ∀ st, p.station st = Station.reset) (hd : p.field.due = []) (hx : p.field.exchange = none) :
  ∃ S, adoptStations Plan.off p = { p with field := { p.field with stations := S } } ∧ ∀ st, getAt S st = { Station.reset with polled := p.inForce.enables st } := by
  obtain ⟨S, e, h⟩ := adoptStations_loop p.inForce.enables (List.finRange 44) p (by intro st _; rw [hs]; rfl)
  refine ⟨S, ?_, ?_⟩
  · unfold adoptStations
    simp only [off_enables_none]
    rw [e]
    simp [hd, hx]
  · intro st
    rw [h]
    cases hb : p.inForce.enables st
    · simp [hs]; rfl
    · simp

/-- A zone after a first adoption (R23). -/
def zoneFirst (p : Part) (k : ZoneId) : Zone :=
  { Zone.reset with notClosed := if (p.planZone k).enabled then p.countNotClosed k else 0 }

/-- The zones that a first adoption sets. -/
theorem adoptZone_loop (old : Plan) (hold : old = Plan.off) : ∀ (l : List ZoneId) (p : Part), (∀ k, p.zone k = Zone.reset ∨ p.zone k = zoneFirst p k) → 
   ∃ Z acts, forEach l (adoptZone old) p = { p with zones := Z }.emit acts ∧ acts.length ≤ l.length ∧ (∀ a ∈ acts, ∃ k, a = .shutTest k) ∧
   ∀ k, getAt Z k = if k ∈ l then zoneFirst p k else p.zone k := by
  intro l
  induction l with
  | nil => intro p _; exact ⟨p.zones, [], by simp, by simp, by simp, by intro st; simp; rfl⟩
  | cons x rest ih =>
    intro p hp
    rw [forEach_cons]
    have hoff : (getAt old.zones x).enabled = false := by rw [hold]; simp [Plan.off, PlanZone.off]
    obtain ⟨a, ha1, ha2, hstep⟩ : ∃ a : List Act, a.length ≤ 1 ∧ (∀ y ∈ a, ∃ k, y = .shutTest k) ∧ adoptZone old x p = (p.setZone x (zoneFirst p x)).emit a := by
      unfold adoptZone
      simp only [hoff]
      cases hn : (p.planZone x).enabled
      · refine ⟨[], by simp, by simp, ?_⟩
        simp [zoneFirst, hn, whenTrue]; rfl
      · refine ⟨[.shutTest x], by simp, by simp, ?_⟩
        have e1 : (Zone.reset.state == ZoneState.shut) = false := rfl
        have e2 : (Zone.reset.state == ZoneState.shutting) = false := rfl
        simp [zoneFirst, hn, e1, e2]
    rw [hstep]
    have hz : ∀ k q, q = (p.setZone x (zoneFirst p x)).emit a → zoneFirst q k = zoneFirst p k := by
      intro k q hq; rw [hq]; rfl
    obtain ⟨Z, acts, e, h1, h2, h3⟩ := ih ((p.setZone x (zoneFirst p x)).emit a) (by
      intro k
      rw [hz k _ rfl]
      show getAt (setAt p.zones x _) k = _ ∨ getAt (setAt p.zones x _) k = _
      rw [getAt_setAt]
      split
      · next h => subst h; exact Or.inr rfl
      · exact hp k)
    refine ⟨Z, a ++ acts, ?_, ?_, ?_, ?_⟩
    · rw [e]; simp [Part.emit, Part.setZone]
    · simp; omega
    · intro y hy
      rcases List.mem_append.mp hy with h | h
      · exact ha2 y h
      · exact h2 y h
    · intro k
      rw [h3, hz k _ rfl]
      have : Part.zone ((p.setZone x (zoneFirst p x)).emit a) k = if x = k then zoneFirst p x else p.zone k := by
        show getAt (setAt p.zones x _) k = _
        rw [getAt_setAt]; rfl
      rw [this]
      by_cases hk : x = k
      · subst hk; simp
      · simp [hk, Ne.symm hk]

/-- With no FIRE demand nothing restarts (R120). -/
theorem restartFireLines_noFire (p : Part) (h : ∀ k, (p.line k).fire = false) : restartFireLines p = p := by
  refine forEach_id _ ?_
  intro k _
  rw [h]; rfl

/-- With no zone in FIRE no line carries FIRE (R12). -/
theorem syncFire_unwanted (p : Part) (h : ∀ k, p.fireWanted k = false) : ∀ k, ((syncFire p).line k).fire = false := by
  intro k; rw [syncFire_fire, h]

/-- The doors of a zone read from the plan (R3). -/
theorem zoneDoors_of_plan (p : Part) (k : ZoneId) (pl : Plan) (h : p.inForce = pl) :
   p.zoneDoors k = (List.finRange 24).filter (fun d => (getAt pl.doors d).enabled &&
          (((getAt pl.doors d).zoneA == k) || ((getAt pl.doors d).zoneB == some k))) := by
  unfold Part.zoneDoors
  apply List.filter_congr
  intro d _
  unfold Part.doorZones Part.planDoor
  rw [h]
  obtain ⟨x, hx⟩ : ∃ x, x = getAt pl.doors d := ⟨_, rfl⟩
  dsimp only
  rw [← hx]
  cases x.enabled
  · simp
  · rw [Bool.eq_iff_iff]
    simp only [if_true, Bool.true_and, List.contains_iff_mem, List.mem_cons, Option.mem_toList, Bool.or_eq_true,
      beq_iff_eq]
    exact or_congr_left eq_comm

/-- The not-closed count of a first adoption (R3). -/
theorem countNotClosed_first (p : Part) (k : ZoneId) (pl : Plan) (h : p.inForce = pl) (hd : ∀ d, p.door d = Door.reset) :
   p.countNotClosed k = ((List.finRange 24).filter (fun d => (getAt pl.doors d).enabled &&
          (((getAt pl.doors d).zoneA == k) || ((getAt pl.doors d).zoneB == some k)))).length := by
  unfold Part.countNotClosed
  rw [zoneDoors_of_plan p k pl h]
  have hcl : (fun d => (p.door d).state != DoorState.closed) = fun _ => true := by
    funext d; rw [hd]; rfl
  rw [hcl, List.filter_true]

/-- What a first adoption gives (R182). -/
theorem adopt_first (pl : Plan) (P : Part) (hpl : P.plan = none) (hz : ∀ k, P.zone k = Zone.reset) (hm : ∀ m, P.mover m = Mover.reset)
   (hd : ∀ d, P.door d = Door.reset) (hs : ∀ st, P.station st = Station.reset) (hdue : P.field.due = []) (hx : P.field.exchange = none) (hw : P.waiters = []) :
   ∃ Z S L acts, adopt pl P = { P with plan := some pl, generation := P.generation + 1, port := { P.port with partState := .ready }, zones := Z, lines := L, field := { P.field with stations := S } }.emit acts ∧ acts.length ≤ 12 ∧ (∀ a ∈ acts, ∃ k, a = .shutTest k) ∧
     (∀ k, getAt Z k = { Zone.reset with notClosed := if (getAt pl.zones k).enabled then ((List.finRange 24).filter (fun d => (getAt pl.doors d).enabled &&
          (((getAt pl.doors d).zoneA == k) || ((getAt pl.doors d).zoneB == some k)))).length else 0 }) ∧
     (∀ st, getAt S st = { Station.reset with polled := pl.enables st }) ∧ ∀ l : LineId, (getAt L l).fire = false := by
  have hold : P.inForce = Plan.off := by unfold Part.inForce; rw [hpl]; rfl
  obtain ⟨p1, hp1⟩ : ∃ p1 : Part, p1 = { P with plan := some pl, generation := P.generation + 1, port := { P.port with partState := .ready } } := ⟨_, rfl⟩
  have hin : p1.inForce = pl := by rw [hp1]; rfl
  obtain ⟨S, eS, hS⟩ := adoptStations_first p1 (by rw [hp1]; exact hs) (by rw [hp1]; exact hdue) (by rw [hp1]; exact hx)
  obtain ⟨p2, hp2⟩ : ∃ p2 : Part, p2 = { p1 with field := { p1.field with stations := S } } := ⟨_, rfl⟩
  rw [← hp2] at eS
  have hin2 : p2.inForce = pl := by rw [hp2]; exact hin
  obtain ⟨Z, acts, eZ, hl, ha, hZ⟩ := adoptZone_loop Plan.off rfl (List.finRange 12) p2 (by intro k; rw [hp2, hp1]; exact Or.inl (hz k))
  obtain ⟨p3, hp3⟩ : ∃ p3 : Part, p3 = { p2 with zones := Z }.emit acts := ⟨_, rfl⟩
  rw [← hp3] at eZ
  have hZ' : ∀ k, getAt Z k = zoneFirst p2 k := by intro k; rw [hZ, if_pos (List.mem_finRange k)]
  have hfw : ∀ k, p3.fireWanted k = false := by
    intro k
    have hlev : ∀ k, (p3.zone k).level = .none := by
      intro k
      have : p3.zone k = getAt Z k := by rw [hp3]; rfl
      rw [this, hZ']; rfl
    have hany : p3.zones.toList.any (fun z => z.level == .fire) = false := by
      rw [List.any_eq_false]
      intro z hz
      obtain ⟨i, hi, rfl⟩ := List.getElem_of_mem hz
      have hi' : i < 12 := by simpa using hi
      have h2 := hlev ⟨i, hi'⟩
      have : p3.zone ⟨i, hi'⟩ = p3.zones.toList[i] := by simp [Part.zone, getAt]
      rw [← this, h2]; decide
    unfold Part.fireWanted
    rw [hany]
    simp only [Bool.and_false, Bool.or_false]
    split
    · rw [hlev]; decide
    · rfl
  refine ⟨Z, S, (syncFire p3).lines, acts, ?_, by simpa using hl, ha, ?_, ?_, syncFire_unwanted p3 hfw⟩
  · unfold adopt
    dsimp only
    rw [hold, ← hp1, adoptMovers_reset p1 _ (by rw [hp1]; exact hm), adoptDoors_reset p1 _ (by rw [hp1]; exact hd), eS, eZ, restartFireLines_noFire _ (syncFire_unwanted p3 hfw)]
    have e4 := syncFire_eq p3
    have hw' : (syncFire p3).waiters = [] := by rw [e4, hp3, hp2, hp1]; exact hw
    unfold adoptWaiters
    rw [hw']
    rw [e4]
    simp only [List.map_nil]
    rw [hp3, hp2, hp1]
    simp [Part.emit, hw]
  · intro k
    rw [hZ']
    unfold zoneFirst
    have hpz : p2.planZone k = getAt pl.zones k := by unfold Part.planZone; rw [hin2]
    rw [hpz]
    by_cases hen : (getAt pl.zones k).enabled = true
    swap
    · simp only [if_neg hen]
    simp only [if_pos hen]
    rw [countNotClosed_first p2 k pl hin2 (by intro d; rw [hp2, hp1]; exact hd d)]
  · intro st
    rw [hS, hin]

end Sys2Proof.Machine
end

