-- ==== Sys2Proof/Laws/PerInstr.lean ====
section
/-! SUPPORT. The per-command lemmas of the family OrderShape: a command that is an order spells a record image of the
right length whose kind byte is its own (Table 6-3, R125). -/

namespace Sys2Proof.Laws.OrderShape

open Sys2Proof.Machine

/-- Where a command is an order, its parameters fit the record, the image is 42 bytes and names the order's kind. -/
def Statement (c : Instr) : Prop :=
  ∀ n head k params, orderOf c = some (n, head, k, params) →
    params.length ≤ 24 ∧ (orderImage head k params).length = 42 ∧ imageKind (orderImage head k params) = some k

theorem all (c : Instr) : Statement c := fun _ head k _ h =>
  ⟨orderOf_length h, orderImage_length head k (orderOf_length h), imageKind_orderImage head k _⟩

theorem powerOnReset : Statement .powerOnReset := all _
theorem softReset : Statement .softReset := all _
theorem resetEnd : Statement .resetEnd := all _
theorem lanesEnable (on : Bool) : Statement (.lanesEnable on) := all _
theorem intEn (on : Bool) : Statement (.intEn on) := all _
theorem bridgeLanes (mask : BitVec 4) : Statement (.bridgeLanes mask) := all _
theorem start (lane : Lane) : Statement (.start lane) := all _
theorem wake (lane : Lane) : Statement (.wake lane) := all _
theorem cancel (lane : Lane) : Statement (.cancel lane) := all _
theorem rescan : Statement .rescan := all _
theorem ignoredRegisterWrite (address : BitVec 3) (data : Half) (bits : Nat) :
    Statement (.ignoredRegisterWrite address data bits) := all _
theorem deckTick : Statement .deckTick := all _
theorem fieldCycleStart : Statement .fieldCycleStart := all _
theorem checkMark : Statement .checkMark := all _
theorem centisecondMark : Statement .centisecondMark := all _
theorem secondEnd : Statement .secondEnd := all _
theorem periodEnd (line : LineId) : Statement (.periodEnd line) := all _
theorem confirmTimerExpiry (zone : ZoneId) : Statement (.confirmTimerExpiry zone) := all _
theorem brakeTimerExpiry (mover : MoverId) : Statement (.brakeTimerExpiry mover) := all _
theorem settleTimerExpiry (mover : MoverId) : Statement (.settleTimerExpiry mover) := all _
theorem leadExpiry (door : DoorId) : Statement (.leadExpiry door) := all _
theorem motionTimerExpiry (door : DoorId) : Statement (.motionTimerExpiry door) := all _
theorem retryDelayExpiry (door : DoorId) : Statement (.retryDelayExpiry door) := all _
theorem chimeEnd : Statement .chimeEnd := all _
theorem chimeOnlyRepeatEnd : Statement .chimeOnlyRepeatEnd := all _
theorem replyTimerExpiry : Statement .replyTimerExpiry := all _
theorem probeTimerExpiry : Statement .probeTimerExpiry := all _
theorem claimWaitExpiry (lane : Lane) : Statement (.claimWaitExpiry lane) := all _
theorem holdExpiry (lane : Lane) : Statement (.holdExpiry lane) := all _
theorem poll : Statement .poll := all _
theorem reply (bytes : List Byte) : Statement (.reply bytes) := all _
theorem replyWindowClose : Statement .replyWindowClose := all _
theorem started (message : Byte) : Statement (.started message) := all _
theorem done (message : Byte) : Statement (.done message) := all _
theorem cutDone : Statement .cutDone := all _
theorem ready : Statement .ready := all _
theorem err (code : Byte) : Statement (.err code) := all _
theorem frameDiscard (kind : DiscardKind) : Statement (.frameDiscard kind) := all _
theorem boardWrite (slot : SlotId) : Statement (.boardWrite slot) := all _
theorem seenCountRead : Statement .seenCountRead := all _
theorem hold (lane : Lane) (head : OrderHead) (duration : Half) (condition index state : Byte) :
    Statement (.hold lane head duration condition index state) := all _
theorem detour (lane : Lane) (head : OrderHead) (target : Half) : Statement (.detour lane head target) := all _
theorem ret (lane : Lane) (head : OrderHead) : Statement (.ret lane head) := all _
theorem mark (lane : Lane) (head : OrderHead) (code : Half) : Statement (.mark lane head code) := all _
theorem haltLane (lane : Lane) (head : OrderHead) : Statement (.haltLane lane head) := all _
theorem groupOpen (lane : Lane) (head : OrderHead) (mode : Byte) (claimSet : Word) :
    Statement (.groupOpen lane head mode claimSet) := all _
theorem groupClose (lane : Lane) (head : OrderHead) : Statement (.groupClose lane head) := all _
theorem abortGroup (lane : Lane) (head : OrderHead) (code : Byte) : Statement (.abortGroup lane head code) := all _
theorem setLoading (lane : Lane) (head : OrderHead) (zone : Byte) : Statement (.setLoading lane head zone) := all _
theorem setSecure (lane : Lane) (head : OrderHead) (zone : Byte) : Statement (.setSecure lane head zone) := all _
theorem shutZone (lane : Lane) (head : OrderHead) (zone : Byte) : Statement (.shutZone lane head zone) := all _
theorem reopenZone (lane : Lane) (head : OrderHead) (zone : Byte) : Statement (.reopenZone lane head zone) := all _
theorem disableDetection (lane : Lane) (head : OrderHead) (zone : Byte) :
    Statement (.disableDetection lane head zone) := all _
theorem enableDetection (lane : Lane) (head : OrderHead) (zone : Byte) :
    Statement (.enableDetection lane head zone) := all _
theorem resetAlarm (lane : Lane) (head : OrderHead) (zone : Byte) : Statement (.resetAlarm lane head zone) := all _
theorem move (lane : Lane) (head : OrderHead) (mover mode share : Byte) (value : Word) :
    Statement (.move lane head mover mode share value) := all _
theorem stopMover (lane : Lane) (head : OrderHead) (mover : Byte) : Statement (.stopMover lane head mover) := all _
theorem floatRamp (lane : Lane) (head : OrderHead) (mover : Byte) : Statement (.floatRamp lane head mover) := all _
theorem clearMoverFault (lane : Lane) (head : OrderHead) (mover : Byte) :
    Statement (.clearMoverFault lane head mover) := all _
theorem closeDoor (lane : Lane) (head : OrderHead) (door : Byte) : Statement (.closeDoor lane head door) := all _
theorem openDoor (lane : Lane) (head : OrderHead) (door : Byte) : Statement (.openDoor lane head door) := all _
theorem forceClose (lane : Lane) (head : OrderHead) (door : Byte) : Statement (.forceClose lane head door) := all _
theorem clearDoorFault (lane : Lane) (head : OrderHead) (door : Byte) :
    Statement (.clearDoorFault lane head door) := all _
theorem call (lane : Lane) (head : OrderHead) (priority message : Byte) (lines : Half) (repeats policy chime : Byte) :
    Statement (.call lane head priority message lines repeats policy chime) := all _
theorem cancelCall (lane : Lane) (head : OrderHead) (callId : Half) :
    Statement (.cancelCall lane head callId) := all _
theorem setClock (lane : Lane) (head : OrderHead) (seconds : Word) : Statement (.setClock lane head seconds) := all _
theorem adoptPlan (lane : Lane) (head : OrderHead) (link : Half) : Statement (.adoptPlan lane head link) := all _
theorem linkTake (lane : Lane) : Statement (.linkTake lane) := all _

end Sys2Proof.Laws.OrderShape
end

