-- ==== Sys2Proof/Laws/Profile.lean ====
section
/-! SUPPORT. Bounds of the profile arithmetic. -/

namespace Sys2Proof.Machine

/-- A clamped setpoint lies within the limits (R41). -/
theorem clampQ8_within (pm : PlanMover) (x : Int) (h : pm.lower ≤ pm.upper) : 256 * (pm.lower : Int) ≤
    pm.clampQ8 x ∧ pm.clampQ8 x ≤ 256 * (pm.upper : Int) := by
  unfold PlanMover.clampQ8 clampInt; omega

/-- A setpoint within the limits is not clamped (R41). -/
theorem clampQ8_of_within (pm : PlanMover) (x : Int) (h : 256 * (pm.lower : Int) ≤ x)
    (h' : x ≤ 256 * (pm.upper : Int)) : pm.clampQ8 x = x := by
  unfold PlanMover.clampQ8 clampInt; omega

/-- The speed limit is at most Vmax (R40). -/
theorem vlim_le_vmax (pm : PlanMover) (sh : Nat) (u : Bool) (s : Int) (h1 : pm.vc ≤ pm.vapp)
    (h2 : pm.vapp ≤ pm.vmax) (h3 : sh ≤ 100) : pm.vlim sh u s ≤ pm.vmax := by
  have : pm.vmax * sh / 100 ≤ pm.vmax := by
    apply Nat.div_le_of_le_mul
    rw [Nat.mul_comm]; exact Nat.mul_le_mul_right _ h3
  have hv : pm.vshare sh ≤ pm.vmax := by
    unfold PlanMover.vshare
    exact Nat.max_le.mpr ⟨by omega, this⟩
  unfold PlanMover.vlim
  split
  · exact Nat.le_trans (Nat.min_le_left _ _) hv
  · exact hv

/-- The new speed is at most Vmax (R40). -/
theorem newSpeed_le_vmax (pm : PlanMover) (b : Bool) (ph : Phase) (v vl : Nat) (h1 : pm.vc ≤ pm.vmax)
    (h2 : vl ≤ pm.vmax) (h3 : v ≤ pm.vmax) : (pm.newSpeed b ph v vl).1 ≤ pm.vmax := by
  unfold PlanMover.newSpeed
  split
  · simp only; omega
  · split
    · exact Nat.max_le.mpr ⟨by omega, h1⟩
    · split
      · exact Nat.max_le.mpr ⟨by omega, h2⟩
      · split
        · exact Nat.le_trans (Nat.min_le_right _ _) h2
        · exact h3

end Sys2Proof.Machine
end

