-- ==== Sys2Proof/WellFormed.lean ====
section
/-! DEFINITION. Which commands a sender can send at all. -/

namespace Sys2Proof

/-- A write that is ignored (R184): cut short before the 24th bit, or to a register that takes no write. -/
def ignoredWriteOk (address : BitVec 3) (bits : Nat) : Bool :=
  decide (bits < 24) || (decide (bits = 24) && (address != 1) && (address != 2))

/-- The command can be sent. An order record may hold any content (a wrong one is refused with BAD_RECORD, R139), so an
order is always well formed; a run of reply bytes holds at least one byte (R172). -/
def Instr.wellFormed : Instr → Bool
  | .ignoredRegisterWrite address _ bits => ignoredWriteOk address bits
  | .reply bytes => !bytes.isEmpty
  | .powerOnReset | .softReset | .resetEnd | .lanesEnable _ | .intEn _ | .bridgeLanes _ | .start _ | .wake _ | .cancel _
  | .rescan | .deckTick | .fieldCycleStart | .checkMark | .centisecondMark | .secondEnd | .periodEnd _
  | .confirmTimerExpiry _ | .brakeTimerExpiry _ | .settleTimerExpiry _ | .leadExpiry _ | .motionTimerExpiry _
  | .retryDelayExpiry _ | .chimeEnd | .chimeOnlyRepeatEnd | .replyTimerExpiry | .probeTimerExpiry | .claimWaitExpiry _
  | .holdExpiry _ | .poll | .replyWindowClose | .started _ | .done _ | .cutDone | .ready | .err _ | .frameDiscard _
  | .boardWrite _ | .seenCountRead | .hold .. | .detour .. | .ret .. | .mark .. | .haltLane .. | .groupOpen ..
  | .groupClose .. | .abortGroup .. | .setLoading .. | .setSecure .. | .shutZone .. | .reopenZone ..
  | .disableDetection .. | .enableDetection .. | .resetAlarm .. | .move .. | .stopMover .. | .floatRamp ..
  | .clearMoverFault .. | .closeDoor .. | .openDoor .. | .forceClose .. | .clearDoorFault .. | .call .. | .cancelCall ..
  | .setClock .. | .adoptPlan .. | .linkTake _ => true

end Sys2Proof
end

