-- ==== Sys2Proof/Tests/Slice0.lean ====
section
/-! SUPPORT. The model's own tests: ill-formed commands, one small step of each command, and for every statement with
hypotheses a state that meets them. -/

namespace Sys2Proof.Tests

open Sys2Proof.Machine

set_option maxRecDepth 20000

/-! ### Small states -/

/-- Two zones, one ramp, one door between the zones, one pattern for all numbers, twenty messages. -/
def plan0 : Plan :=
  { header := { claimWait := 500, muster := 0x8000, firePattern := 1, fireChime := 2, fireRepeats := 3, chimeRoutine := 1,
                chimeUrgent := 2, chimeEmergency := 3 },
    zones := tableOf 12 (fun k => { PlanZone.off with enabled := decide (k.val < 2), confirm := 600, warnPattern := 2 }),
    movers := tableOf 8 (fun m => { PlanMover.off with
      enabled := decide (m.val < 1), zoned := true, lower := 100, upper := 1000, vmax := 2560, accel := 256, vc := 256, vapp := 1024,
      brakeTime := 50, settleLimit := 300, floatWindow := 400, floatMax := 2000 }),
    doors := tableOf 24 (fun d => { PlanDoor.off with
      enabled := decide (d.val < 1), zoneB := some 1, retries := 2, lead := 200, fireLead := 100, motionLimit := 1500,
      retryDelay := 300 }),
    patterns := tableOf 8 (fun _ => { period := 512, lead := 384, count := 3 }), messages := List.replicate 20 1200 }

def idleMover : Mover :=
  { Mover.reset with
    motion := { Motion.reset with state := .idle, setpoint := some (256 * 500) }, position := 500, sent := 500 }

def closedDoor : Door :=
  { Door.reset with state := .closed, last := { DoorReply.clear with closedLimit := true } }

/-- A lane that takes the record of slot 48 next, with bridge authority. -/
def taker : LaneContext := { LaneContext.reset with state := .working, link := some 48, bridge := true, anchor := .start }

def online : Station := { Station.reset with state := .online, polled := true }

/-- A READY part under `plan0`: zone 0 LOADING, the ramp IDLE, the door CLOSED, lane 0 about to take slot 48. -/
def deck : Machine.Part :=
  { Part.reset 0 false [] 0 with
    plan := some plan0, generation := 1,
    port := { (Part.reset 0 false [] 0).port with partState := .ready, lanesEnable := true, bridgeLanes := 1 },
    zones := tableOf 12 (fun k => if k = 0 then { Zone.reset with state := .loading, link := .online, loop := some .normal }
      else Zone.reset),
    movers := tableOf 8 (fun m => if m = 0 then idleMover else Mover.reset),
    doors := tableOf 24 (fun d => if d = 0 then closedDoor else Door.reset),
    field := { (Part.reset 0 false [] 0).field with stations := tableOf 44 (fun _ => online) },
    lanes := tableOf 4 (fun n => if n = 0 then taker else LaneContext.reset) }

/-- A machine with empty exchange memory, the part `p` and nothing waiting. -/
def on (p : Machine.Part) : State := { pending := [], mem := [], part := p }

/-- The next state of a command, and its part. -/
def after (c : Instr) (s : State) : State :=
  match exec c s with
  | .next t => t
  | .fault _ | .refused _ => s

def partAfter (c : Instr) (p : Machine.Part) : Machine.Part := (after c (on p)).part

def head0 : OrderHead := { standing := false, flags := 0, next := 49, alternate := 50, expectZone := 0, expectMask := 0 }
def headWait : OrderHead := { head0 with flags := 1 }
def headStanding : OrderHead := { head0 with standing := true, flags := 3, next := 4095 }

theorem quiet_of {p : Machine.Part} (h : p.port.inReset = false ∧ p.agenda = [] ∧ p.writes = [] ∧ p.forced = [] ∧
    ∀ l : Lane, (p.lane l).waitKind ≠ some .hold) : (on p).Quiet :=
  ⟨h.1, h.2.1, ⟨h.2.2.1, h.2.2.2.1⟩, rfl, fun l _ => h.2.2.2.2 l⟩

theorem takes_of {p : Machine.Part} {n : Lane} {link : Half} (h : (on p).Quiet)
    (h' : p.takesNow n = some link ∧ linkValid link = true) : (on p).Takes n link := ⟨h, h'.1, h'.2⟩

theorem passes_of {h : OrderHead} {p : Machine.Part} (e : h.flags.toNat < 4 ∧ h.expectMask = 0) : headPasses h p :=
  ⟨e.1, by rw [e.2]; decide, Or.inl e.2⟩

theorem order_of {p : Machine.Part} {n : Lane} {link : Half} {h : OrderHead}
    (q : p.port.inReset = false ∧ p.agenda = [] ∧ p.writes = [] ∧ p.forced = [] ∧
      ∀ l : Lane, (p.lane l).waitKind ≠ some .hold)
    (h' : p.takesNow n = some link ∧ linkValid link = true) (e : h.flags.toNat < 4 ∧ h.expectMask = 0) :
    (on p).TakesOrder n link h := ⟨takes_of (quiet_of q) h', passes_of e⟩

theorem deck_quiet : (on deck).Quiet := quiet_of (by decide)
theorem deck_takes : (on deck).TakesOrder 0 48 head0 := order_of (by decide) (by decide) (by decide)
theorem deck_takes_wait : (on deck).TakesOrder 0 48 headWait := order_of (by decide) (by decide) (by decide)
theorem deck_takes_standing : (on deck).TakesOrder 0 48 headStanding := order_of (by decide) (by decide) (by decide)

/-! ### Well-formedness and the table's words -/

theorem test_cut_short_write_is_ignored : (Instr.ignoredRegisterWrite 1 0 23).wellFormed = true := by decide
theorem test_whole_control_write_is_not_ignored : (Instr.ignoredRegisterWrite 1 0 24).wellFormed = false := by decide
theorem test_whole_signal_write_is_not_ignored : (Instr.ignoredRegisterWrite 2 0 24).wellFormed = false := by decide
theorem test_write_of_id_is_ignored : (Instr.ignoredRegisterWrite 0 0 24).wellFormed = true := by decide
theorem test_long_write_is_no_transaction : (Instr.ignoredRegisterWrite 0 0 25).wellFormed = false := by decide
theorem test_empty_reply_is_none : (Instr.reply []).wellFormed = false := by decide
theorem test_reply_of_a_byte : (Instr.reply [0]).wellFormed = true := by decide
theorem test_no_word_spells_a_command : decodeTableWord 16 0x3401 = none := by decide

/-! ### What meets the hypotheses: the machine and its registers -/

theorem witness_StepRunsFrontCommand :
    ({ on deck with pending := [.rescan, .poll] } : State).pending = .rescan :: [.poll] ∧ State.reset.pending = [] := by
  decide

theorem witness_StepKeepsInvariant :
    State.reset.Inv ∧ ∃ t, step { State.reset with pending := [.intEn true] } = .next t :=
  ⟨⟨rfl, ⟨rfl, rfl⟩, rfl, rfl, rfl⟩, _, rfl⟩

theorem witness_NothingHappensInReset :
    (after .softReset (on deck)).part.port.inReset = true ∧ Instr.deckTick ≠ .powerOnReset ∧ Instr.deckTick ≠ .resetEnd := by
  decide

def laidOut : List Host.Cell := writeCells [] (cellsFrom 0 (halfBytes 1))

theorem witness_ResetEndReadsLayout :
    (State.reset.part.port.partState = .starting ∧ State.reset.part.port.nResetLow = false ∧ State.reset.part.agenda = [] ∧
        State.reset.part.settled ∧ (∀ n, (State.reset.part.lane n).waitKind ≠ some .hold)) ∧
      (Memory.wf State.reset.mem = true ∧ readHalf State.reset.mem 0 ≠ 1) ∧ Memory.wf laidOut = true ∧ readHalf laidOut 0 = 1 :=
  ⟨⟨rfl, rfl, rfl, ⟨rfl, rfl⟩, by decide⟩, by decide, by decide⟩

/-- Lane 1 RESTING, lane 2 STOPPED, lane 0 WORKING, lane 3 IDLE. -/
def fourLanes : Machine.Part :=
  (deck.setLane 1 { LaneContext.reset with state := .resting, anchor := .start }).setLane 2
    { LaneContext.reset with state := .stopped, cause := some .cancelled }

/-- A record in slot 48 with this image. -/
def heldOf (h : OrderHead) (k : OrderKind) (params : List Byte) : HeldRecord :=
  { link := 48, standing := h.standing, bytes := orderImage h k params, clamped := false }

def heldMove : HeldRecord := heldOf head0 .move (moveParams 0 0 0 600)

/-- Lane 0 waits for the entry of mover 0, which lane 1 holds. -/
def claimWait : Machine.Part :=
  { ((deck.setLane 0 { taker with
        state := .waiting, link := none, current := some heldMove, waitKind := some .claim }).setClaim 0
      { holder := some 1, kind := some .group, level := 1, saved := none, status := .none }) with
    waiters := [{ lane := 0, need := 1, isGroup := false, start := 0, timer := 0 }] }

theorem holds_valid {p : Machine.Part} (h : ∀ n, (∀ x ∈ (p.lane n).current, linkValid x.link = true) ∧
    ∀ l ∈ (p.lane n).nest, linkValid l.record.link = true) : ∀ n held, holdsRecord p n held → linkValid held.link = true := by
  rintro n held (now | ⟨l, inNest, rfl⟩)
  exacts [(h n).1 held now, (h n).2 l inNest]

theorem holds_none {p : Machine.Part} (h : ∀ n, (p.lane n).current = none ∧ (p.lane n).nest = []) :
    ∀ n held, ¬ holdsRecord p n held := by
  rintro n held (now | ⟨l, inNest, -⟩)
  · simp [(h n).1] at now
  · simp [(h n).2] at inNest

/-- A burst of slot 51 waits, and lane 0 holds a record. -/
def interruptible : Machine.Part := claimWait.setSlot 51 { deck.slot 51 with waiting := true, shadow := 0xFFFF }

theorem witness_ResetsLeaveDefaults :
    (interruptible.port.inReset = false ∧ Memory.wf (on interruptible).mem = true ∧
        (∀ n held, holdsRecord interruptible n held → linkValid held.link = true) ∧
        (interruptible.slot 51).waiting = true ∧ holdsRecord interruptible 0 heldMove) ∧
      (deck.port.inReset = false ∧ (∀ j, (deck.slot j).waiting = false) ∧ ∀ n held, ¬ holdsRecord deck n held) :=
  ⟨⟨by decide, by decide, holds_valid (by decide), by decide, Or.inl (by decide)⟩, by decide, by decide,
   holds_none (by decide)⟩

def heldHold (condition : Byte) : HeldRecord := heldOf head0 .hold (holdParams 100 condition 0 0)

/-- Lane 0 waits in a HOLD whose time has run out. -/
def holding (condition : Byte) : Machine.Part :=
  deck.setLane 0 { taker with
    state := .waiting, link := none, current := some (heldHold condition), waitKind := some .hold, holdTimer := some 0,
    holdMarks := 100 }

theorem holding_quiet (condition : Byte) : (on (holding condition)).QuietBut (some 0) := by
  refine ⟨rfl, rfl, ⟨rfl, rfl⟩, rfl, ?_⟩
  intro l hl
  have h0 : (0 : Lane) ≠ l := fun e => hl (by rw [e])
  show ((holding condition).lane l).waitKind ≠ some .hold
  unfold holding
  rw [Part.setLane_ne _ _ h0]
  revert l
  decide

/-- A quiet part is quiet but for any lane. -/
theorem quietBut_of {s : State} {n : Option Lane} (h : s.Quiet) : s.QuietBut n :=
  ⟨h.running, h.agenda, h.settled, h.mem, fun l _ => h.noHold l (by simp)⟩

theorem unwaited_of {p : Machine.Part} {n : Lane} (h : (∀ m, (p.mover m).motion.waiting ≠ some n) ∧
    (∀ d, (p.door d).waiting ≠ some n) ∧ ∀ e ∈ p.calls.entries, n ∉ e.waiting) : p.Unwaited n := ⟨h.1, h.2.1, h.2.2⟩

/-- The record of a GROUP OPEN in slot 60. -/
def openRecord (mode : Byte) (claimSet : Word) : HeldRecord :=
  { link := 60, standing := false, bytes := orderImage head0 .groupOpen (groupParams mode claimSet), clamped := false }

def level0 : Level :=
  { record := openRecord 0 0x101, opened := 0x101, claimSet := 0x101, returns := false, inDetour := false }

def groupClaim (saved : Option Saved) : Claim :=
  { holder := some 0, kind := some .group, level := 1, saved := saved, status := .none }

/-- Lane 0 with one HALT level that claims the ramp and door 0. -/
def grouped : Machine.Part :=
  ((deck.setLane 0 { taker with nest := [level0] }).setClaim 0 (groupClaim none)).setClaim 8 (groupClaim none)

/-- The same after the lane's record in slot 47. -/
def anchored : Machine.Part := grouped.setLane 0 { taker with nest := [level0], anchor := .record 47 }

def abort0 (cause : AbortCause) : AbortRecord :=
  { cause := cause, code := 3, depth := 1, link := 47, returnIncomplete := false, furtherCause := false, stopCause := none,
    badLink := none, returns := true }

/-- Lane 0 in ABORTING while the ramp stops. -/
def aborting (cause : AbortCause) : Machine.Part :=
  (anchored.setLane 0 { taker with
    state := .aborting, link := none, nest := [level0], anchor := .record 47, abort := some (abort0 cause) }).setMover 0
    { idleMover with motion := { idleMover.motion with state := .stopping, target := some 600 } }

/-- What meets the hypotheses of a cancel of lane 0 that waits, has an open group or is in ABORTING. -/
theorem witness_cancelEnds :
    ((on (holding 3)).QuietBut (some 0) ∧ (on claimWait).QuietBut (some 0) ∧ (holding 3).Unwaited 0 ∧ claimWait.Unwaited 0 ∧
        ((holding 3).lane 0).nest = [] ∧ ((holding 3).lane 0).current = some (heldHold 3) ∧
        ((holding 3).lane 0).waitKind = some .hold ∧ imageKind (heldHold 3).bytes = some .hold ∧ (holding 3).waiters = [] ∧
        ((holding 3).lane 0).state = .waiting) ∧
      ((claimWait.lane 0).state = .waiting ∧ (claimWait.lane 0).nest = [] ∧ (claimWait.lane 0).current = some heldMove ∧
        (claimWait.lane 0).waitKind = some .claim ∧ linkValid 48 = true) ∧
      ((on anchored).Quiet ∧ anchored.Unwaited 0 ∧ (anchored.lane 0).state = .working ∧ (anchored.lane 0).current = none ∧
        (anchored.lane 0).waitKind = none ∧ (anchored.lane 0).nest = [level0] ∧ (anchored.lane 0).anchor = .record 47 ∧
        linkValid level0.record.link = true ∧ anchored.waiters = [] ∧
        ∀ e, (anchored.claim e).inNest 0 = true → anchored.steady e = true ∧ (anchored.claim e).status ≠ .pending) ∧
      (∀ cause ∈ [AbortCause.zone, .cancel], (on (aborting cause)).Quiet ∧ ((aborting cause).lane 0).state = .aborting ∧
        ((aborting cause).lane 0).abort = some (abort0 cause) ∧ ((aborting cause).lane 0).nest ≠ [] ∧
        ((aborting cause).claim 0).inNest 0 = true ∧ (aborting cause).steady 0 = false ∧
        (∀ e, (((aborting cause).claim e).status ≠ .underWay ∧ ((aborting cause).claim e).status ≠ .pending))) := by
  refine ⟨⟨holding_quiet 3, quietBut_of (quiet_of ?_), unwaited_of ?_, unwaited_of ?_, ?_⟩, ?_,
    ⟨quiet_of ?_, unwaited_of ?_, ?_⟩, ?_⟩
  iterate 8 decide
  intro cause h
  simp only [List.mem_cons, List.not_mem_nil, or_false] at h
  rcases h with rfl | rfl
  · exact ⟨quiet_of (by decide), by decide⟩
  · exact ⟨quiet_of (by decide), by decide⟩

def interrupting : Machine.Part :=
  let p := deck.setSlot 3 { deck.slot 3 with notify := true, seen := 1 }
  { p with board := { p.board with pendingCount := 1, lowest := some 3 } }

theorem witness_ControlWritesTakeEffect :
    ((on deck).Quiet ∧ deck.intHolds) ∧ ((on interrupting).Quiet ∧ interrupting.intHolds) ∧
      ((on fourLanes).Quiet ∧
        (∀ n, (fourLanes.lane n).nest = [] ∧ (fourLanes.lane n).current = none ∧ (fourLanes.lane n).state ≠ .waiting ∧
          (fourLanes.lane n).state ≠ .aborting) ∧ fourLanes.port.lanesEnable = true) ∧
      ∀ p ∈ [holding 3, claimWait, anchored, aborting .zone, aborting .cancel], p.port.lanesEnable = true ∧
        ∀ l, l ≠ 0 → (p.lane l).state = .idle ∨ (p.lane l).state = .stopped := by
  refine ⟨⟨deck_quiet, by decide, by decide, by decide⟩, ⟨quiet_of ?_, by decide, by decide, by decide⟩,
    ⟨quiet_of ?_, ?_⟩, ?_⟩ <;> decide

def planWait : Machine.Part := { fourLanes with port := { fourLanes.port with partState := .planWait } }
def lanesOff : Machine.Part := { fourLanes with port := { fourLanes.port with lanesEnable := false } }
def layoutWait : Machine.Part := { deck with port := { deck.port with partState := .layoutWait } }

theorem witness_StartBeginsAtStartLink :
    ((on fourLanes).Quiet ∧ (fourLanes.lane 2).state = .stopped ∧ fourLanes.port.lanesEnable = true ∧
        fourLanes.port.partState = .ready ∧ (fourLanes.lane 0).state = .working ∧ (fourLanes.lane 1).state = .resting) ∧
      ((on planWait).Quiet ∧ (planWait.lane 3).state = .idle ∧ planWait.port.lanesEnable = true ∧
        planWait.port.partState = .planWait) ∧
      ((on lanesOff).Quiet ∧ (lanesOff.lane 3).state ≠ .resting ∧ lanesOff.port.lanesEnable = false) ∧
      (on layoutWait).Quiet ∧ (layoutWait.lane 3).state ≠ .resting ∧ layoutWait.port.partState = .layoutWait := by
  refine ⟨⟨quiet_of ?_, ?_⟩, ⟨quiet_of ?_, ?_⟩, ⟨quiet_of ?_, ?_⟩, quiet_of ?_, ?_⟩ <;> decide

theorem witness_CancelStopsLane :
    (on fourLanes).Quiet ∧ (∀ n, (fourLanes.lane n).nest = [] ∧ (fourLanes.lane n).current = none) ∧
      (fourLanes.lane 0).state = .working ∧ (fourLanes.lane 1).state = .resting ∧ (fourLanes.lane 2).state = .stopped ∧
      (fourLanes.lane 3).state = .idle := by
  refine ⟨quiet_of ?_, ?_⟩ <;> decide

theorem witness_RescanByPartState :
    ((on layoutWait).Quiet ∧ layoutWait.port.partState = .layoutWait) ∧
      ((on deck).Quiet ∧ deck.port.partState = .ready ∧ ∀ n, (deck.lane n).state ≠ .resting) ∧
      (on planWait).Quiet ∧ planWait.port.partState = .planWait ∧ (planWait.lane 1).state = .resting := by
  refine ⟨⟨quiet_of ?_, ?_⟩, ⟨quiet_of ?_, ?_⟩, quiet_of ?_, ?_⟩ <;> decide

/-! ### Time and timers -/

/-- One tick before the cycle count returns to 0 and the centisecond interval of 11 ticks ends. -/
def lastTick : Machine.Part :=
  { deck with time := { deck.time with cycleCount := 63, interval := 4, tickCount := 10 } }

theorem witness_DeckTickAdvancesDivider :
    ((on deck).Quiet ∧ nothingLeftOver deck) ∧ ((on lastTick).Quiet ∧ nothingLeftOver lastTick) := by
  refine ⟨⟨deck_quiet, ?_⟩, quiet_of (by decide), ?_⟩ <;> unfold nothingLeftOver <;> decide

def cycleDue : Machine.Part :=
  { deck with time := { deck.time with cycleDue := true }, field := { deck.field with cycleNumber := 63 } }

theorem witness_CycleStartFixesExchanges : (on cycleDue).Quiet ∧ cycleDue.time.cycleDue = true := by
  refine ⟨quiet_of ?_, ?_⟩ <;> decide

def checkDue : Machine.Part :=
  { (deck.setMover 0 { idleMover with motion := { idleMover.motion with state := .moving, target := some 600 } }) with
    time := { deck.time with checkDue := true } }

def checkRests : Machine.Part := { fourLanes with time := { deck.time with checkDue := true } }

theorem witness_CheckMarkStartsRead :
    ((on checkDue).Quiet ∧ checkDue.time.checkDue = true ∧ (∀ n, (checkDue.lane n).state ≠ .resting) ∧
        checkDue.equalised = true ∧ (checkDue.mover 0).motion.state.rewritten = true) ∧
      (on checkRests).Quiet ∧ checkRests.time.checkDue = true ∧ checkRests.equalised = true ∧
        (checkRests.lane 1).state = .resting := by
  refine ⟨⟨quiet_of ?_, ?_⟩, quiet_of ?_, ?_⟩ <;> decide

def markAt (k : Nat) : Machine.Part := { deck with time := { deck.time with markDue := true, interval := k } }

theorem witness_MarkAdvancesClock :
    ((on (markAt 0)).Quiet ∧ (markAt 0).time.markDue = true ∧ (markAt 0).time.restart = false ∧
        nothingExpired (markAt 0)) ∧
      ((on (markAt 99)).Quiet ∧ (markAt 99).time.markDue = true ∧ (markAt 99).time.restart = false ∧
        nothingExpired (markAt 99) ∧ (markAt 99).time.interval = 99) := by
  refine ⟨⟨quiet_of ?_, ?_⟩, quiet_of ?_, ?_⟩ <;> (try unfold nothingExpired) <;> decide

/-- Line 0 at the end of a period with all three demands, line 1 with none. -/
def periodEnds : Machine.Part :=
  (deck.setLine 0 { deck.line 0 with state := .running, counter := 511, endDue := true, fire := true, warn := true,
                                     chime := some 8 }).setLine 1
    { deck.line 1 with state := .stopping, counter := 511, endDue := true }

theorem witness_PeriodEndTakesHighestDemand :
    (on periodEnds).Quiet ∧ (periodEnds.line 0).endDue = true ∧ (periodEnds.line 1).endDue = true := by
  refine ⟨quiet_of ?_, ?_⟩ <;> decide

theorem witness_PostStartsStoppedLine :
    postsPattern deck 15 1 (postFire 15) ∧ postsPattern deck 11 2 (postWarn 11) ∧ postsPattern deck 0 8 (postChime 0 8) ∧
      (∀ k, (deck.line k).state = .stopped ∧ (deck.line k).fire = false ∧ (deck.line k).warn = false ∧
        (deck.line k).chime = none) ∧ 2 ≤ (deck.pattern 1).period ∧
      2 ≤ (deck.pattern 2).period ∧ 2 ≤ (deck.pattern 8).period := by
  refine ⟨Or.inl ⟨rfl, by decide⟩, Or.inr (Or.inl ⟨rfl, 11, rfl, by decide⟩), Or.inr (Or.inr rfl), by decide⟩

def stoppingFast : Motion :=
  { Motion.reset with
    state := .stopping, setpoint := some (256 * 1000), speed := 2560, target := some 100, stopLatch := true, up := true }
def movingFar : Motion :=
  { Motion.reset with state := .moving, setpoint := some (256 * 100), target := some 1000, up := true }

/-- As `movingFar`, with 2 counts to go, as many Q8 units as the speed and its braking distance. -/
def movingNear : Motion := { movingFar with setpoint := some (256 * 998), speed := 256 }

theorem witness_ProfileKeepsItsBounds :
    (∃ pm : PlanMover, pm = getAt plan0.movers 0 ∧ pm.lower ≤ pm.upper ∧ 1 ≤ pm.vc ∧ pm.vc ≤ pm.vapp ∧ pm.vapp ≤ pm.vmax ∧
      1 ≤ pm.accel ∧
      (stoppingFast.stopLatch = true ∧ stoppingFast.setpoint = some (256 * (pm.upper : Int)) ∧
        stoppingFast.speed = pm.vmax ∧ stoppingFast.share ≤ 100 ∧ stoppingFast.target = some pm.lower) ∧
      (movingFar.stopLatch = false ∧ movingFar.setpoint = some (256 * (pm.lower : Int)) ∧ movingFar.speed ≤ pm.vmax ∧
        movingFar.share ≤ 100 ∧ movingFar.target = some pm.upper ∧ movingFar.state = .moving ∧ movingFar.reversal = false ∧
        movingFar.up = decide ((256 * pm.lower : Int) < 256 * (pm.upper : Int)) ∧ movingFar.phase ≠ .decel ∧
        movingFar.speed * movingFar.speed / (2 * pm.accel) + movingFar.speed <
          (256 * (pm.upper : Int) - 256 * (pm.lower : Int)).natAbs) ∧
      (movingNear.setpoint = some (256 * 998) ∧ movingNear.up = decide ((256 * 998 : Int) < 256 * (pm.upper : Int)) ∧
        movingNear.phase ≠ .decel ∧ movingNear.speed * movingNear.speed / (2 * pm.accel) + movingNear.speed = 384 ∧
        (256 * (pm.upper : Int) - 256 * 998).natAbs = 512) ∧
      ({ movingNear with speed := 307 } : Motion).speed * 307 / (2 * pm.accel) + 307 = 491 ∧
      ({ movingNear with speed := 317 } : Motion).speed * 317 / (2 * pm.accel) + 317 = 513) ∧
      (Area.bit (fun _ => 1) (448 + 128 * (7 : MoverId).val) = true) :=
  ⟨⟨_, rfl, by decide⟩, by decide⟩

def confirmed : Machine.Part :=
  deck.setZone 1 { Zone.reset with level := .pre, confirmTimer := some 0 }

/-- `deck` with these zone entries in the plan for all zones. -/
def planned (f : PlanZone → PlanZone) (p : Machine.Part) : Machine.Part :=
  { p with plan := some { plan0 with zones := mapAll f plan0.zones } }

/-- Zone `k`'s confirm timer has run out. -/
def confirming (k : ZoneId) (p : Machine.Part) : Machine.Part :=
  p.setZone k { p.zone k with level := .pre, confirmTimer := some 0 }

def movingMover : Mover :=
  { idleMover with motion := { idleMover.motion with state := .moving, target := some 1000, speed := 256 } }

def openDoor0 : Machine.Part :=
  (deck.setDoor 0 { closedDoor with state := .opened }).setZone 0 { deck.zone 0 with notClosed := 1 }

def entry0 : CallEntry :=
  { id := 1, origin := .lane 0, priority := .urgent, message := 7, lines := 0x8001, repeats := 3, repeatsDone := 0,
    continues := false, chime := 0, state := .playing, interrupted := false, chimePending := false, cutReason := none,
    degraded := false, waiting := [], chimeLeft := none, chimeOnly := false, playSent := true }

/-- The part with an active call and a player in this state. -/
def calling (e : CallEntry) (pl : Player) : Machine.Part :=
  { deck with calls := { deck.calls with active := some e, nextId := 2 }, player := pl }

def player0 : Player := { deck.player with state := .playing, message := 7, length := 1200 }

def fireLoading : Machine.Part := confirming 0 (deck.setMover 0 movingMover)
def fireAuto : Machine.Part := confirming 0 (planned (fun z => { z with autoShut := true }) deck)
def fireOpen : Machine.Part := confirming 0 (planned (fun z => { z with autoShut := true }) openDoor0)
def fireCalls (message : Byte) : Machine.Part :=
  confirming 1 (planned (fun z => { z with fireMessage := message })
    (calling { entry0 with priority := .emergency } player0))
def fireAborts : Machine.Part := confirming 1 anchored

theorem witness_ConfirmExpiryEntersFire :
    ((on confirmed).Quiet ∧ (confirmed.zone 1).confirmTimer = some 0 ∧ (confirmed.zone 1).state = .secure ∧
        (confirmed.planZone 1).autoShut = false ∧ (confirmed.planZone 1).fireMessage = 0 ∧
        ∀ n, confirmed.nestEntries n = []) ∧
      ((on fireLoading).Quiet ∧ (fireLoading.zone 0).confirmTimer = some 0 ∧ (fireLoading.zone 0).state = .loading ∧
        (fireLoading.planZone 0).autoShut = false ∧ (fireLoading.planZone 0).fireMessage = 0 ∧ 0 ∈ fireLoading.zoneMovers 0 ∧
        (∀ n, fireLoading.nestEntries n = []) ∧ ∀ m ∈ fireLoading.zoneMovers 0,
          (fireLoading.mover m).motion.state = .moving ∧ (fireLoading.mover m).motion.waiting = none ∧
            (fireLoading.claim (fireLoading.entryOfMover m)).status ≠ .underWay) ∧
      ((on fireAuto).Quiet ∧ (fireAuto.zone 0).confirmTimer = some 0 ∧ (fireAuto.zone 0).state = .loading ∧
        (fireAuto.planZone 0).autoShut = true ∧ (fireAuto.planZone 0).fireMessage = 0 ∧
        (fireAuto.planZone 0).shutMessage = 0 ∧ (∀ n, fireAuto.nestEntries n = []) ∧
        (∀ m ∈ fireAuto.zoneMovers 0, (fireAuto.mover m).motion.state = .idle) ∧ (fireAuto.zone 0).notClosed = 0 ∧
        (∀ d ∈ fireAuto.zoneDoors 0, (fireAuto.door d).state = .closed) ∧ ∀ l, (fireAuto.lane l).state ≠ .waiting) ∧
      ((on fireOpen).Quiet ∧ (fireOpen.zone 0).confirmTimer = some 0 ∧ (fireOpen.zone 0).state = .loading ∧
        (fireOpen.planZone 0).autoShut = true ∧ fireOpen.zoneDoors 0 = [0] ∧ (fireOpen.zone 0).notClosed ≠ 0 ∧
        (fireOpen.door 0).state = .opened ∧ (fireOpen.planDoor 0).fireLead ≠ 0) ∧
      (∀ message ∈ [(20 : Byte), 21], (on (fireCalls message)).Quiet ∧
        ((fireCalls message).zone 1).confirmTimer = some 0 ∧ ((fireCalls message).planZone 1).autoShut = false ∧
        ((fireCalls message).zone 1).state = .secure ∧ ((fireCalls message).planZone 1).fireMessage = message) ∧
      ((fireCalls 21).messageLength 21 = 0 ∧ (fireCalls 20).messageLength 20 ≠ 0 ∧
        (fireCalls 20).calls.active = some { entry0 with priority := .emergency } ∧ (fireCalls 20).calls.queued < 16 ∧
        (fireCalls 20).calls.emergency = [] ∧
        ∀ e ∈ (fireCalls 20).calls.entries, e.id ≠ (fireCalls 20).calls.nextId) ∧
      ((on fireAborts).Quiet ∧ fireAborts.Unwaited 0 ∧ (fireAborts.zone 1).confirmTimer = some 0 ∧
        (fireAborts.planZone 1).autoShut = false ∧ (fireAborts.zone 1).state = .secure ∧
        (fireAborts.planZone 1).fireMessage = 0 ∧ (fireAborts.lane 0).state = .working ∧
        (fireAborts.lane 0).current = none ∧ (fireAborts.lane 0).waitKind = none ∧ (fireAborts.lane 0).nest = [level0] ∧
        (fireAborts.lane 0).anchor = .record 47 ∧ 1 ∈ fireAborts.doorZones 0 ∧
        (fireAborts.claim (doorEntry 0)).inNest 0 = true ∧
        (∀ e, (fireAborts.claim e).inNest 0 = true →
          fireAborts.steady e = true ∧ (fireAborts.claim e).status ≠ .pending) ∧
        (∀ i, i ≠ 0 → fireAborts.nestEntries i = []) ∧ fireAborts.waiters = []) := by
  refine ⟨⟨quiet_of ?_, ?_⟩, ⟨quiet_of ?_, ?_⟩, ⟨quiet_of ?_, ?_⟩, ⟨quiet_of ?_, ?_⟩, ?_, ?_,
    ⟨quiet_of ?_, unwaited_of ?_, ?_⟩⟩
  iterate 8 decide
  · intro message h
    simp only [List.mem_cons, List.not_mem_nil, or_false] at h
    rcases h with rfl | rfl
    · exact ⟨quiet_of (by decide), by decide⟩
    · exact ⟨quiet_of (by decide), by decide⟩
  all_goals decide

def brakeRuns : Machine.Part :=
  deck.setMover 0 { idleMover with motion := { idleMover.motion with
    state := .releasing, target := some 600, brakeTimer := some 0 } }
def settles : Machine.Part :=
  (deck.setMover 0 { idleMover with motion := { idleMover.motion with
    state := .settling, target := some 600, settleTimer := some 0 } }).setClaim 0 (implicitOf 3)

/-- Ramp 0 in this record, held by lane 0, in an exchange. -/
def replying (x : Mover) : Machine.Part :=
  { (deck.setMover 0 x).setClaim 0 (implicitOf 0) with
    field := { deck.field with
      exchange := some { station := moverStation 0, released := true, discard := false } } }

/-- The ramp's reply at position 500 with these flags: brake released 1, toe beam 2, local 4, fault 8. -/
def moverBytes (flags : Byte) : List Byte := sealFrame [0x80, flags, 0xF4, 0x01]

/-- The ramp once it has kept the reply. -/
def heardAs (x : Mover) (flags : Byte) : Mover :=
  ((replying x).moverHeard 0 flags (moverReplyOf (moverBytes flags))).mover 0

theorem answers_of {p : Machine.Part} {st : StationId} {released : Bool} {bytes : List Byte} (h : (on p).Quiet)
    (h' : p.field.exchange = some { station := st, released := released, discard := false } ∧
      replyLength st ≤ bytes.length ∧ replyValid st (bytes.take (replyLength st)) = true) :
    (on p).Answers st released bytes := ⟨h, h'.1, h'.2.1, h'.2.2⟩

theorem replying_answers (x : Mover) {flags : Byte} (h : replyLength (moverStation 0) ≤ (moverBytes flags).length ∧
    replyValid (moverStation 0) ((moverBytes flags).take (replyLength (moverStation 0))) = true) :
    (on (replying x)).Answers (moverStation 0) true (moverBytes flags) := by
  refine answers_of ⟨rfl, rfl, ⟨rfl, rfl⟩, rfl, ?_⟩ ⟨rfl, h⟩
  intro l _
  show (deck.lane l).waitKind ≠ some .hold
  revert l
  decide

/-- A ramp in this state, going up from count 500 to count 600. -/
def going (state : MoverState) : Mover :=
  { idleMover with motion := { idleMover.motion with
      state := state, target := some 600, up := true, speed := 256, phase := .cruise } }
def arriving : Mover := { going .moving with motion := { (going .moving).motion with setpoint := some (256 * 600 - 100) } }
def straying : Mover :=
  { movingMover with followRun := 7, motion := { movingMover.motion with setpoint := some (256 * 900), up := true } }
def releasingDown : Mover :=
  { going .releasing with motion := { (going .releasing).motion with target := some 400, up := false, brakeTimer := some 1 } }
def movingDown : Mover := { going .moving with motion := { (going .moving).motion with target := some 400, up := false } }

theorem goes_on (x : Mover) (flags : Byte) (mo : Motion)
    (h : (moverReplyOf (moverBytes flags)).brakeReleased = true ∧ x.motion.state = .moving ∧ x.motion.pending = none ∧
      x.motion.up = true ∧ mo = x.motion) :
    goesOnWith x (moverReplyOf (moverBytes flags)) true false mo :=
  ⟨h.1, Or.inr (Or.inl ⟨h.2.1, h.2.2.1, Or.inl h.2.2.2.1, h.2.2.2.2⟩)⟩

/-- What meets the hypotheses of a reply of the ramp's station, clause by clause. -/
theorem witness_moverReplyActs :
    (∀ x, (on (replying x)).Answers (moverStation 0) true (moverBytes 0) ∧
      (on (replying x)).Answers (moverStation 0) true (moverBytes 1) ∧
      (on (replying x)).Answers (moverStation 0) true (moverBytes 3) ∧
      (on (replying x)).Answers (moverStation 0) true (moverBytes 4) ∧
      (on (replying x)).Answers (moverStation 0) true (moverBytes 9) ∧
      (replying x).partner 0 = none ∧ (∀ d, ((replying x).door d).state ≠ .waitClear) ∧ (replying x).waiters = [] ∧
      (replying x).claim (moverEntry 0) = implicitOf 0) ∧
    (((heardAs (going .faulted) 4).motion.state = .faulted ∧ (heardAs (going .localMode) 4).motion.state = .localMode ∧
        (moverReplyOf (moverBytes 4)).localMode = true ∧ (heardAs (going .moving) 4).motion.state = .moving ∧
        (moverReplyOf (moverBytes 9)).localMode = false ∧ (moverReplyOf (moverBytes 9)).stationFault = true) ∧
      ((moverReplyOf (moverBytes 1)).localMode = false ∧ (moverReplyOf (moverBytes 1)).stationFault = false ∧
        (heardAs (going .offline) 1).motion.state = .offline ∧ (heardAs idleMover 1).motion.state = .idle) ∧
      (∀ state ∈ [MoverState.releasing, .moving, .stopping, .settling], (heardAs (going state) 0).motion.state = state ∧
        (heardAs (going state) 0).motion.pending = none ∧ (heardAs (going state) 0).motion.brakeTimer = none ∧
        (moverReplyOf (moverBytes 0)).brakeReleased = false) ∧
      ((heardAs releasingDown 3).motion.state = .releasing ∧ (heardAs releasingDown 3).motion.brakeTimer.isSome = true ∧
        (heardAs releasingDown 3).endJudged = false ∧ (heardAs releasingDown 3).motion.target = some 400 ∧
        (heardAs releasingDown 3).motion.setpoint = some (256 * 500) ∧ (moverReplyOf (moverBytes 3)).toeBroken = true ∧
        (moverReplyOf (moverBytes 1)).toeBroken = false ∧ (getAt plan0.movers 0).kind ≠ .panelEnd) ∧
      ((heardAs (going .settling) 1).motion.state = .settling ∧
        followAfter (getAt plan0.movers 0) (heardAs (going .settling) 1) (heardAs (going .settling) 1).sent < 8 ∧
        ((heardAs (going .settling) 1).sent : Int) = (moverReplyOf (moverBytes 1)).position ∧
        (heardAs { going .settling with settleRun := 3 } 1).settleRun = 3) ∧
      (heardAs { going .floating with motion := { (going .floating).motion with brakeJudged := true } } 1).motion.state =
        .floating) ∧
    ((goesOnWith (heardAs (going .moving) 1) (moverReplyOf (moverBytes 1)) true false (heardAs (going .moving) 1).motion ∧
        ((getAt plan0.movers 0).profile (heardAs (going .moving) 1).motion).settles = none ∧
        (roundQ8 (((getAt plan0.movers 0).profile (heardAs (going .moving) 1).motion).motion.setpoint.getD 0)).toNat = 502 ∧
        followAfter (getAt plan0.movers 0) (heardAs (going .moving) 1) 502 < 8) ∧
      (goesOnWith (heardAs straying 1) (moverReplyOf (moverBytes 1)) true false (heardAs straying 1).motion ∧
        (roundQ8 (((getAt plan0.movers 0).profile (heardAs straying 1).motion).motion.setpoint.getD 0)).toNat = 902 ∧
        followAfter (getAt plan0.movers 0) (heardAs straying 1) 902 = 8) ∧
      (goesOnWith (heardAs arriving 1) (moverReplyOf (moverBytes 1)) true false (heardAs arriving 1).motion ∧
        ((getAt plan0.movers 0).profile (heardAs arriving 1).motion).settles = some 600 ∧
        (getAt plan0.movers 0).settleLimit ≠ 0) ∧
      goesOnWith (heardAs (going .stopping) 1) (moverReplyOf (moverBytes 1)) true false (heardAs (going .stopping) 1).motion ∧
      goesOnWith (heardAs (going .releasing) 1) (moverReplyOf (moverBytes 1)) true false
        { (heardAs (going .releasing) 1).motion with
          state := .moving, phase := .accel, speed := 0, reversal := false, brakeJudged := true } ∧
      goesOnWith (heardAs movingDown 3) (moverReplyOf (moverBytes 3)) true false
        { (heardAs movingDown 3).motion with state := .stopping, stopLatch := true }) := by
  refine ⟨fun x => ⟨replying_answers x (by decide), replying_answers x (by decide), replying_answers x (by decide),
    replying_answers x (by decide), replying_answers x (by decide), ?_, ?_, rfl, ?_⟩, by decide,
    ⟨goes_on _ _ _ (by decide), by decide⟩, ⟨goes_on _ _ _ (by decide), by decide⟩,
    ⟨goes_on _ _ _ (by decide), by decide⟩, ⟨by decide, Or.inl (by decide)⟩,
    ⟨by decide, Or.inr (Or.inr (Or.inr (by decide)))⟩, ⟨by decide, Or.inr (Or.inr (Or.inl (by decide)))⟩⟩
  · show deck.partner 0 = none
    decide
  · show ∀ d, (deck.door d).state ≠ .waitClear
    decide
  · show getAt (setAt deck.claims 0 (implicitOf 0)) (moverEntry 0) = implicitOf 0
    decide

/-- Movers 2 and 5 are a pair, and mover 2's station is polled before mover 5's. -/
def pairPolled : Machine.Part :=
  { deck with
    plan := some { plan0 with movers := tableOf 8 (fun m => { getAt plan0.movers m with
      enabled := true, kind := .panelEnd, partner := if m = 2 then some 5 else if m = 5 then some 2 else none }) },
    field := { deck.field with
      due := [5], exchange := some { station := 2, released := false, discard := false } } }

/-- Ramp 0 in this record, held by lane 0, in an exchange of its station in this record. -/
def missing (st : Station) (x : Mover) : Machine.Part := (replying x).setStation (moverStation 0) st

/-- What meets the hypotheses of a miss of the ramp's station, at the misses 1, 2 and 3 and of a LOST station. -/
theorem witness_moverMissActs :
    (∀ st x, (on (missing st x)).Quiet ∧ ((missing st x).mover 0).step = x.step ∧
      (missing st x).field.exchange = some { station := moverStation 0, released := true, discard := false } ∧
      (missing st x).station (moverStation 0) = st) ∧
    (∀ st state, actsAlone (missing st (going state)) 0 ∧ ((missing st (going state)).mover 0).motion.state = state ∧
      ((missing st (going state)).mover 0).motion.pending = none ∧ ((missing st (going state)).mover 0).endJudged = false) ∧
    (online.state ≠ .lost ∧ online.misses + 1 < 3 ∧ ({ online with misses := 1 } : Station).misses + 1 < 3 ∧
      3 ≤ ({ online with misses := 2 } : Station).misses + 1) := by
  refine ⟨fun st x => ⟨⟨rfl, rfl, ⟨rfl, rfl⟩, rfl, ?_⟩, rfl, rfl, rfl⟩,
    fun st state => ⟨⟨rfl, rfl, ?_, rfl, Or.inr ⟨0, rfl⟩⟩, rfl, rfl, rfl⟩, by decide⟩
  · intro l _
    show (deck.lane l).waitKind ≠ some .hold
    revert l
    decide
  · show ∀ d, (deck.door d).state ≠ .waitClear
    decide

theorem witness_MoverTimersExpire :
    ((on brakeRuns).Quiet ∧ (brakeRuns.mover 0).motion.brakeTimer = some 0) ∧
      ((on settles).Quiet ∧ (settles.mover 0).motion.settleTimer = some 0 ∧
        (settles.mover 0).motion.state = .settling ∧ (settles.mover 0).motion.waiting = none ∧
        settles.claim (settles.entryOfMover 0) = implicitOf 3 ∧ settles.waiters = []) ∧
      ((on pairPolled).Answers (moverStation 2) false (sealFrame [0x82, 1, 0, 0]) ∧ pairPolled.partner 2 = some 5 ∧
        moverStation 5 ∈ pairPolled.field.due) := by
  refine ⟨⟨quiet_of ?_, ?_⟩, ⟨quiet_of ?_, ?_⟩, answers_of (quiet_of ?_) ?_, ?_⟩ <;> decide

def warning : Machine.Part :=
  deck.setDoor 0 { closedDoor with state := .warning, lead := 200, leadCounter := 200 }
def warningBusy : Machine.Part :=
  warning.setMover 0 { idleMover with motion := { idleMover.motion with state := .stopping } }
def closingLate : Machine.Part := deck.setDoor 0 { closedDoor with state := .closing, motionTimer := some 0 }
def retrying : Machine.Part :=
  deck.setDoor 0 { closedDoor with state := .retryWait, retryTimer := some 0, retries := 2, laneOrigin := true }

/-- Door 0 in this record, in an exchange. -/
def doorReplying (x : Door) : Machine.Part :=
  { deck.setDoor 0 x with
    field := { deck.field with
      exchange := some { station := doorStation 0, released := false, discard := false } } }

/-- The door's reply: open limit 1, closed limit 2, beam 4, edge 8, local 16, motor fault 32. -/
def doorBytes (flags : Byte) : List Byte := sealFrame [0x88, flags]

theorem doorReplying_quiet (x : Door) : (on (doorReplying x)).Quiet := by
  refine ⟨rfl, rfl, ⟨rfl, rfl⟩, rfl, ?_⟩
  intro l _
  show (deck.lane l).waitKind ≠ some .hold
  revert l
  decide

theorem doorReplying_answers (x : Door) {flags : Byte} (h : replyLength (doorStation 0) ≤ (doorBytes flags).length ∧
    replyValid (doorStation 0) ((doorBytes flags).take (replyLength (doorStation 0))) = true) :
    (on (doorReplying x)).Answers (doorStation 0) false (doorBytes flags) :=
  answers_of (doorReplying_quiet x) ⟨rfl, h⟩

/-- What meets the hypotheses of a reply of door 0's station: a door in any state, and a reply for each clause. -/
theorem witness_doorReplyActs :
    (∀ x, (on (doorReplying x)).Answers (doorStation 0) false (doorBytes 0) ∧
      (on (doorReplying x)).Answers (doorStation 0) false (doorBytes 1) ∧
      (on (doorReplying x)).Answers (doorStation 0) false (doorBytes 2) ∧
      (on (doorReplying x)).Answers (doorStation 0) false (doorBytes 3) ∧
      (on (doorReplying x)).Answers (doorStation 0) false (doorBytes 4) ∧
      (on (doorReplying x)).Answers (doorStation 0) false (doorBytes 8) ∧
      (on (doorReplying x)).Answers (doorStation 0) false (doorBytes 16) ∧
      (on (doorReplying x)).Answers (doorStation 0) false (doorBytes 32) ∧
      ((doorReplying x).claim (doorEntry 0)).holder = none ∧
      ∀ k ∈ (doorReplying x).doorZones 0, ((doorReplying x).zone k).state = .secure ∨ ((doorReplying x).zone k).state = .loading) ∧
    (∀ state forced, ((doorReplying { closedDoor with state := state, forced := forced }).door 0).state = state ∧
      ((doorReplying { closedDoor with state := state, forced := forced }).door 0).forced = forced ∧
      ((doorReplying { closedDoor with state := state, forced := forced }).door 0).waiting = none ∧
      ((doorReplying { closedDoor with state := state, forced := forced }).door 0).zoneOrigin = false ∧
      ((doorReplying { closedDoor with state := state, forced := forced }).planDoor 0).retryDelay ≠ 0) ∧
    (doorReplyOf (doorBytes 0) = DoorReply.clear ∧
      doorReplyOf (doorBytes 1) = { DoorReply.clear with openLimit := true } ∧
      doorReplyOf (doorBytes 2) = { DoorReply.clear with closedLimit := true } ∧
      doorReplyOf (doorBytes 3) = { DoorReply.clear with openLimit := true, closedLimit := true } ∧
      doorReplyOf (doorBytes 4) = { DoorReply.clear with beamBroken := true } ∧
      doorReplyOf (doorBytes 8) = { DoorReply.clear with edge := true } ∧
      doorReplyOf (doorBytes 16) = { DoorReply.clear with localMode := true } ∧
      doorReplyOf (doorBytes 32) = { DoorReply.clear with motorFault := true }) := by
  refine ⟨fun x => ⟨doorReplying_answers x ?_, doorReplying_answers x ?_, doorReplying_answers x ?_,
    doorReplying_answers x ?_, doorReplying_answers x ?_, doorReplying_answers x ?_, doorReplying_answers x ?_,
    doorReplying_answers x ?_, ?_, ?_⟩, ?_, ?_⟩
  iterate 8 decide
  · show (deck.claim (doorEntry 0)).holder = none
    decide
  · show ∀ k ∈ deck.doorZones 0, (deck.zone k).state = .secure ∨ (deck.zone k).state = .loading
    decide
  · intro state forced
    refine ⟨rfl, rfl, rfl, rfl, ?_⟩
    show (deck.planDoor 0).retryDelay ≠ 0
    decide
  · decide

/-- What meets the hypotheses of a miss of the door's station, at the misses 1 and 2 and of a LOST station. -/
theorem witness_doorMissActs :
    (∀ st x, (on ((doorReplying x).setStation (doorStation 0) st)).Quiet ∧
      ((doorReplying x).setStation (doorStation 0) st).field.exchange =
        some { station := doorStation 0, released := false, discard := false } ∧
      ((doorReplying x).setStation (doorStation 0) st).station (doorStation 0) = st ∧
      ((doorReplying x).setStation (doorStation 0) st).door 0 = x ∧
      (((doorReplying x).setStation (doorStation 0) st).claim (doorEntry 0)).holder = none ∧
      ∀ k ∈ ((doorReplying x).setStation (doorStation 0) st).doorZones 0,
        (((doorReplying x).setStation (doorStation 0) st).zone k).state = .secure ∨
          (((doorReplying x).setStation (doorStation 0) st).zone k).state = .loading) ∧
    (closedDoor.waiting = none ∧ closedDoor.state ≠ .faulted ∧ ({ closedDoor with link := .lost } : Door).link = .lost ∧
      online.state ≠ .lost ∧ online.misses + 1 < 2 ∧ 2 ≤ ({ online with misses := 1 } : Station).misses + 1) := by
  refine ⟨fun st x => ⟨⟨rfl, rfl, ⟨rfl, rfl⟩, rfl, ?_⟩, rfl, rfl, rfl, rfl, ?_⟩, by decide⟩
  · intro l _
    show (deck.lane l).waitKind ≠ some .hold
    revert l
    decide
  · show ∀ k ∈ deck.doorZones 0, (deck.zone k).state = .secure ∨ (deck.zone k).state = .loading
    decide

theorem witness_DoorTimersExpire :
    ((on warning).Quiet ∧ (warning.door 0).state = .warning ∧ (warning.door 0).lead ≤ (warning.door 0).leadCounter) ∧
      ((on warningBusy).Quiet ∧ (warningBusy.door 0).state = .warning ∧
        (warningBusy.door 0).lead ≤ (warningBusy.door 0).leadCounter) ∧
      ((on closingLate).Quiet ∧ (closingLate.door 0).waiting = none ∧ (closingLate.claim (doorEntry 0)).holder = none ∧
        (closingLate.door 0).motionTimer = some 0 ∧ (closingLate.door 0).state = .closing) ∧
      ((on retrying).Quiet ∧ (retrying.door 0).waiting = none ∧ (retrying.claim (doorEntry 0)).holder = none ∧
        (retrying.door 0).retryTimer = some 0 ∧ (retrying.door 0).state = .retryWait ∧
        (retrying.door 0).retries ≤ (retrying.planDoor 0).retries ∧
        retrying.chosenLead 0 (retrying.door 0) ≠ 0) := by
  refine ⟨⟨quiet_of ?_, ?_⟩, ⟨quiet_of ?_, ?_⟩, ⟨quiet_of ?_, ?_⟩, quiet_of ?_, ?_⟩ <;> decide

/-! ### The two serial links, waits and holds -/

def chimed : CallEntry := { entry0 with state := .chime, chimeLeft := some 0, playSent := false }

theorem witness_ChimeEndsAreCounted :
    ((on (calling chimed { player0 with state := .ready })).Quiet ∧ chimed.state = .chime ∧
        chimed.chimeLeft = some 0 ∧ chimed.chimeOnly = false ∧
        (calling chimed { player0 with state := .ready }).messageLength chimed.message ≠ 0) ∧
      ((on (calling { chimed with chimeOnly := true } { player0 with state := .fault })).Quiet ∧
        (calling { chimed with chimeOnly := true } { player0 with state := .fault }).messageLength chimed.message ≠ 0 ∧
        chimed.repeatsDone + 1 ≠ chimed.repeats) ∧
      ((on (calling { chimed with chimeOnly := true, repeats := 1 } { player0 with state := .fault })).Quiet ∧
        (calling { chimed with chimeOnly := true, repeats := 1 } { player0 with state := .fault }).calls.entries =
          [{ chimed with chimeOnly := true, repeats := 1 }] ∧ chimed.repeatsDone + 1 = 1 ∧ chimed.waiting = []) := by
  refine ⟨⟨quiet_of ?_, ?_⟩, ⟨quiet_of ?_, ?_⟩, quiet_of ?_, ?_⟩ <;> decide

def replyLate : Machine.Part := { deck with player := { player0 with replyTimer := some (.done, 0) } }
def probing : Machine.Part := { deck with player := { deck.player with state := .fault, probeTimer := some 0 } }

/-- A reply timer has run out with call `e` active. -/
def lateFor (e : CallEntry) : Machine.Part := calling e { player0 with replyTimer := some (.started, 0) }

theorem witness_PlayerTimersExpire :
    ((on replyLate).Quiet ∧ replyLate.player.replyTimer = some (.done, 0) ∧ replyLate.calls.active = none) ∧
      ((on probing).Quiet ∧ probing.player.state = .fault ∧ probing.player.probeTimer = some 0) ∧
      ((on (lateFor entry0)).Quiet ∧ (lateFor entry0).player.replyTimer = some (.started, 0) ∧
        (lateFor entry0).calls.active = some entry0 ∧ entry0.state = .playing) ∧
      ((on (lateFor chimed)).Quiet ∧ (lateFor chimed).player.replyTimer = some (.started, 0) ∧
        (lateFor chimed).calls.active = some chimed ∧ chimed.state = .chime) ∧
      ∃ q, (linkFaulted (lateFor entry0) (.timeout .started)).chimesOnly entry0 q := by
  refine ⟨⟨quiet_of ?_, ?_⟩, ⟨quiet_of ?_, ?_⟩, ⟨quiet_of ?_, ?_⟩, ⟨quiet_of ?_, ?_⟩, ?_⟩
  iterate 8 decide
  exact ⟨_, fun n h => by subst h; rfl⟩

/-- Entry `e` is lane 3's, with no claim wait limit where `limit` is 0. -/
def heldByThree (e : EntryId) (limit : Nat) : Machine.Part :=
  { deck.setClaim e { holder := some 3, kind := some .group, level := 1, saved := none, status := .none } with
    plan := some { plan0 with header := { plan0.header with claimWait := limit } } }

theorem heldByThree_takes (e : EntryId) (limit : Nat) : (on (heldByThree e limit)).TakesOrder 0 48 head0 := by
  refine ⟨⟨⟨rfl, rfl, ⟨rfl, rfl⟩, rfl, ?_⟩, ?_, ?_⟩, passes_of ?_⟩
  · intro l _
    show (deck.lane l).waitKind ≠ some .hold
    revert l
    decide
  · show deck.takesNow 0 = some 48
    decide
  · decide
  · decide

theorem witness_ClaimWaitExpiryEndsOrder :
    ((on claimWait).Quiet ∧
      claimWait.waiterOf 0 = some { lane := 0, need := 1, isGroup := false, start := 0, timer := 0 } ∧
      (claimWait.lane 0).current = some heldMove ∧ linkValid heldMove.link = true ∧ heldMove.clamped = false ∧
      heldMove.alternate ≠ 0 ∧ claimWait.conflict 0 1 = some 0 ∧ (claimWait.claim 0).holder = some 1) ∧
    (∀ e limit, (on (heldByThree e limit)).TakesOrder 0 48 head0) ∧
    (∀ limit ∈ [0, 500], (heldByThree 0 limit).inForce.header.claimWait = limit ∧ (heldByThree 0 limit).waiters = [] ∧
      (heldByThree 0 limit).plan.isSome = true ∧ ((heldByThree 0 limit).lane 0).nest = [] ∧
      ((heldByThree 0 limit).claim 0).holder = some 3 ∧ ((heldByThree 8 limit).claim 8).holder = some 3 ∧
      ((heldByThree 8 limit).lane 0).bridge = true ∧ (0 : EntryId) = (heldByThree 0 limit).entryOfMover 0 ∧
      (8 : EntryId) = doorEntry 0 ∧
      (∀ k ∈ [OrderKind.stopMover, .floatRamp], (heldByThree 0 limit).badField (orderImage head0 k [0]) = none) ∧
      (heldByThree 0 limit).badField (orderImage head0 .move (moveParams 0 0 0 600)) = none ∧
      ∀ k ∈ [OrderKind.closeDoor, .openDoor, .forceClose], (heldByThree 8 limit).badField (orderImage head0 k [0]) = none) := by
  refine ⟨⟨quiet_of ?_, ?_⟩, heldByThree_takes, ?_⟩ <;> decide

theorem witness_HoldEndsByTimeOrWake :
    ((on (holding 0xFF)).QuietBut (some 0) ∧ (on (holding 0)).QuietBut (some 0)) ∧
      (((holding 0xFF).lane 0).state = .waiting ∧ ((holding 0xFF).lane 0).waitKind = some .hold ∧
      ((holding 0xFF).lane 0).current = some (heldHold 0xFF) ∧ ((holding 0).lane 0).current = some (heldHold 0) ∧
      linkValid 48 = true ∧ (heldHold 0xFF).alternate ≠ 0 ∧ ((holding 0xFF).lane 0).holdTimer = some 0 ∧
      holdCondition (heldHold 0xFF).bytes = 0xFF ∧ holdCondition (heldHold 0).bytes ≠ 0xFF) ∧
      ((on claimWait).Quiet ∧ claimWait.Unwaited 0 ∧ (claimWait.lane 0).state = .waiting ∧
        (claimWait.lane 0).waitKind = some .claim ∧ (claimWait.lane 0).current = some heldMove ∧ heldMove.alternate ≠ 0) := by
  refine ⟨⟨holding_quiet _, holding_quiet _⟩, ?_, quiet_of ?_, unwaited_of ?_, ?_⟩ <;> decide

def pollDue : Machine.Part := { deck with field := { deck.field with due := [43, 0] } }

def pollNext (st : StationId) : Machine.Part := { deck with field := { deck.field with due := [st, 43] } }

theorem witness_PollBeginsExchange :
    ((on pollDue).Quiet ∧ pollDue.field.exchange = none ∧ pollDue.field.due = 43 :: [0] ∧
      (43 : StationId) = zoneStation 11) ∧
    ∀ st ∈ [moverStation 7, doorStation 23], (on (pollNext st)).Quiet ∧ (pollNext st).field.exchange = none ∧
      (pollNext st).field.due = st :: [43] := by
  refine ⟨⟨quiet_of ?_, ?_⟩, ?_⟩
  iterate 2 decide
  intro st h
  simp only [List.mem_cons, List.not_mem_nil, or_false] at h
  rcases h with rfl | rfl
  · exact ⟨quiet_of (by decide), by decide⟩
  · exact ⟨quiet_of (by decide), by decide⟩

/-- An exchange with zone 0's station, which has this record. -/
def exchanging (st : Station) : Machine.Part :=
  { deck with field := { deck.field with
    stations := setAt deck.field.stations (zoneStation 0) st,
    exchange := some { station := zoneStation 0, released := false, discard := false } } }

def normalReply : List Byte := sealFrame [0xA0, 0]
def losing : Station := { online with state := .missing, misses := 1 }

/-- Zone 0 in this record, in an exchange with its station in this one. -/
def zoneReplying (st : Station) (z : Zone) : Machine.Part := (exchanging st).setZone 0 z

def zoneBytes (b : Byte) : List Byte := sealFrame [0xA0, b]

theorem zoneReplying_answers (st : Station) (z : Zone) {b : Byte}
    (h : replyLength (zoneStation 0) ≤ (zoneBytes b).length ∧
      replyValid (zoneStation 0) ((zoneBytes b).take (replyLength (zoneStation 0))) = true) :
    (on (zoneReplying st z)).Answers (zoneStation 0) false (zoneBytes b) := by
  refine answers_of ⟨rfl, rfl, ⟨rfl, rfl⟩, rfl, ?_⟩ ⟨rfl, h⟩
  intro l _
  show (deck.lane l).waitKind ≠ some .hold
  revert l
  decide

def secureZone : Zone := { deck.zone 0 with state := .secure }
def lostStation : Station := { online with state := .lost, misses := 2 }

theorem witness_ZoneExchangeEnds :
    (∀ st z, (on (zoneReplying st z)).Answers (zoneStation 0) false (zoneBytes 0) ∧
        (on (zoneReplying st z)).Answers (zoneStation 0) false (zoneBytes 1) ∧
        (on (zoneReplying st z)).Answers (zoneStation 0) false (zoneBytes 2) ∧
        (on (zoneReplying st z)).Answers (zoneStation 0) false (zoneBytes 3) ∧
        (on (zoneReplying st z)).Answers (zoneStation 0) false (zoneBytes 7)) ∧
      (byteAt (zoneBytes 0) 1 &&& 7 = 0 ∧ byteAt (zoneBytes 1) 1 &&& 7 = 1 ∧ byteAt (zoneBytes 2) 1 &&& 7 = 2 ∧
        byteAt (zoneBytes 3) 1 &&& 7 = 3 ∧ byteAt (zoneBytes 7) 1 &&& 7 = 7) ∧
      (∀ level, ((zoneReplying online { secureZone with level := level }).zone 0).level = level ∧
        ((zoneReplying online { secureZone with level := level }).zone 0).detectionDisabled = false ∧
        ((zoneReplying online { secureZone with level := level }).zone 0).state = .secure) ∧
      (((zoneReplying lostStation { secureZone with level := .fault, detectionDisabled := true }).zone 0).level = .fault ∧
        ((zoneReplying lostStation { secureZone with level := .fault, detectionDisabled := true }).zone 0).detectionDisabled =
          true ∧
        ((zoneReplying lostStation { secureZone with level := .fault, detectionDisabled := true }).station
          (zoneStation 0)).state = .lost) ∧
      ((deck.planZone 0).confirm ≠ 0 ∧ (deck.planZone 0).autoShut = false ∧ (deck.planZone 0).fireMessage = 0 ∧
        ∀ n, deck.nestEntries n = []) ∧
      ((on (exchanging online)).Quiet ∧ (normalReply.take 3).length < replyLength (zoneStation 0) ∧
        replyLength (zoneStation 0) ≤ [(0xA0 : Byte), 0, 0, 0].length ∧
        replyValid (zoneStation 0) [0xA0, 0, 0, 0] = false) ∧
      (((exchanging online).station (zoneStation 0)).state = .online ∧
        ((exchanging online).station (zoneStation 0)).misses = 0) ∧
      ((on (exchanging losing)).Quiet ∧ ((exchanging losing).station (zoneStation 0)).state = .missing ∧
        ((exchanging losing).station (zoneStation 0)).misses = 1 ∧ ((exchanging losing).zone 0).fireLatched = false) := by
  refine ⟨fun st z => ⟨zoneReplying_answers st z ?_, zoneReplying_answers st z ?_, zoneReplying_answers st z ?_,
    zoneReplying_answers st z ?_, zoneReplying_answers st z ?_⟩, ?_, fun level => ⟨rfl, rfl, rfl⟩, ?_, ?_, ⟨quiet_of ?_, ?_⟩,
    ?_, quiet_of ?_, ?_⟩ <;> decide

def playing : Machine.Part := { deck with player := player0 }

/-- The last repeat plays, and call `f` is suspended. -/
def resuming (f : CallEntry) : Machine.Part :=
  { calling { entry0 with repeatsDone := 2 } player0 with
    calls := { deck.calls with active := some { entry0 with repeatsDone := 2 }, suspendedRoutine := some f, nextId := 10 } }

def suspended : CallEntry :=
  { entry0 with id := 9, priority := .routine, message := 20, lines := 3, repeats := 4, repeatsDone := 1,
                state := .suspended, playSent := false }

theorem serves_met (p : Machine.Part) (e : CallEntry) : ∃ q, p.Serves e q := by
  by_cases hf : p.player.state = .fault
  · exact ⟨_, fun _ n h => by subst h; rfl, fun h => absurd hf h, fun h => by simp [hf] at h,
      fun h => by simp [hf] at h⟩
  · by_cases hc : e.chimePending = true ∧ e.chime ≠ 0
    · refine ⟨_, fun h => absurd h hf, fun _ _ _ => rfl, fun _ h => ?_, fun _ h => ?_⟩ <;>
        exact absurd h (by simp [hc.1, hc.2])
    · by_cases hr : p.player.state = .ready
      · exact ⟨_, fun h => absurd h hf, fun _ a b => absurd ⟨a, b⟩ hc, fun _ _ => rfl, fun h => by simp [hr] at h⟩
      · exact ⟨_, fun h => absurd h hf, fun _ a b => absurd ⟨a, b⟩ hc, fun h => absurd h hr, fun _ _ => rfl⟩

theorem witness_PlayRepliesCount :
    ((on playing).Quiet ∧ playing.player.state = .playing ∧ playing.player.message = 7 ∧
        playing.player.startedSeen = false ∧ playing.calls.active = none) ∧
      ((on deck).Quiet ∧ deck.player.state ≠ .playing) ∧
      ((on (calling entry0 player0)).Quiet ∧ entry0.state = .playing ∧ entry0.playSent = true ∧
        entry0.repeatsDone + 1 ≠ entry0.repeats ∧ (calling entry0 player0).messageLength 7 ≠ 0) ∧
      ((∀ pending continues interrupted,
          let f := { suspended with chimePending := pending, continues := continues, interrupted := interrupted }
          (resuming f).player.state = .playing ∧ (resuming f).calls.active = some { entry0 with repeatsDone := 2 } ∧
            (resuming f).calls.emergency = [] ∧ (resuming f).calls.suspendedUrgent = none ∧
            (resuming f).calls.urgent = [] ∧ (resuming f).calls.suspendedRoutine = some f ∧
            ((resuming f).prune f).lines ≠ 0 ∧ (resuming f).messageLength f.message ≠ 0 ∧ f.repeatsDone + 1 ≠ f.repeats) ∧
        (on (resuming suspended)).Quiet ∧ (2 : Nat) + 1 = entry0.repeats ∧ entry0.waiting = []) ∧
      ∀ p e, ∃ q, Machine.Part.Serves p e q := by
  refine ⟨⟨quiet_of ?_, ?_⟩, ⟨quiet_of ?_, ?_⟩, ⟨quiet_of ?_, ?_⟩, ⟨?_, quiet_of ?_, ?_⟩, serves_met⟩ <;> decide

def cutting : Machine.Part := { deck with player := { player0 with state := .cutting } }

def cuttingCall (reason : CutReason) : CallEntry :=
  { entry0 with priority := .routine, state := .cutting, cutReason := some reason }

/-- A cut is outstanding, and the calls of the list `u` wait. -/
def cutFor (reason : CutReason) (u : List CallEntry) : Machine.Part :=
  { calling (cuttingCall reason) { player0 with state := .cutting } with
    calls := { deck.calls with active := some (cuttingCall reason), urgent := u, nextId := 10 } }

def urgent0 : CallEntry := { entry0 with id := 5, state := .queued, playSent := false, chimePending := true }

/-- The call waits for the link. -/
def waitingCall (state : PlayerState) : Machine.Part :=
  calling { entry0 with playSent := false } { player0 with state := state }

theorem witness_LinkFramesSetState :
    ((on deck).Quiet ∧ deck.calls.active = none ∧ deck.player.state = .unknown) ∧
      ((on cutting).Quiet ∧ cutting.calls.active = none ∧ cutting.player.state = .cutting) ∧
      ((on probing).Quiet ∧ probing.calls.active = none ∧ probing.player.state = .fault) ∧
      ((on (cutFor .cancel [])).Quiet ∧ (cutFor .cancel []).player.state = .cutting ∧
        (cutFor .cancel []).calls.active = some (cuttingCall .cancel) ∧
        (cutFor .cancel []).calls.entries = [cuttingCall .cancel] ∧ (cuttingCall .cancel).state = .cutting ∧
        (cuttingCall .cancel).cutReason = some .cancel ∧ (cuttingCall .cancel).waiting = []) ∧
      ((on (cutFor .preempt [urgent0])).Quiet ∧ (cutFor .preempt [urgent0]).calls.active = some (cuttingCall .preempt) ∧
        (cuttingCall .preempt).cutReason = some .preempt ∧ (cuttingCall .preempt).priority = .routine ∧
        (cutFor .preempt [urgent0]).calls.emergency = [] ∧ (cutFor .preempt [urgent0]).calls.suspendedUrgent = none ∧
        (cutFor .preempt [urgent0]).calls.urgent = urgent0 :: [] ∧ urgent0.priority = .urgent ∧ urgent0.lines ≠ 0 ∧
        (cutFor .preempt [urgent0]).messageLength urgent0.message ≠ 0) ∧
      ((on (waitingCall .unknown)).Quiet ∧ (on (waitingCall .fault)).Quiet ∧ (on (calling entry0 player0)).Quiet ∧
        (waitingCall .unknown).calls.active = some { entry0 with playSent := false } ∧
        (waitingCall .fault).player.state = .fault ∧ (waitingCall .unknown).messageLength entry0.message ≠ 0 ∧
        entry0.state = .playing ∧ (calling entry0 player0).player.state ≠ .fault) ∧
      ∃ q, (linkFaulted (calling entry0 player0) (.err 9)).chimesOnly entry0 q := by
  refine ⟨⟨quiet_of ?_, ?_⟩, ⟨quiet_of ?_, ?_⟩, ⟨quiet_of ?_, ?_⟩, ⟨quiet_of ?_, ?_⟩, ⟨quiet_of ?_, ?_⟩,
    ⟨quiet_of ?_, quiet_of ?_, quiet_of ?_, ?_⟩, ?_⟩
  iterate 14 decide
  exact ⟨_, fun n h => by subst h; rfl⟩

/-! ### The exchange port -/

def burstWaits : Machine.Part := deck.setSlot 51 { deck.slot 51 with waiting := true, shadow := 0xFFFF }

theorem witness_BoardWriteLayout : (on burstWaits).Quiet ∧ (burstWaits.slot 51).waiting = true := by
  refine ⟨quiet_of ?_, ?_⟩ <;> decide

def reading (r : ReadState) : Machine.Part := { deck with board := { deck.board with read := r } }

theorem witness_SeenReadUpdatesPending :
    ((on (reading .underWay)).Quiet ∧ (reading .underWay).board.read ≠ .idle) ∧
      ((on (reading .further)).Quiet ∧ (reading .further).board.read = .further) := by
  refine ⟨⟨quiet_of ?_, ?_⟩, quiet_of ?_, ?_⟩ <;> decide

theorem witness_EventHandsOverChangedSlots :
    deck.equalised = true ∧ fourLanes.equalised = true ∧ ¬ showsTheSame deck fourLanes 2 ∧
      (3 : SlotId) ∉ fourLanes.forced ∧ showsTheSame deck fourLanes 3 :=
  ⟨by decide, by decide, fun h => absurd (h.1 2 rfl).1 (by decide), by decide,
   by decide, by decide, by decide, by decide, fun h => absurd h (by decide), fun h => absurd h (by decide),
   fun h => absurd h (by decide), fun h => absurd h (by decide)⟩

theorem witness_HostWriteReadsBack :
    Memory.wf (on deck).mem = true ∧ 262142 % 2 = 0 ∧ 262142 < 262144 ∧ 262144 ≤ 262144 := by decide

theorem witness_RegisterReads :
    ((on deck).part.port.inReset = false ∧ deck.intHolds) ∧
      (nResetFalls (on deck)).part.port.nResetLow = true ∧ (on deck).part.port.nResetLow = false ∧
        (after .softReset (on deck)).part.port.inReset = true :=
  ⟨⟨rfl, by decide, by decide, by decide⟩, by decide⟩

/-! ### Lane control -/

theorem witness_MarkAndHaltLane :
    (on deck).TakesOrder 0 48 head0 ∧ deck.equalised = true ∧ (deck.lane 0).nest = [] :=
  ⟨deck_takes, by decide, by decide⟩

theorem witness_HoldMeetsOrWaits :
    ((on deck).TakesOrder 0 48 head0 ∧ holdFits 0 11 0 ∧ holdIsMet deck 0 0 11 0) ∧
      (holdFits 0xFF 0 0 ∧ ¬ holdIsMet deck 0 0xFF 0 0) := by
  refine ⟨⟨deck_takes, Or.inl (by decide), Or.inl ⟨rfl, 11, by decide⟩⟩,
    Or.inr (Or.inr (Or.inr (by decide))), ?_⟩
  rintro (⟨h, -⟩ | ⟨h, -⟩ | ⟨h, -⟩ | ⟨h, -⟩) <;> exact absurd h (by decide)

def detouring : Machine.Part := deck.setLane 0 { taker with returnAnchor := some 4095 }

theorem witness_DetourAndReturn :
    ((on deck).TakesOrder 0 48 head0 ∧ (deck.lane 0).returnAnchor = none ∧ head0.alternate ≠ 0) ∧
      ((on detouring).TakesOrder 0 48 head0 ∧ (detouring.lane 0).returnAnchor = some 4095) :=
  ⟨⟨deck_takes, by decide⟩, order_of (by decide) (by decide) (by decide), by decide⟩

theorem witness_SetClockSetsTime : (on deck).TakesOrder 0 48 head0 ∧ (deck.lane 0).bridge = true :=
  ⟨deck_takes, by decide⟩

def badLinks : Machine.Part := deck.setLane 0 { taker with link := some 4096 }

def badLinksGrouped : Machine.Part := grouped.setLane 0 { taker with nest := [level0], link := some 4096 }

theorem grouped_ends : endsAtOnce grouped 0 level0 :=
  ⟨by decide, by decide, by decide, by decide, by decide, by decide, unwaited_of (by decide)⟩

theorem badLinksGrouped_ends : endsAtOnce badLinksGrouped 0 level0 :=
  ⟨by decide, by decide, by decide, by decide, by decide, by decide, unwaited_of (by decide)⟩

theorem witness_LinksNameRecords :
    (linkValid 48 = true ∧ linkValid 4095 = true ∧ linkValid 47 = false ∧ linkValid 4096 = false) ∧
      ((on badLinks).Quiet ∧ badLinks.takesNow 0 = some 4096 ∧ (badLinks.lane 0).nest = []) ∧
      ((on deck).Quiet ∧ deck.takesNow 0 = some 48 ∧ (deck.lane 0).nest = [] ∧
        readByte (on deck).mem (slotBase 48) ≠ 1 ∧ readByte (on deck).mem (slotBase 48) ≠ 4) ∧
      (∀ p ∈ [grouped, badLinksGrouped], (on p).Quiet ∧ endsAtOnce p 0 level0 ∧ (p.lane 0).current = none ∧
        (p.lane 0).waitKind = none) ∧
      (badLinksGrouped.takesNow 0 = some 4096 ∧ grouped.takesNow 0 = some 48) ∧
      ((on deck).TakesOrder 0 48 head0 ∧ head0.alternate ≠ 0) := by
  refine ⟨by decide, ⟨quiet_of (by decide), by decide⟩, ⟨deck_quiet, by decide⟩, ?_, by decide, deck_takes, by decide⟩
  intro p h
  simp only [List.mem_cons, List.not_mem_nil, or_false] at h
  rcases h with rfl | rfl
  · exact ⟨quiet_of (by decide), grouped_ends, by decide⟩
  · exact ⟨quiet_of (by decide), badLinksGrouped_ends, by decide⟩

def markImage : List Byte := orderImage headStanding .mark (halfBytes 0xBEEF)
def recorded : State := { on deck with mem := writeCells [] (imageCells 48 markImage) }

theorem witness_LinkTakeIsTheOrder :
    Sys2Proof.Machine.orderOf (.mark 0 headStanding 0xBEEF) = some (0, headStanding, .mark, halfBytes 0xBEEF) ∧
      recorded.Takes 0 48 ∧ readImage recorded.mem 48 = markImage :=
  ⟨rfl, ⟨⟨rfl, rfl, ⟨rfl, rfl⟩, by decide, by decide⟩, by decide, by decide⟩, by decide⟩

def noPlan : Machine.Part := { deck with plan := none }
def noBridge : Machine.Part := deck.setLane 0 { taker with bridge := false }
def headExpect : OrderHead := { head0 with expectZone := 11, expectMask := 8 }

theorem fits_setSecure (p : Machine.Part) (e : OrderHead) (zone : Byte)
    (h : e.flags.toNat < 4 ∧ (e.expectMask = 0 ∨ e.expectZone.toNat ≤ 11) ∧ e.expectMask.toNat < 16 ∧ zone.toNat < 12) :
    ∀ f ∈ orderFields p e (.setSecure 0 e zone), f.2 := by
  intro f hf
  simp only [orderFields, operandFields, List.cons_append, List.nil_append, List.mem_cons, List.not_mem_nil, or_false] at hf
  rcases hf with rfl | rfl | rfl | rfl
  exacts [h.1, h.2.1, h.2.2.1, h.2.2.2]

theorem unfit_setSecure (p : Machine.Part) : firstUnfit (orderFields p head0 (.setSecure 0 head0 12)) 12 := by
  refine ⟨[(2, _), (8, _), (9, _)], _, [], rfl, by decide, ?_⟩
  intro f hf
  simp only [List.mem_cons, List.not_mem_nil, or_false] at hf
  rcases hf with rfl | rfl | rfl <;> decide

/-- A null alternate link. -/
def headNull : OrderHead := { head0 with alternate := 0 }

theorem witness_RefusedOrderRetires :
    ((on deck).Takes 0 48 ∧ head0.alternate ≠ 0 ∧
        firstUnfit (orderFields deck { head0 with flags := 4 } (.setSecure 0 { head0 with flags := 4 } 0)) 2 ∧
        firstUnfit (orderFields deck head0 (.setSecure 0 head0 12)) 12) ∧
      ((on noPlan).Takes 0 48 ∧ (∀ f ∈ orderFields noPlan head0 (.setSecure 0 head0 0), f.2) ∧ noPlan.plan = none ∧
        OrderKind.needsNoPlan .setSecure = false) ∧
      ((on noBridge).Takes 0 48 ∧ (∀ f ∈ orderFields noBridge head0 (.setClock 0 head0 1), f.2) ∧
        needsBridge (orderImage head0 .setClock (wordBytes 1)) .setClock = true ∧ (noBridge.lane 0).bridge = false) ∧
      ((∀ f ∈ orderFields deck headExpect (.setSecure 0 headExpect 0), f.2) ∧ headExpect.expectMask ≠ 0 ∧
        headExpect.expectMask.getLsbD (deck.zone 11).state.num = false) ∧
      ((on deck).Takes 0 48 ∧ (deck.lane 0).nest = [] ∧ (on grouped).Takes 0 48 ∧ endsAtOnce grouped 0 level0 ∧
        level0.record.link ≠ 48 ∧ headNull.alternate = 0 ∧
        firstUnfit (orderFields deck { headNull with flags := 4 } (.setSecure 0 { headNull with flags := 4 } 0)) 2 ∧
        firstUnfit (orderFields grouped { headNull with flags := 6 } (.setSecure 0 { headNull with flags := 6 } 0)) 2 ∧
        deck.equalised = true ∧ readHalf (on deck).mem 18 = 0 ∧ (deck.lane 0).headerLink = 0) := by
  refine ⟨⟨deck_takes.takes, by decide, ⟨[], _, _, rfl, by decide, by simp⟩, unfit_setSecure deck⟩,
    ⟨takes_of (quiet_of (by decide)) (by decide), fits_setSecure _ _ _ (by decide), by decide⟩,
    ⟨takes_of (quiet_of (by decide)) (by decide), ?_, by decide⟩, ⟨fits_setSecure _ _ _ (by decide), by decide⟩,
    deck_takes.takes, by decide, takes_of (quiet_of (by decide)) (by decide), grouped_ends, by decide, by decide,
    ⟨[], _, _, rfl, by decide, by simp⟩, ⟨[], _, _, rfl, by decide, by simp⟩, by decide⟩
  intro f hf
  simp only [orderFields, operandFields, List.append_nil, List.mem_cons, List.not_mem_nil, or_false] at hf
  rcases hf with rfl | rfl | rfl <;> decide

/-! ### Zone orders -/

/-- The deck with zone 0 in this record. -/
def zoneAt (z : Zone) : Machine.Part := deck.setZone 0 z
def zoneIn (state : ZoneState) : Machine.Part := zoneAt { deck.zone 0 with state := state }
def fireZone : Zone := { deck.zone 0 with state := .shut, fireLatched := true, level := .none }

theorem zoneAt_takes (z : Zone) : (on (zoneAt z)).TakesOrder 0 48 head0 := by
  refine ⟨⟨⟨rfl, rfl, ⟨rfl, rfl⟩, rfl, ?_⟩, ?_, ?_⟩, passes_of ?_⟩
  · intro l _
    show (deck.lane l).waitKind ≠ some .hold
    revert l
    decide
  · show deck.takesNow 0 = some 48
    decide
  · decide
  · decide

/-- What meets the hypotheses of an order that names a zone which the plan does not enable. -/
theorem witness_refusedOnDisabledZone :
    (on deck).TakesOrder 0 48 head0 ∧ deck.plan.isSome = true ∧ (deck.lane 0).bridge = true ∧
      (deck.planZone 2).enabled = false ∧ (deck.planZone 1).enabled = true ∧ head0.alternate ≠ 0 :=
  ⟨deck_takes, by decide⟩

theorem witness_SetLoadingByZoneState :
    ((on (zoneAt fireZone)).TakesOrder 0 48 head0 ∧ ((zoneAt fireZone).planZone 0).enabled = true ∧
        head0.alternate ≠ 0 ∧ ((zoneAt fireZone).zone 0).fireLatched = true) ∧
      (∀ state, (on (zoneIn state)).TakesOrder 0 48 head0 ∧ ((zoneIn state).zone 0).state = state ∧
        ((zoneIn state).zone 0).fireLatched = false) :=
  ⟨⟨zoneAt_takes _, by decide⟩, fun state => ⟨zoneAt_takes _, by cases state <;> decide, by cases state <;> decide⟩⟩

/-- Zone 0 LOADING with its ramp FLOATING. -/
def floating : Machine.Part :=
  deck.setMover 0 { idleMover with motion := { idleMover.motion with state := .floating, setpoint := none } }

theorem witness_SetSecureByZoneState :
    ((on floating).TakesOrder 0 48 head0 ∧ (floating.planZone 0).enabled = true ∧ (floating.zone 0).state = .loading ∧
        0 ∈ floating.zoneMovers 0 ∧
        (floating.mover 0).motion.state ∈ [MoverState.releasing, .moving, .stopping, .settling, .floating]) ∧
      ((on deck).TakesOrder 0 48 head0 ∧ (deck.zone 0).state = .loading ∧ ∀ m ∈ deck.zoneMovers 0,
        (deck.mover m).motion.state ∉ [MoverState.releasing, .moving, .stopping, .settling, .floating]) ∧
      ((zoneIn .shutting).zone 0).state = .shutting ∧ ((zoneIn .shut).zone 0).state = .shut ∧
      ((zoneIn .secure).zone 0).state = .secure :=
  ⟨⟨order_of (by decide) (by decide) (by decide), by decide⟩, ⟨deck_takes, by decide⟩, by decide⟩

def movingDeck : Machine.Part := deck.setMover 0 movingMover

theorem witness_ShutZoneByZoneState :
    ((on deck).TakesOrder 0 48 head0 ∧ (on deck).TakesOrder 0 48 headWait ∧ headWaits head0 = false ∧
        headWaits headWait = true) ∧
      ((deck.planZone 0).enabled = true ∧ (∀ l, (deck.lane l).state ≠ .waiting) ∧ (deck.zone 0).state = .loading ∧
        (deck.zone 0).notClosed = 0 ∧ 0 ∈ deck.zoneDoors 0 ∧ (∀ d ∈ deck.zoneDoors 0, (deck.door d).state = .closed) ∧
        (∀ m ∈ deck.zoneMovers 0, (deck.mover m).motion.state ≠ .releasing ∧ (deck.mover m).motion.state ≠ .moving) ∧
        (deck.planZone 0).shutMessage = 0 ∧ (∀ l, deck.nestEntries l = [])) ∧
      (((zoneIn .shutting).zone 0).state = .shutting ∧ ((zoneIn .shut).zone 0).state = .shut) ∧
      ((on movingDeck).TakesOrder 0 48 head0 ∧ (movingDeck.zone 0).notClosed = 0 ∧ 0 ∈ movingDeck.zoneMovers 0 ∧
        (∀ l, movingDeck.nestEntries l = []) ∧ ∀ m ∈ movingDeck.zoneMovers 0, (movingDeck.mover m).motion.state = .moving ∧
          (movingDeck.mover m).motion.waiting = none ∧ (movingDeck.claim (movingDeck.entryOfMover m)).status ≠ .underWay) ∧
      ((on openDoor0).TakesOrder 0 48 head0 ∧ (on openDoor0).TakesOrder 0 48 headWait ∧ (openDoor0.zone 0).state = .loading ∧
        (openDoor0.zone 0).notClosed ≠ 0 ∧ openDoor0.zoneDoors 0 = [0] ∧ (openDoor0.door 0).state = .opened ∧
        (∀ m ∈ openDoor0.zoneMovers 0, (openDoor0.mover m).motion.state = .idle) ∧
        (∀ l, openDoor0.nestEntries l = []) ∧ (openDoor0.planDoor 0).lead ≠ 0 ∧ (openDoor0.planDoor 0).fireLead ≠ 0) :=
  ⟨⟨deck_takes, deck_takes_wait, by decide⟩, by decide, by decide,
    ⟨order_of (by decide) (by decide) (by decide), by decide⟩,
    order_of (by decide) (by decide) (by decide), order_of (by decide) (by decide) (by decide), by decide⟩

theorem witness_ReopenZoneByZoneState :
    ((on (zoneAt fireZone)).TakesOrder 0 48 head0 ∧ ((zoneAt fireZone).lane 0).bridge = true ∧
        ((zoneAt fireZone).zone 0).fireLatched = true ∧ ((zoneAt fireZone).zone 0).state ≠ .shutting) ∧
      (∀ state, (on (zoneIn state)).TakesOrder 0 48 head0 ∧ ((zoneIn state).zone 0).state = state ∧
        ((zoneIn state).zone 0).fireLatched = false) :=
  ⟨⟨zoneAt_takes _, by decide⟩, fun state => ⟨zoneAt_takes _, by cases state <;> decide, by cases state <;> decide⟩⟩

def disabledZone : Zone := { deck.zone 0 with detectionDisabled := true, loop := some .loopFault }
def lostZone : Zone := { deck.zone 0 with link := .lost, level := .fault }

theorem witness_DetectionOrdersSetFlag :
    (∀ z, (on (zoneAt z)).TakesOrder 0 48 head0 ∧ (zoneAt z).zone 0 = z ∧ ((zoneAt z).lane 0).bridge = true) ∧
      ((deck.planZone 0).enabled = true ∧ head0.alternate ≠ 0 ∧ (deck.planZone 0).confirm ≠ 0 ∧
        (deck.planZone 0).autoShut = false ∧ (deck.planZone 0).fireMessage = 0 ∧ ∀ i, deck.nestEntries i = []) ∧
      ((deck.zone 0).level ≠ .fire ∧ (deck.zone 0).fireLatched = false ∧ (deck.zone 0).detectionDisabled = false) ∧
      fireZone.fireLatched = true ∧ (lostZone.level = .fault ∧ lostZone.link = .lost) ∧
      (disabledZone.detectionDisabled = true ∧ disabledZone.link = .online ∧ disabledZone.loop = some .loopFault ∧
        disabledZone.level ≠ .fire) ∧
      ({ disabledZone with link := .unknown, loop := none } : Zone).link ≠ .online ∧
      ({ disabledZone with fireLatched := true, level := .fire } : Zone).level = .fire ∧
      ({ disabledZone with loop := some .one } : Zone).level = .none ∧
      ({ disabledZone with loop := some .two, state := .secure } : Zone).state = .secure := by
  refine ⟨fun z => ⟨zoneAt_takes _, rfl, ?_⟩, ?_, ?_, ?_, ?_, ?_, ?_, ?_, ?_, ?_⟩
  · show (deck.lane 0).bridge = true
    decide
  all_goals decide

def alarmed : Zone := { deck.zone 0 with fireLatched := true, level := .fire, loop := some .two }

theorem witness_ResetAlarmClearsFire :
    ((on (zoneAt alarmed)).TakesOrder 0 48 head0 ∧ ((zoneAt alarmed).zone 0).link = .online ∧
        ((zoneAt alarmed).zone 0).loop = some .two ∧ head0.alternate ≠ 0) ∧
      ((on (zoneAt { alarmed with link := .lost })).TakesOrder 0 48 head0 ∧
        ((zoneAt { alarmed with link := .lost }).zone 0).link = .lost) ∧
      ((on (zoneAt { alarmed with loop := some .loopFault })).TakesOrder 0 48 head0 ∧
        ((zoneAt { alarmed with loop := some .loopFault }).zone 0).callPoint = false) ∧
      ((on (zoneAt { alarmed with loop := some .normal })).TakesOrder 0 48 head0 ∧
        ((zoneAt { alarmed with loop := some .normal }).zone 0).loop = some .normal) :=
  ⟨⟨zoneAt_takes _, by decide⟩, ⟨zoneAt_takes _, by decide⟩, ⟨zoneAt_takes _, by decide⟩, zoneAt_takes _, by decide⟩

/-! ### Mover orders -/

/-- The deck with mover 0 in this record. -/
def moverAt (x : Mover) : Machine.Part := deck.setMover 0 x

theorem moverAt_takes (x : Mover) {h : OrderHead} (e : h.flags.toNat < 4 ∧ h.expectMask = 0) :
    (on (moverAt x)).TakesOrder 0 48 h := by
  refine ⟨⟨⟨rfl, rfl, ⟨rfl, rfl⟩, rfl, ?_⟩, ?_, ?_⟩, passes_of e⟩
  · intro l _
    show (deck.lane l).waitKind ≠ some .hold
    revert l
    decide
  · show deck.takesNow 0 = some 48
    decide
  · decide

/-- Ramp 0 and mover 1, tied by these prerequisites with preset 1 at count 500 (Table 2-5). -/
def tied (pre0 pre1 : Option MoverId) (x : Mover) : Machine.Part :=
  { deck.setMover 1 x with plan := some { plan0 with movers := tableOf 8 (fun m => { getAt plan0.movers m with
      enabled := decide (m.val < 2), presets := Vector.replicate 8 500,
      prerequisite := if m = 0 then pre0 else if m = 1 then pre1 else none }) } }

theorem witness_MoveTestsInOrder :
    (deck.partner 0 = none ∧ (deck.mover 0).motion.state = .idle ∧ (deck.mover 0).motion.setpoint = some (256 * 500)) ∧
      (askedTarget (deck.planMover 0) 0 1001 (256 * 500) 1001 ∧ askedTarget (deck.planMover 0) 1 (-1) (256 * 500) 499 ∧
        askedTarget (deck.planMover 0) 2 8 (256 * 500) 0 ∧
        (100 : Int) = max ((deck.planMover 0).lower : Int) (min ((deck.planMover 0).upper : Int) 0)) ∧
      ((zoneIn .secure).zone ((zoneIn .secure).planMover 0).zone).state ≠ .loading ∧
      ((moverAt { idleMover with position := 1001 }).planMover 0).upper <
        ((moverAt { idleMover with position := 1001 }).mover 0).position ∧
      ((deck.zone (deck.planMover 0).zone).state = .loading ∧ (deck.planMover 0).lower ≤ (deck.mover 0).position ∧
        (deck.mover 0).position ≤ (deck.planMover 0).upper ∧ (deck.planMover 0).prerequisite = none ∧
        (∀ e, ¬ dependentFails deck 0 e) ∧
        (∀ d ∈ deck.zoneDoors (deck.planMover 0).zone, (deck.door d).state ≠ .closing) ∧
        (deck.planMover 0).kind ≠ .panelEnd ∧ (deck.planMover 0).lower ≤ 100 ∧ 1000 ≤ (deck.planMover 0).upper) ∧
      (((tied (some 1) none Mover.reset).planMover 0).prerequisite = some 1 ∧
        ((tied (some 1) none Mover.reset).planMover 0).prePreset = (0 : Fin 8).val + 1 ∧
        ¬ standsAtPreset (tied (some 1) none Mover.reset) 1 0 0 ∧
        standsAtPreset (tied (some 1) none idleMover) 1 0 0) ∧
      (dependentFails (tied none (some 0) Mover.reset) 0 1 ∧
        (∀ x : MoverId, x.val < 1 → ¬ dependentFails (tied none (some 0) Mover.reset) 0 x) ∧
        ∀ e, ¬ dependentFails (tied none (some 0) idleMover) 0 e) ∧
      (∃ d ∈ (deck.setDoor 0 { closedDoor with state := .closing }).zoneDoors 0,
        ((deck.setDoor 0 { closedDoor with state := .closing }).door d).state = .closing) ∧
      ((moverAt { idleMover with toeBroken := true }).mover 0).toeBroken = true := by
  unfold askedTarget dependentFails standsAtPreset
  refine ⟨?_, ⟨?_, ?_, Or.inr (Or.inr ⟨rfl, 7, by decide⟩), ?_⟩, ?_, ?_, ?_, ?_, ⟨?_, ?_, ?_⟩, ?_, ?_⟩ <;> decide

theorem deck_claimFree : deck.ClaimFree 0 (deck.entryOfMover 0) := ⟨by decide, by decide, by decide⟩

theorem witness_MoveReleasesMover :
    ((on deck).TakesOrder 0 48 head0 ∧ (on deck).TakesOrder 0 48 headWait ∧ deck.plan.isSome = true ∧
        deck.ClaimFree 0 (deck.entryOfMover 0)) ∧
      (moveFits 0 100 1000 ∧ deck.judgeMove 0 0 1000 = { verdict := .starts 1000, clamped := false } ∧
        moveFits 1 0 (-400) ∧ deck.judgeMove 0 1 (-400) = { verdict := .starts 100, clamped := false }) ∧
      deck.judgeMove 0 0 500 = { verdict := .zero, clamped := false } ∧
      ((∀ e ∈ deck.ends 0, (deck.mover e).motion.state = .idle) ∧ (deck.mover 0).motion.waiting = none ∧
        ∀ d, (deck.door d).state ≠ .waitClear) ∧
      ((zoneIn .secure).judgeMove 0 0 600 = { verdict := .refused .zoneState none, clamped := false } ∧
        ResultCode.failure .zoneState = true ∧ head0.alternate ≠ 0 ∧
        ((zoneIn .secure).mover 0).motion.target = none) :=
  ⟨⟨deck_takes, deck_takes_wait, by decide, deck_claimFree⟩,
   ⟨⟨by decide, Or.inl (by decide)⟩, by decide, ⟨by decide, Or.inr (Or.inl (by decide))⟩, by decide⟩, by decide,
   by decide, by decide⟩

/-- The deck with mover 0 in this record, held by lane 0 as an implicit claim. -/
def ownedMover (x : Mover) : Machine.Part := (moverAt x).setClaim 0 (implicitOf 0)

theorem ownedMover_takes (x : Mover) {h : OrderHead} (e : h.flags.toNat < 4 ∧ h.expectMask = 0) :
    (on (ownedMover x)).TakesOrder 0 48 h := by
  refine ⟨⟨⟨rfl, rfl, ⟨rfl, rfl⟩, rfl, ?_⟩, ?_, ?_⟩, passes_of e⟩
  · intro l _
    show (deck.lane l).waitKind ≠ some .hold
    revert l
    decide
  · show deck.takesNow 0 = some 48
    decide
  · decide

/-- Ramp 0 IDLE in a group of lane 0. -/
def groupedIdle : Machine.Part := (deck.setLane 0 { taker with nest := [level0] }).setClaim 0 (groupClaim none)

theorem witness_StopMoverStopsMotion :
    ((on deck).TakesOrder 0 48 head0 ∧ deck.plan.isSome = true ∧ deck.ClaimFree 0 (deck.entryOfMover 0) ∧
        ∀ e ∈ deck.ends 0, (deck.mover e).motion.state = .idle) ∧
      ((on groupedIdle).TakesOrder 0 48 head0 ∧ (groupedIdle.lane 0).nest ≠ [] ∧
        (groupedIdle.claim (groupedIdle.entryOfMover 0)).inNest 0 = true ∧
        ∀ e ∈ groupedIdle.ends 0, (groupedIdle.mover e).motion.state = .idle) ∧
      ∀ x ∈ [movingMover, going .releasing], ((on (ownedMover x)).TakesOrder 0 48 head0 ∧
        (on (ownedMover x)).TakesOrder 0 48 headWait) ∧ ((ownedMover x).lane 0).nest = [] ∧
        (ownedMover x).claim ((ownedMover x).entryOfMover 0) = implicitOf 0 ∧ (ownedMover x).waiters = [] ∧
        ((ownedMover x).mover 0).motion.waiting = none ∧ ((ownedMover x).mover 0).motion.target = x.motion.target ∧
        x.motion.target ≠ none ∧ ((ownedMover x).mover 0).motion.state = x.motion.state ∧
        ∀ d, ((ownedMover x).door d).state ≠ .waitClear := by
  refine ⟨⟨deck_takes, by decide, deck_claimFree, by decide⟩,
    ⟨order_of (by decide) ⟨by decide, by decide⟩ (by decide), by decide⟩, ?_⟩
  intro x h
  refine ⟨⟨ownedMover_takes x (by decide), ownedMover_takes x (by decide)⟩, ?_⟩
  simp only [List.mem_cons, List.not_mem_nil, or_false] at h
  rcases h with rfl | rfl <;> decide

def faultedMover : Mover :=
  { idleMover with motion := { idleMover.motion with state := .faulted, cause := some .following, setpoint := none } }
def faultedStation : Mover := { faultedMover with faultReported := true }

theorem witness_FloatAndClearFault :
    ((on deck).TakesOrder 0 48 head0 ∧ (on deck).TakesOrder 0 48 headWait ∧ deck.ClaimFree 0 (deck.entryOfMover 0) ∧
        (deck.planMover 0).kind = .ramp ∧ (deck.mover 0).motion.state = .idle ∧
        (deck.mover 0).motion.waiting = none ∧ (deck.zone (deck.moverZone 0)).state = .loading ∧
        (deck.mover 0).position = (deck.planMover 0).lower + (deck.planMover 0).floatWindow) ∧
      ((on (moverAt faultedStation)).TakesOrder 0 48 head0 ∧
        ((moverAt faultedStation).mover 0).motion.cause = some .following ∧
        ¬ faultCanClear (moverAt faultedStation) 0 ∧ head0.alternate ≠ 0) ∧
      ((on (moverAt faultedMover)).TakesOrder 0 48 head0 ∧ ((moverAt faultedMover).mover 0).motion.state = .faulted ∧
        ((moverAt faultedMover).mover 0).motion.waiting = none ∧ faultCanClear (moverAt faultedMover) 0 ∧
        (∀ e ∈ (moverAt faultedMover).ends 0, ((moverAt faultedMover).mover e).localReported = false) ∧
        ((moverAt faultedMover).claim ((moverAt faultedMover).entryOfMover 0)).holder = none) :=
  ⟨⟨deck_takes, deck_takes_wait, deck_claimFree, by decide⟩, ⟨moverAt_takes _ (by decide), by unfold faultCanClear; decide⟩,
   moverAt_takes _ (by decide), by unfold faultCanClear; decide⟩

/-! ### Door orders -/

/-- The deck with door 0 in this record. -/
def doorAt (x : Door) : Machine.Part := deck.setDoor 0 x
def doorIn (state : DoorState) : Machine.Part := doorAt { closedDoor with state := state }

theorem doorAt_takes (x : Door) {h : OrderHead} (e : h.flags.toNat < 4 ∧ h.expectMask = 0) :
    (on (doorAt x)).TakesOrder 0 48 h := by
  refine ⟨⟨⟨rfl, rfl, ⟨rfl, rfl⟩, rfl, ?_⟩, ?_, ?_⟩, passes_of e⟩
  · intro l _
    show (deck.lane l).waitKind ≠ some .hold
    revert l
    decide
  · show deck.takesNow 0 = some 48
    decide
  · decide

theorem doorAt_claimFree (x : Door) : (doorAt x).ClaimFree 0 (doorEntry 0) := by
  refine ⟨?_, ?_, ?_⟩
  · show (deck.lane 0).nest = []
    decide
  · show deck.claim (doorEntry 0) = Claim.free
    decide
  · rfl

theorem witness_DoorCloseOrders :
    ((∀ state, (on (doorIn state)).TakesOrder 0 48 head0 ∧ (doorIn state).ClaimFree 0 (doorEntry 0) ∧
        ((doorIn state).door 0).state = state) ∧ (on (doorIn .opened)).TakesOrder 0 48 headWait) ∧
      ((deck.lane 0).bridge = true ∧ deck.plan.isSome = true ∧ head0.alternate ≠ 0) ∧
      ((doorIn .opened).door 0).waiting = none ∧ ((doorIn .opened).door 0).forced = false ∧
      (deck.planDoor 0).lead ≠ 0 ∧ (deck.planDoor 0).fireLead ≠ 0 :=
  ⟨⟨fun state => ⟨doorAt_takes _ (by decide), doorAt_claimFree _, by cases state <;> decide⟩,
    doorAt_takes _ (by decide)⟩, by decide⟩

theorem witness_DoorOpenOrders :
    ((on (doorAt { closedDoor with zoneOrigin := true })).TakesOrder 0 48 head0 ∧
        ((doorAt { closedDoor with zoneOrigin := true }).door 0).zoneOrigin = true ∧
        ((doorAt { closedDoor with zoneOrigin := true }).door 0).state.steady = true) ∧
      ((0 : ZoneId) ∈ (zoneIn .shut).doorZones 0 ∧ ((zoneIn .shut).zone 0).state = .shut) ∧
      ((on (doorIn .halted)).TakesOrder 0 48 head0 ∧ (on (doorIn .halted)).TakesOrder 0 48 headWait ∧
        (doorIn .halted).ClaimFree 0 (doorEntry 0) ∧ ((doorIn .halted).door 0).state = .halted ∧
        ((doorIn .halted).door 0).zoneOrigin = false ∧ ((doorIn .halted).door 0).waiting = none ∧
        ∀ k ∈ (doorIn .halted).doorZones 0,
          ((doorIn .halted).zone k).state ≠ .shutting ∧ ((doorIn .halted).zone k).state ≠ .shut) ∧
      ((doorIn .opened).door 0).state = .opened ∧
      ((on (doorIn .closed)).TakesOrder 0 48 head0 ∧ (on (doorIn .closed)).TakesOrder 0 48 headWait ∧
        (doorIn .closed).ClaimFree 0 (doorEntry 0) ∧ ((doorIn .closed).door 0).state = .closed ∧
        ((doorIn .closed).door 0).zoneOrigin = false ∧ ((doorIn .closed).door 0).waiting = none ∧
        ∀ k ∈ (doorIn .closed).doorZones 0,
          ((doorIn .closed).zone k).state ≠ .shutting ∧ ((doorIn .closed).zone k).state ≠ .shut) :=
  ⟨⟨doorAt_takes _ (by decide), by decide⟩, by decide,
   ⟨doorAt_takes _ (by decide), doorAt_takes _ (by decide), doorAt_claimFree _, by decide⟩, by decide,
   doorAt_takes _ (by decide), doorAt_takes _ (by decide), doorAt_claimFree _, by decide⟩

def faultedDoor : Door :=
  { closedDoor with state := .faulted, cause := some .edge, last := { DoorReply.clear with openLimit := true } }

theorem witness_ClearDoorFaultTests :
    ((on deck).TakesOrder 0 48 head0 ∧ (deck.door 0).state ≠ .faulted) ∧
      ((on (doorAt { faultedDoor with last := { faultedDoor.last with edge := true } })).TakesOrder 0 48 head0 ∧
        ((doorAt { faultedDoor with last := { faultedDoor.last with edge := true } }).door 0).cause = some .edge ∧
        ((doorAt { faultedDoor with last := { faultedDoor.last with edge := true } }).door 0).last.edge = true) ∧
      ((on (doorAt faultedDoor)).TakesOrder 0 48 head0 ∧ ((doorAt faultedDoor).door 0).state = .faulted ∧
        ((doorAt faultedDoor).station (doorStation 0)).state = .online ∧
        ((doorAt faultedDoor).door 0).last.motorFault = false ∧ ((doorAt faultedDoor).door 0).last.openLimit = true ∧
        ((doorAt faultedDoor).door 0).last.closedLimit = false ∧ ((doorAt faultedDoor).door 0).last.localMode = false ∧
        ((doorAt faultedDoor).door 0).last.edge = false ∧ ((doorAt faultedDoor).door 0).zoneOrigin = false ∧
        ((doorAt faultedDoor).claim (doorEntry 0)).holder = none) :=
  ⟨⟨deck_takes, by decide⟩, ⟨doorAt_takes _ (by decide), by decide⟩, doorAt_takes _ (by decide), by decide⟩

/-! ### Call orders -/

theorem order_on {p : Machine.Part} (q : p.port.inReset = false ∧ p.agenda = [] ∧ p.writes = [] ∧ p.forced = [] ∧
    ∀ l : Lane, (p.lane l).waitKind ≠ some .hold) (h : p.takesNow 0 = some 48) {e : OrderHead}
    (he : e.flags.toNat < 4 ∧ e.expectMask = 0) : (on p).TakesOrder 0 48 e := order_of q ⟨h, by decide⟩ he

def queued0 : CallEntry := { entry0 with id := 2, state := .queued, playSent := false }
def queuing : Machine.Part :=
  { calling entry0 player0 with calls := { (calling entry0 player0).calls with urgent := [queued0], nextId := 255 } }

/-- A call of priority `pr` in a state, active, with these ROUTINE and URGENT lists. -/
def active0 (pr : Priority) (state : CallState) (sent : Bool) : CallEntry :=
  { entry0 with priority := pr, state := state, playSent := sent, chimeLeft := if state = .chime then some 9 else none }
def routineOf (id : Nat) : CallEntry := { queued0 with id := id, priority := .routine }
def pooled (a : CallEntry) (routine urgent : List CallEntry) : Machine.Part :=
  { calling a player0 with
    calls := { deck.calls with active := some a, routine := routine, urgent := urgent, nextId := 255 } }

def urgents (n : Nat) : List CallEntry := (List.range n).map (fun i => { queued0 with id := 20 + i, message := 9 })

/-- What meets the hypotheses of a CALL that acts at once: alone, with its lines pruned, preempting, and at a full pool. -/
theorem witness_callActsAtOnce :
    (((on deck).TakesOrder 0 48 head0 ∧ (on deck).TakesOrder 0 48 headWait ∧ deck.calls.entries = [] ∧
        deck.messageLength 20 ≠ 0 ∧ callFits 0 20 3 1 0 0 .routine ∧ callFits 2 20 3 1 0 0 .emergency ∧
        (deck.lane 0).bridge = true) ∧
      ((deck.prune (newCall 0 .routine 20 3 1 0 0 1 [])).lines ≠ 0 ∧ (on (zoneIn .shut)).TakesOrder 0 48 head0 ∧
        ((zoneIn .shut).prune (newCall 0 .routine 20 1 1 0 0 1 [])).lines = 0)) ∧
    (∀ a ∈ [active0 .routine .playing true, active0 .routine .playing false, active0 .urgent .cutting false,
        active0 .routine .chime false, { active0 .urgent .chime false with chimeOnly := true }],
      (on (pooled a [routineOf 3] [])).TakesOrder 0 48 head0 ∧ (pooled a [routineOf 3] []).calls.active = some a ∧
        (pooled a [routineOf 3] []).calls.queued < 16 ∧ (pooled a [routineOf 3] []).calls.emergency = [] ∧
        (pooled a [routineOf 3] []).calls.suspendedUrgent = none ∧ (pooled a [routineOf 3] []).calls.urgent = [] ∧
        a.priority.num < Priority.num .emergency ∧ ∀ e ∈ (pooled a [routineOf 3] []).calls.entries, e.id ≠ 255) ∧
    ((on (pooled (active0 .emergency .playing true) [routineOf 2, routineOf 3] (urgents 14))).TakesOrder 0 48 head0 ∧
      (pooled (active0 .emergency .playing true) [routineOf 2, routineOf 3] (urgents 14)).calls.queued = 16 ∧
      (pooled (active0 .emergency .playing true) [] (urgents 16)).calls.queued = 16 ∧
      (pooled (active0 .emergency .playing true) [] (urgents 16)).calls.routine = [] ∧ head0.alternate ≠ 0 ∧
      (pooled (active0 .emergency .playing true) [routineOf 2, routineOf 3] (urgents 14)).calls.routine =
        [routineOf 2] ++ [routineOf 3] ∧ (routineOf 3).state = .queued ∧ (routineOf 3).waiting = [] ∧
      (∀ e ∈ (pooled (active0 .emergency .playing true) [routineOf 2, routineOf 3] (urgents 14)).calls.list .urgent,
        e.message ≠ 20 ∨ e.lines ≠ 3)) ∧
    ∀ p e, ∃ q, Machine.Part.Serves p e q := by
  refine ⟨⟨⟨deck_takes, deck_takes_wait, ?_⟩, ?_, zoneAt_takes _, ?_⟩, ?_, ⟨order_on ?_ ?_ ?_, ?_⟩, serves_met⟩
  · unfold callFits
    decide
  iterate 2 decide
  · intro a h
    simp only [List.mem_cons, List.not_mem_nil, or_false] at h
    rcases h with rfl | rfl | rfl | rfl | rfl <;>
      exact ⟨order_on (by decide) (by decide) (by decide), by decide⟩
  iterate 4 decide

theorem witness_CallIsAdmitted :
    ((on queuing).TakesOrder 0 48 head0 ∧ (on queuing).TakesOrder 0 48 headWait ∧ queuing.plan.isSome = true ∧
        callFits 2 20 1 15 1 8 .emergency ∧ (queuing.lane 0).bridge = true ∧ queuing.messageLength 21 = 0 ∧
        callFits 0 21 0xFFFF 1 0 0 .routine ∧ head0.alternate ≠ 0) ∧
      (queuing.messageLength 20 ≠ 0 ∧ queuing.calls.active = some entry0 ∧
        Priority.num .urgent ≤ entry0.priority.num ∧ queuing.calls.queued < 16 ∧ callFits 1 20 1 15 1 8 .urgent ∧
        (∀ e ∈ queuing.calls.list .urgent, e.message ≠ 20 ∨ e.lines ≠ 1) ∧ queuing.calls.nextId = 255 ∧
        ∀ e ∈ queuing.calls.entries, e.id ≠ 255) ∧
      (callFits 1 7 0x8001 15 0 0 .urgent ∧ headWaits head0 = false ∧ queuing.messageLength 7 ≠ 0 ∧
        queuing.calls.list .urgent = [queued0] ∧ queued0.priority = .urgent ∧ queued0.message = 7 ∧
        queued0.lines = 0x8001 ∧ ∀ x ∈ queuing.calls.entries, x.id = queued0.id → x = queued0) := by
  refine ⟨⟨order_on (by decide) (by decide) (by decide), order_on (by decide) (by decide) (by decide), ?_⟩, ?_, ?_⟩ <;>
    unfold callFits <;> decide

theorem witness_CancelCallEndsQueued :
    ((on queuing).TakesOrder 0 48 head0 ∧ ∀ e ∈ queuing.calls.entries, e.id ≠ 255) ∧
      (queuing.calls.entries.filter (fun x => x.id == 2) = [queued0] ∧ queued0.state = .queued ∧ queued0.waiting = []) ∧
      (∃ p : Machine.Part, (on p).TakesOrder 0 48 head0 ∧ p.plan.isSome = true ∧ (p.lane 0).bridge = false ∧
        ∃ e ∈ p.calls.entries, e.id = 1 ∧ e.priority = .emergency) := by
  refine ⟨⟨order_on (by decide) (by decide) (by decide), by decide⟩, by decide,
    { noBridge with calls := { deck.calls with active := some { entry0 with priority := .emergency } } },
    order_on (by decide) (by decide) (by decide), by decide⟩

/-! ### Groups and the plan -/

/-- Door 0's entry is lane 3's. -/
def taken : Machine.Part :=
  deck.setClaim 8 { holder := some 3, kind := some .group, level := 1, saved := none, status := .none }

/-- The same with one earlier waiter, lane 2, whose wait began at tick 0. -/
def takenWaited (ticks : Word) : Machine.Part :=
  { taken with claimTicks := ticks, waiters := [{ lane := 2, need := 0x100, isGroup := false, start := 0, timer := 7 }] }

theorem witness_GroupOpenTakesClaims :
    ((on deck).TakesOrder 0 48 head0 ∧ deck.plan.isSome = true ∧ (1 : Byte).toNat ≤ 1 ∧
        (∀ m : MoverId, (0xFFFFFFFF : Word).getLsbD m.val = true → deck.leader m = m) ∧ (deck.lane 0).nest.length < 4 ∧
        (∀ e : EntryId, (deck.claim e).holder = none)) ∧
      ((on taken).TakesOrder 0 48 head0 ∧ (taken.lane 0).nest = [] ∧ taken.waiters = [] ∧
        taken.inForce.header.claimWait ≠ 0 ∧ (0x101 : Word).getLsbD (8 : EntryId).val = true ∧
        (taken.claim 8).holder.isSome = true ∧ (taken.claim 8).holder ≠ some 0) ∧
      ∀ ticks ∈ [(0 : Word), 5], (on (takenWaited ticks)).TakesOrder 0 48 head0 ∧ ∃ w0,
        (takenWaited ticks).waiters = [w0] ∧ w0.lane ≠ 0 ∧ (takenWaited ticks).claimTicks = ticks ∧
          (0 : Lane).val < w0.lane.val := by
  refine ⟨⟨deck_takes, by decide⟩, ⟨order_on (by decide) (by decide) (by decide), by decide⟩, ?_⟩
  intro ticks h
  simp only [List.mem_cons, List.not_mem_nil, or_false] at h
  rcases h with rfl | rfl <;> exact ⟨order_on (by decide) (by decide) (by decide), _, rfl, by decide⟩

/-- Lane 1's GROUP OPEN and lane 2's order wait for the settling ramp. -/
def arbitrating : Machine.Part :=
  { settles.setLane 1 { LaneContext.reset with
      state := .waiting, waitKind := some .claim, current := some (openRecord 1 0x101) } with
    waiters := [{ lane := 1, need := 0x101, isGroup := true, start := 3, timer := 9 },
                { lane := 2, need := 1, isGroup := false, start := 4, timer := 10 }] }

theorem witness_releaseGrantsOldest :
    (on arbitrating).Quiet ∧ (0 : EntryId) = arbitrating.entryOfMover 0 ∧
      (arbitrating.mover 0).motion.settleTimer = some 0 ∧ (arbitrating.mover 0).motion.state = .settling ∧
      (arbitrating.mover 0).motion.waiting = none ∧ arbitrating.claim 0 = implicitOf 3 ∧
      (0x101 : Word).getLsbD (0 : EntryId).val = true ∧ (1 : Word).getLsbD (0 : EntryId).val = true ∧
      (∀ x : EntryId, x ≠ 0 → (arbitrating.claim x).holder = none) ∧ (∀ i : MoverId, arbitrating.leader i = i) ∧
      (arbitrating.lane 1).nest = [] ∧ (arbitrating.lane 1).current = some (openRecord 1 0x101) ∧
      (openRecord 1 0x101).bytes = orderImage head0 .groupOpen (groupParams 1 0x101) := by
  refine ⟨quiet_of ?_, ?_⟩ <;> decide

theorem witness_GroupCloseReleases :
    ((on deck).TakesOrder 0 48 head0 ∧ (deck.lane 0).nest = [] ∧ head0.alternate ≠ 0) ∧
      ((on grouped).TakesOrder 0 48 head0 ∧ grouped.plan.isSome = true ∧ ∃ top, (grouped.lane 0).nest = [top] ∧
        top.record.link ≠ 48 ∧ linkValid top.record.link = true ∧ top.record.clamped = false ∧
        setEntries top.claimSet ≠ [] ∧ (∀ e ∈ setEntries top.claimSet, grouped.steady e = true) ∧ grouped.waiters = []) :=
  ⟨⟨deck_takes, by decide⟩, order_on (by decide) (by decide) (by decide), by decide,
   { record := openRecord 0 0x101, opened := 0x101, claimSet := 0x101, returns := false, inDetour := false }, by decide⟩

theorem witness_AbortGroupEndsNest :
    ((on deck).TakesOrder 0 48 head0 ∧ (deck.lane 0).nest = [] ∧ head0.alternate ≠ 0) ∧
      ((on grouped).TakesOrder 0 48 head0 ∧ grouped.plan.isSome = true ∧ ((grouped.lane 0).nest = [level0] ∧
        level0.record.link ≠ 48 ∧ linkValid level0.record.link = true ∧ level0.record.clamped = false ∧
        level0.returns = false ∧ level0.record.alternate ≠ 0) ∧
        (∃ e, (grouped.claim e).inNest 0 = true) ∧
        (∀ e, (grouped.claim e).inNest 0 = true → grouped.steady e = true ∧ (grouped.claim e).status ≠ .pending) ∧
        grouped.waiters = [] ∧ (∀ m, (grouped.mover m).motion.waiting ≠ some 0) ∧
        (∀ d, (grouped.door d).waiting ≠ some 0) ∧ ∀ e ∈ grouped.calls.entries, 0 ∉ e.waiting) :=
  ⟨⟨deck_takes, by decide⟩, order_on (by decide) (by decide) (by decide), by decide, by decide, ⟨8, by decide⟩, by decide⟩

/-- A RETURN group of one level over the set `claimSet`. -/
def returnLevel (claimSet : Word) : Level :=
  { record := openRecord 1 claimSet, opened := claimSet, claimSet := claimSet, returns := true, inDetour := false }

/-- Lane 0 with a RETURN group that claims the ramp alone, or door 0 alone. -/
def returningMover (x : Mover) (zone : ZoneState) (saved : Option Saved) : Machine.Part :=
  (((zoneIn zone).setMover 0 x).setLane 0 { taker with nest := [returnLevel 1] }).setClaim 0 (groupClaim saved)
def returningDoor (x : Door) (saved : Option Saved) : Machine.Part :=
  ((doorAt x).setLane 0 { taker with nest := [returnLevel 0x100] }).setClaim 8 (groupClaim saved)

def idleAtSaved : Mover := { idleMover with motion := { idleMover.motion with setpoint := some (256 * 600) } }
def strayed : Mover := { idleMover with position := 1001 }
def floatingWith (brakeJudged : Bool) : Mover :=
  { idleMover with motion := { idleMover.motion with state := .floating, setpoint := none, brakeJudged := brakeJudged } }
def doorOf (state : DoorState) (zoneOrigin forced : Bool) : Door :=
  { closedDoor with state := state, zoneOrigin := zoneOrigin, forced := forced }

/-- What meets the hypotheses of each row of Table 8-3: of a mover with no saved state and outside LOADING, of one with a saved
position in LOADING, and of a door. -/
theorem witness_returnAborts :
    ((returnLevel 1).record.link ≠ 48 ∧ linkValid (returnLevel 1).record.link = true ∧
        (returnLevel 1).record.clamped = false ∧ (returnLevel 1).returns = true ∧
        (groupClaim none).holder = some 0 ∧ (groupClaim none).kind = some .group ∧ (groupClaim none).status = .none) ∧
      (∀ x ∈ [idleMover, going .releasing, movingMover, going .stopping, going .settling, faultedMover, strayed,
          floatingWith true, floatingWith false],
        (x.motion.waiting = none ∧ x.motion.state ∈ [MoverState.idle, .releasing, .moving, .stopping, .settling, .faulted,
          .floating]) ∧
        ∀ c ∈ [(ZoneState.loading, none), (.secure, some (.position 600)), (.loading, some (.position 600))],
          (on (returningMover x c.1 c.2)).TakesOrder 0 48 head0 ∧ (returningMover x c.1 c.2).Unwaited 0 ∧
            ((returningMover x c.1 c.2).lane 0).nest = [returnLevel 1] ∧
            (returningMover x c.1 c.2).claim 0 = groupClaim c.2 ∧
            (∀ e, e ≠ 0 → ((returningMover x c.1 c.2).claim e).inNest 0 = false) ∧
            (returningMover x c.1 c.2).waiters = [] ∧ (0 : EntryId) = (returningMover x c.1 c.2).entryOfMover 0 ∧
            (returningMover x c.1 c.2).leader 0 = 0 ∧ (returningMover x c.1 c.2).mover 0 = x ∧
            ((returningMover x c.1 c.2).zone ((returningMover x c.1 c.2).planMover 0).zone).state = c.1 ∧
            ∀ d, ((returningMover x c.1 c.2).door d).state ≠ .waitClear) ∧
      (((returningMover idleMover .loading (some (.position 600))).judgeMove 0 0 600).verdict = .starts 600 ∧
        ((returningMover idleAtSaved .loading (some (.position 600))).judgeMove 0 0 600).verdict = .zero ∧
        ((returningMover strayed .loading (some (.position 600))).judgeMove 0 0 600).verdict = .refused .outOfLimits none ∧
        ((returningMover (floatingWith true) .loading (some (.position 600))).judgeMove 0 0 600).verdict = .leavesFloat 600 ∧
        ((returningMover (floatingWith false) .loading (some (.position 600))).judgeMove 0 0 600).verdict =
          .refused .busy none ∧
        ((broughtToIdle 0 (returningMover (going .releasing) .loading (some (.position 600)))).judgeMove 0 0 600).verdict =
          .starts 600) ∧
      (∀ x ∈ [(doorOf .closing false false, none), (doorOf .closing true false, none), (doorOf .closed false false, none),
          (doorOf .closed false false, some .closed), (doorOf .opened false false, some .opened),
          (doorOf .opened false false, some .closed), (doorOf .halted false true, some .closed),
          (doorOf .closed false false, some .opened), (doorOf .closed true false, some .opened),
          (doorOf .faulted false false, some .closed), (doorOf .localMode false false, some .opened)],
        (on (returningDoor x.1 x.2)).TakesOrder 0 48 head0 ∧ (returningDoor x.1 x.2).Unwaited 0 ∧
          ((returningDoor x.1 x.2).lane 0).nest = [returnLevel 0x100] ∧
          (returningDoor x.1 x.2).claim (doorEntry 0) = groupClaim x.2 ∧
          (∀ e, e ≠ 8 → ((returningDoor x.1 x.2).claim e).inNest 0 = false) ∧ (returningDoor x.1 x.2).waiters = [] ∧
          (returningDoor x.1 x.2).door 0 = x.1 ∧ x.1.waiting = none ∧
          (∀ k ∈ (returningDoor x.1 x.2).doorZones 0, ((returningDoor x.1 x.2).zone k).state ≠ .shutting ∧
            ((returningDoor x.1 x.2).zone k).state ≠ .shut ∧ ((returningDoor x.1 x.2).zone k).level ≠ .fire) ∧
          ((returningDoor x.1 x.2).planDoor 0).lead ≠ 0 ∧ ((returningDoor x.1 x.2).planDoor 0).fireLead ≠ 0) := by
  refine ⟨by decide, ?_, by decide, ?_⟩
  · intro x hx
    refine ⟨by revert x; decide, ?_⟩
    intro c hc
    simp only [List.mem_cons, List.not_mem_nil, or_false] at hx hc
    rcases hx with rfl | rfl | rfl | rfl | rfl | rfl | rfl | rfl | rfl <;> rcases hc with rfl | rfl | rfl <;>
      exact ⟨order_on (by decide) (by decide) (by decide), unwaited_of (by decide), by decide⟩
  · intro x hx
    simp only [List.mem_cons, List.not_mem_nil, or_false] at hx
    rcases hx with rfl | rfl | rfl | rfl | rfl | rfl | rfl | rfl | rfl | rfl | rfl <;>
      exact ⟨order_on (by decide) (by decide) (by decide), unwaited_of (by decide), by decide⟩

/-- A part with no plan, at its reset values but for lane 0, which takes slot 48. -/
def unplanned : Machine.Part :=
  { Part.reset 0 false [] 0 with
    port := { (Part.reset 0 false [] 0).port with partState := .planWait, lanesEnable := true },
    lanes := tableOf 4 (fun n => if n = 0 then taker else LaneContext.reset) }

/-- A plan area in slots 4052..4095: the header's patterns and FIRE repeats, zone 11 enabled, and eight patterns of period 2. -/
def areaCells (repeats : Byte) : List Host.Cell :=
  cellsFrom (slotBase 4052 + 4) [1, 0, repeats, 1, 8, 1] ++ cellsFrom (slotBase 4052 + 416) [1, 0, 0, 0, 0, 0, 8] ++
    (List.range 8).flatMap (fun j => cellsFrom (slotBase 4052 + 2240 + 8 * j) [2, 0, 1, 0, 0])

def adoptingWith (repeats : Byte) : State :=
  { pending := [], part := unplanned,
    mem := writeCells [] (imageCells 48 (orderImage head0 .adoptPlan (halfBytes 4052)) ++ areaCells repeats) }

def adopting : State := adoptingWith 1

/-- The same with FIRE repeats of 16, one above their range. -/
def adoptingClamped : State := adoptingWith 16

/-- The same with an unfit area in slots 60 on. -/
def adoptingZeros : State :=
  { adopting with mem := writeCells [] (imageCells 48 (orderImage head0 .adoptPlan (halfBytes 60))) }

theorem unplanned_quiet {m : List Host.Cell} (h : Memory.wf m = true) :
    ({ pending := [], part := unplanned, mem := m } : State).QuietBut none := by
  refine ⟨rfl, rfl, ⟨rfl, rfl⟩, h, ?_⟩
  intro l _
  show (unplanned.lane l).waitKind ≠ some .hold
  revert l
  decide

theorem fits_of {a : Area}
    (header : (1 ≤ a.byte 4 ∧ a.byte 4 ≤ 8) ∧ a.byte 5 ≤ 8 ∧ (1 ≤ a.byte 7 ∧ a.byte 7 ≤ 8) ∧ (1 ≤ a.byte 8 ∧ a.byte 8 ≤ 8) ∧
      (1 ≤ a.byte 9 ∧ a.byte 9 ≤ 8))
    (zones : ∀ k ∈ List.range 12, a.bit (64 + 32 * k) = true → 1 ≤ a.byte (64 + 32 * k + 6) ∧ a.byte (64 + 32 * k + 6) ≤ 8)
    (movers : ∀ m ∈ List.range 8, ¬ a.bit (448 + 128 * m) = true) (doors : ∀ d ∈ List.range 24, ¬ a.bit (1472 + 32 * d) = true)
    (patterns : ∀ j ∈ List.range 8, 2 ≤ a.half (2240 + 8 * j)) : ∀ f ∈ planFields a, f.2 := by
  intro f hf
  unfold planFields at hf
  simp only [List.mem_append] at hf
  rcases hf with (((hf | hf) | hf) | hf) | hf
  · simp only [List.mem_cons, List.not_mem_nil, or_false] at hf
    obtain ⟨h1, h2, h3, h4, h5⟩ := header
    rcases hf with rfl | rfl | rfl | rfl | rfl <;> assumption
  · obtain ⟨k, hk, hf⟩ := List.mem_flatMap.mp hf
    split at hf
    · next h => rw [List.mem_singleton.mp hf]; exact zones k hk h
    · simp at hf
  · obtain ⟨m, hm, inEntry⟩ := List.mem_flatMap.mp hf
    exact absurd ((if_neg (movers m hm)) ▸ inEntry) List.not_mem_nil
  · obtain ⟨d, hd, inEntry⟩ := List.mem_flatMap.mp hf
    exact absurd ((if_neg (doors d hd)) ▸ inEntry) List.not_mem_nil
  · obtain ⟨j, hj, rfl⟩ := List.mem_map.mp hf
    exact patterns j hj

theorem adopting_fits : ∀ f ∈ planFields (areaAt adopting.mem 4052), f.2 :=
  fits_of (by decide) (by decide) (by decide) (by decide) (by decide)

theorem adoptingClamped_fits : ∀ f ∈ planFields (areaAt adoptingClamped.mem 4052), f.2 :=
  fits_of (by decide) (by decide) (by decide) (by decide) (by decide)

/-- The part `p` with an ADOPT PLAN of an area of zeros in the slot that lane 0 takes. -/
def adoptOn (p : Machine.Part) : State :=
  { on p with mem := writeCells [] (imageCells 48 (orderImage head0 .adoptPlan (halfBytes 60))) }

theorem adoptOn_takes {p : Machine.Part} (q : p.port.inReset = false ∧ p.agenda = [] ∧ p.writes = [] ∧ p.forced = [] ∧
    ∀ l : Lane, (p.lane l).waitKind ≠ some .hold) (h : p.takesNow 0 = some 48) : (adoptOn p).TakesOrder 0 48 head0 :=
  ⟨⟨⟨q.1, q.2.1, ⟨q.2.2.1, q.2.2.2.1⟩, (by decide : Memory.wf (adoptOn deck).mem = true), fun l _ => q.2.2.2.2 l⟩, h, by decide⟩,
   passes_of (by decide)⟩

theorem witness_AdoptPlanFirst :
    (adopting.TakesOrder 0 48 head0 ∧ adoptingClamped.TakesOrder 0 48 head0 ∧ adoptingZeros.TakesOrder 0 48 head0) ∧
      ((unplanned.lane 0).bridge = true ∧ unplanned.plan = none ∧ unplanned.port.partState = .planWait ∧
        (∀ k, unplanned.zone k = Zone.reset) ∧ (∀ m, unplanned.mover m = Mover.reset) ∧
        (∀ d, unplanned.door d = Door.reset) ∧ (∀ st, unplanned.station st = Station.reset) ∧
        unplanned.field.due = [] ∧ unplanned.field.exchange = none ∧ (∀ e, (unplanned.claim e).holder = none) ∧
        (∀ l, l ≠ 0 → (unplanned.lane l).nest = []) ∧ unplanned.waiters = []) ∧
      readImage adopting.mem 48 = orderImage head0 .adoptPlan (halfBytes 4052) ∧
      readImage adoptingClamped.mem 48 = orderImage head0 .adoptPlan (halfBytes 4052) ∧
      readImage adoptingZeros.mem 48 = orderImage head0 .adoptPlan (halfBytes 60) ∧
      (∀ f ∈ planFields (areaAt adopting.mem 4052), f.2) ∧ (∀ f ∈ planFields (areaAt adoptingClamped.mem 4052), f.2) ∧
      (outsideRange (areaAt adopting.mem 4052) = [] ∧
        outsideRange (areaAt adoptingClamped.mem 4052) = [{ table := 0, entry := 0, offset := 6 }]) ∧
      firstUnfit (planFields (areaAt adoptingZeros.mem 60)) { table := 0, entry := 0, offset := 4 } := by
  refine ⟨⟨⟨⟨unplanned_quiet ?_, ?_, ?_⟩, passes_of ?_⟩, ⟨⟨unplanned_quiet ?_, ?_, ?_⟩, passes_of ?_⟩,
    ⟨⟨unplanned_quiet ?_, ?_, ?_⟩, passes_of ?_⟩⟩, ?_, ?_, ?_, ?_, adopting_fits, adoptingClamped_fits, ?_,
    [], _, _, rfl, ?_, by simp⟩ <;> decide

/-- What meets the hypotheses of an ADOPT PLAN on a deck that is not quiet, for each test of R181. -/
theorem witness_busyDeckRefuses :
    ((deck.lane 0).bridge = true ∧ head0.alternate ≠ 0 ∧ (60 : Half).toNat ≤ 4052 ∧
        readImage (adoptOn deck).mem 48 = orderImage head0 .adoptPlan (halfBytes 60)) ∧
      ((adoptOn movingDeck).TakesOrder 0 48 head0 ∧ deckIsBusy movingDeck 0 (areaAt (adoptOn movingDeck).mem 60) 1 0) ∧
      ((adoptOn (doorIn .closing)).TakesOrder 0 48 head0 ∧
        deckIsBusy (doorIn .closing) 0 (areaAt (adoptOn (doorIn .closing)).mem 60) 2 0) ∧
      ((adoptOn (deck.setLane 3 { LaneContext.reset with nest := [level0] })).TakesOrder 0 48 head0 ∧
        deckIsBusy (deck.setLane 3 { LaneContext.reset with nest := [level0] }) 0
          (areaAt (adoptOn (deck.setLane 3 { LaneContext.reset with nest := [level0] })).mem 60) 3 3) ∧
      ((adoptOn (deck.setClaim 0 (implicitOf 1))).TakesOrder 0 48 head0 ∧
        deckIsBusy (deck.setClaim 0 (implicitOf 1)) 0 (areaAt (adoptOn (deck.setClaim 0 (implicitOf 1))).mem 60) 4 0) ∧
      ((adoptOn (deck.setClaim 8 (implicitOf 1))).TakesOrder 0 48 head0 ∧
        deckIsBusy (deck.setClaim 8 (implicitOf 1)) 0 (areaAt (adoptOn (deck.setClaim 8 (implicitOf 1))).mem 60) 4 8) := by
  have busy : ∀ {p : Machine.Part} {a : Area} {detail first : Nat} (h : _), deckIsBusy p 0 a detail first :=
    fun h => ⟨_, _, _, _, fun _ => Iff.rfl, fun _ => Iff.rfl, fun _ => Iff.rfl, fun _ => Iff.rfl, h⟩
  have below : ∀ x : EntryId, x.val < 8 → ¬ ((deck.setClaim 8 (implicitOf 1)).claim x).holder.isSome = true := by decide
  refine ⟨by decide, ⟨adoptOn_takes (by decide) (by decide), busy (Or.inl ⟨rfl, 0, ⟨by decide, by decide⟩, rfl⟩)⟩,
    ⟨adoptOn_takes (by decide) (by decide), busy (Or.inr (Or.inl ⟨by decide, rfl, 0, ⟨by decide, by decide⟩, rfl⟩))⟩,
    ⟨adoptOn_takes (by decide) (by decide),
      busy (Or.inr (Or.inr (Or.inl ⟨by decide, by decide, rfl, 3, ⟨by decide, by decide⟩, rfl⟩)))⟩,
    ⟨adoptOn_takes (by decide) (by decide), busy (Or.inr (Or.inr (Or.inr ⟨by decide, by decide, by decide, rfl, 0,
      ⟨⟨by decide, Or.inl ⟨0, rfl, 0, Or.inl rfl, Or.inl (by decide)⟩⟩, fun x h => absurd h (Nat.not_lt_zero _)⟩, rfl⟩)))⟩,
    ⟨adoptOn_takes (by decide) (by decide), busy (Or.inr (Or.inr (Or.inr ⟨by decide, by decide, by decide, rfl, 8,
      ⟨⟨by decide, Or.inr ⟨0, rfl, by decide⟩⟩, fun x h held => absurd held.1 (below x h)⟩, rfl⟩)))⟩⟩

/-! ### One step of each command, with the values that the cited rules and tables give -/

/-- The result code, the detail and the first value that the record of slot 48 shows (Table 6-3). -/
def code48 (s : State) : Byte := readByte s.mem 3108
def detail48 (s : State) : Half := readHalf s.mem 3110
def first48 (s : State) : Word := readWord s.mem 3112

/-- The machine with the part `p` and four zeros to stand for its next free values (log entry 10). -/
def onZeros (p : Machine.Part) : State := on { p with openValues := [0, 0, 0, 0] }

/-- R188: PENDING reads 003FH after a reset. -/
theorem test_power_on_reset : readRegister (after .powerOnReset (on deck)) 4 = 0x003F := by decide

/-- R184: with nRESET low the port takes no transaction; after it ID reads 3401H. -/
theorem test_nreset_low : portRead (nResetFalls (on deck)) 0 = none ∧
    portRead (after .powerOnReset (nResetFalls (on deck))) 0 = some 0x3401 := by decide

def clocked : Machine.Part := { deck with time := { deck.time with clock := { seconds := 77, centis := 5 } } }

/-- R109, R185. -/
theorem test_soft_reset_keeps_seconds :
    (partAfter .softReset clocked).time.clock = { seconds := 77, centis := 0 } ∧
      (partAfter .softReset clocked).plan = none := by decide

/-- A soft reset cuts short the burst of slot 51 after two words, and the retirement of lane 0's record after two words, a result
of detail ABCDH (log entry 44). -/
def cutShort : Machine.Part :=
  { interruptible.setSlot 51 { interruptible.slot 51 with
      content := { state := 7, cause := 0x0203, flags := 0x0504, first := 0, second := 0,
                   time := { seconds := 0, centis := 0 } } } with
    openValues := [0, 2, 0, 2, 0xABCD0000, 0, 0] }

/-- R134, R130, Table 6-6: new content up to the cause, the old flags and the old change count. -/
theorem test_soft_reset_cuts_burst :
    (List.range 8).map (fun i => readByte (after .softReset (on cutShort)).mem (2144 + i)) = [0, 0, 0, 0, 0, 7, 3, 2] ∧
      readByte (after .softReset (on cutShort)).mem 2152 = 0 := by decide

/-- R134, R127, Table 6-3: the detail is written, the owner still reads ACTIVE. -/
theorem test_soft_reset_cuts_retirement :
    readHalf (after .softReset { on cutShort with mem := writeCells [] (cellsFrom 3072 [2]) }).mem 3110 = 0xABCD ∧
      readByte (after .softReset { on cutShort with mem := writeCells [] (cellsFrom 3072 [2]) }).mem 3072 = 2 := by decide

/-- R187: STATUS goes out as 33H 0 0 0 and the check byte (R100). -/
theorem test_reset_end :
    (partAfter .resetEnd State.reset.part).port.partState = .layoutWait ∧
      (partAfter .resetEnd State.reset.part).player.sentFrame = [0x33, 0, 0, 0, 0xCD] := by decide

/-- R152. -/
theorem test_lanes_disabled : ((partAfter (.lanesEnable false) deck).lane 0).cause = some .lanesDisabled := by decide

def slotPending : Machine.Part := deck.setSlot 3 { deck.slot 3 with notify := true, seen := 1 }

/-- R132. -/
theorem test_int_en_asserts_nint : (partAfter (.intEn true) slotPending).board.nIntLow = true := by decide

/-- R184. -/
theorem test_bridge_lanes : readRegister (after (.bridgeLanes 0xA) (on deck)) 1 = 0x00A1 := by decide

/-- R137: a null start link leaves the lane RESTING. -/
theorem test_start_null_link : ((partAfter (.start 3) deck).lane 3).state = .resting := by decide

/-- R137: a START of a WORKING lane is ignored. -/
theorem test_start_ignored : ((partAfter (.start 0) deck).lane 0).cause = some .startIgnored := by decide

/-- R146, Table 6-5. -/
theorem test_wake_signals_hold : code48 (after (.wake 0) (onZeros (holding 3))) = 0x95 := by decide

/-- R151. -/
theorem test_cancel : ((partAfter (.cancel 0) deck).lane 0).state = .stopped := by decide

/-- R131. -/
theorem test_rescan : (partAfter .rescan deck).board.read = .underWay := by decide

/-- R184. -/
theorem test_ignored_write : after (.ignoredRegisterWrite 3 0xFFFF 24) (on deck) = on deck := by decide

/-- R107, R108: the 64th tick brings cycle start and check mark; interval 4 has 11 ticks. -/
theorem test_deck_tick : (partAfter .deckTick lastTick).time.cycleDue = true ∧
    (partAfter .deckTick lastTick).time.checkDue = true ∧ (partAfter .deckTick lastTick).time.markDue = true := by decide

/-- R171: 63 wraps to 0; eight movers, six doors and three zones are due. -/
theorem test_cycle_start : (partAfter .fieldCycleStart cycleDue).field.cycleNumber = 0 ∧
    (partAfter .fieldCycleStart cycleDue).field.due.length = 17 := by decide

/-- R107, R131. -/
theorem test_check_mark : (partAfter .checkMark checkDue).board.read = .underWay := by decide

/-- R109. -/
theorem test_mark_and_second :
    (partAfter .centisecondMark (markAt 0)).time.clock = { seconds := 0, centis := 1 } ∧
      (partAfter .secondEnd (markAt 99)).time.clock = { seconds := 1, centis := 0 } := by decide

/-- R113, R118. -/
theorem test_period_end : ((partAfter (.periodEnd 1) periodEnds).line 1).state = .stopped ∧
    ((partAfter (.periodEnd 0) periodEnds).line 0).shown = some { number := 1, period := 512, lead := 384 } := by decide

/-- R9. -/
theorem test_confirm_expiry : ((partAfter (.confirmTimerExpiry 1) confirmed).zone 1).level = .fire := by decide

/-- R32, R45. -/
theorem test_mover_timers : ((partAfter (.brakeTimerExpiry 0) brakeRuns).mover 0).motion.state = .releasing ∧
    ((partAfter (.settleTimerExpiry 0) settles).mover 0).motion.state = .idle := by decide

/-- R64, R67, R78. -/
theorem test_door_timers : ((partAfter (.leadExpiry 0) warning).door 0).state = .closing ∧
    ((partAfter (.motionTimerExpiry 0) closingLate).door 0).cause = some .closeTime ∧
    ((partAfter (.retryDelayExpiry 0) retrying).door 0).state = .warning := by decide

/-- R94, R105, Table 4-6: PLAY of message 7 on lines 0 and 15; 31H + 07H + 01H + 80H + 47H = 100H. -/
theorem test_chime_ends :
    (partAfter .chimeEnd (calling chimed { player0 with state := .ready })).player.sentFrame =
        [0x31, 7, 0x01, 0x80, 0x47] ∧
      (partAfter .chimeOnlyRepeatEnd (calling { chimed with chimeOnly := true }
        { player0 with state := .fault })).calls.active.map (fun e => e.repeatsDone) = some 1 := by decide

/-- R103, R104. -/
theorem test_player_timers : (partAfter .replyTimerExpiry replyLate).player.state = .fault ∧
    (partAfter .probeTimerExpiry probing).player.probeTimer = some 500 := by decide

/-- R155, Table 6-5. -/
theorem test_claim_wait_expiry : code48 (after (.claimWaitExpiry 0) (onZeros claimWait)) = 0x87 := by decide

/-- R144, Table 6-5. -/
theorem test_hold_expiry : code48 (after (.holdExpiry 0) (onZeros (holding 0xFF))) = 0x01 ∧
    code48 (after (.holdExpiry 0) (onZeros (holding 3))) = 0x94 := by decide

/-- R173: the CRC over 31H to 39H is 29B1H. -/
theorem test_crc : crcOf [0x31, 0x32, 0x33, 0x34, 0x35, 0x36, 0x37, 0x38, 0x39] = 0x29B1 := by decide

/-- Table 9-3: a zone poll is its address and a zero, and the CRC. -/
theorem test_poll : (partAfter .poll pollDue).field.sentFrame.take 2 = [43, 0] ∧
    (partAfter .poll pollDue).field.due = [0] := by decide

/-- R7: a call point pressed takes the level to FIRE. -/
theorem test_reply_call_point :
    ((partAfter (.reply (sealFrame [0xA0, 4])) (exchanging online)).zone 0).level = .fire := by decide

/-- R176: a zone station's second miss loses it. -/
theorem test_window_close :
    ((partAfter .replyWindowClose (exchanging losing)).station (zoneStation 0)).state = .lost := by decide

/-- R102, R103. -/
theorem test_play_replies : (partAfter (.started 7) playing).player.replyTimer = some (.done, 1300) ∧
    (partAfter (.done 7) playing).player.state = .ready := by decide

/-- R102, R104. -/
theorem test_link_frames : (partAfter .cutDone cutting).player.state = .ready ∧
    (partAfter .ready probing).player.state = .ready ∧ (partAfter (.err 9) playing).player.cause = .err 9 ∧
    (partAfter (.frameDiscard .badSum) playing).player.discardCount = 1 := by decide

/-- R100: a run of DONE, CUT_DONE and two bytes more, with no pause in it, is two frames and a frame cut short. -/
theorem test_received_run :
    announcementCommands [0x42, 7, 0, 0, 0xB7, 0x43, 0, 0, 0, 0xBD, 0x44, 0] =
      [.done 7, .cutDone, .frameDiscard .cutShort] := by decide

/-- R56, R66: the retry count of door 0, 8 already, stays at 8 as the beam reverses the closing door once more. -/
theorem test_retry_count_stays_in_range :
    ((partAfter (.reply (doorBytes 4)) (doorReplying { closedDoor with state := .closing, retries := 8 })).door 0).retries = 8 :=
  by decide

/-- R128, R130: board slot 51 lies at byte 2144. -/
theorem test_board_write : readHalf (after (.boardWrite 51) (on burstWaits)).mem 2144 = 0 ∧
    ((partAfter (.boardWrite 51) burstWaits).slot 51).waiting = false := by decide

def seenState : State := { on (reading .underWay) with mem := writeCells [] (cellsFrom 514 [3, 0, 1]) }

/-- R131, R132: slot 0's seen count and notify enable are read from bytes 514 to 516. -/
theorem test_seen_count_read : (after .seenCountRead seenState).part.board.lowest = some 0 ∧
    ((after .seenCountRead seenState).part.slot 0).seen = 3 := by decide

/-- R144, R147 to R150, Table 6-5. -/
theorem test_lane_orders : code48 (after (.hold 0 head0 0 0 0 1) (onZeros deck)) = 0x04 ∧
    ((partAfter (.detour 0 head0 77) deck).lane 0).link = some 77 := by decide
theorem test_return_and_mark : ((partAfter (.ret 0 head0) deck).lane 0).state = .resting ∧
    ((partAfter (.mark 0 head0 0xBEEF) deck).lane 0).lastMark = 0xBEEF ∧
    ((partAfter (.haltLane 0 head0) deck).lane 0).cause = some .haltOrder := by decide

/-- R159, R162, R163. -/
theorem test_group_orders : ((partAfter (.groupOpen 0 head0 0 0x101) deck).claim 8).holder = some 0 ∧
    ((partAfter (.groupClose 0 head0) grouped).claim 8).holder = none ∧
    code48 (after (.abortGroup 0 head0 5) (onZeros grouped)) = 0x96 := by decide

/-- R16 to R18, R20. -/
theorem test_zone_orders : ((partAfter (.setLoading 0 head0 1) deck).zone 1).state = .loading ∧
    ((partAfter (.setSecure 0 head0 0) deck).zone 0).state = .secure ∧
    ((partAfter (.shutZone 0 head0 0) deck).zone 0).state = .shut ∧
    ((partAfter (.reopenZone 0 head0 0) (zoneIn .shut)).zone 0).state = .secure := by decide

/-- R21, R22, Table 6-5. -/
theorem test_detection_orders :
    ((partAfter (.disableDetection 0 head0 0) deck).zone 0).detectionDisabled = true ∧
      ((partAfter (.enableDetection 0 head0 0) (zoneAt disabledZone)).zone 0).level = .fault ∧
      code48 (after (.resetAlarm 0 head0 0) (onZeros (zoneAt alarmed))) = 0x97 := by decide

/-- R2, Table 6-5: a zone that the plan does not enable is refused ZONE_STATE. -/
theorem test_disabled_zone : code48 (after (.shutZone 0 head0 2) (onZeros deck)) = 0x84 := by decide

/-- R141: a failure with a null alternate link stops the lane. -/
theorem test_null_alternate : ((partAfter (.shutZone 0 headNull 2) deck).lane 0).cause = some .failedOrder := by decide

/-- R138: an owner that reads neither ARMED nor STANDING. -/
theorem test_not_armed : ((partAfter (.linkTake 0) deck).lane 0).cause = some .notArmed := by decide

/-- R29, R139: mover index 8 is refused BAD_RECORD at byte 12. -/
theorem test_bad_mover : code48 (after (.move 0 head0 8 0 0 600) (onZeros deck)) = 0x80 ∧
    detail48 (after (.move 0 head0 8 0 0 600) (onZeros deck)) = 12 := by decide

/-- R31, R36, R49, R53. -/
theorem test_mover_orders : ((partAfter (.move 0 head0 0 0 0 600) deck).mover 0).motion.target = some 600 ∧
    ((partAfter (.stopMover 0 head0 0) (moverAt movingMover)).mover 0).motion.state = .stopping ∧
    ((partAfter (.floatRamp 0 head0 0) deck).mover 0).motion.state = .floating ∧
    ((partAfter (.clearMoverFault 0 head0 0) (moverAt faultedMover)).mover 0).motion.state = .idle := by decide

/-- R72, R73, R76, R79. -/
theorem test_door_orders : ((partAfter (.closeDoor 0 head0 0) (doorIn .opened)).door 0).lead = 200 ∧
    ((partAfter (.forceClose 0 head0 0) (doorIn .opened)).door 0).lead = 100 ∧
    ((partAfter (.openDoor 0 head0 0) (doorIn .halted)).door 0).state = .opening ∧
    ((partAfter (.clearDoorFault 0 head0 0) (doorAt faultedDoor)).door 0).state = .opened := by decide

/-- R86, R95, R99. -/
theorem test_call_orders :
    (partAfter (.call 0 head0 1 20 1 15 1 8) queuing).calls.urgent.map (fun e => e.id) = [2, 255] ∧
      (partAfter (.call 0 head0 1 20 1 15 1 8) queuing).calls.nextId = 1 ∧
      first48 (after (.cancelCall 0 head0 2) (onZeros queuing)) = 1 := by decide

/-- R111, Table 6-3: the finished time shows the new seconds. -/
theorem test_set_clock : readWord (after (.setClock 0 head0 0x12345678) (onZeros deck)).mem 3124 = 0x12345678 ∧
    readByte (after (.setClock 0 head0 1) (onZeros deck)).mem 3124 = 1 := by decide

/-- R178, R182: the adoption of the area, and its last zone enabled. -/
theorem test_adopt_plan : (after (.adoptPlan 0 head0 4052) adopting).part.generation = 1 ∧
    ((after (.adoptPlan 0 head0 4052) adopting).part.planZone 11).enabled = true := by decide

/-- R49, R27, R178: FLOAT RAMP on a disabled mover is refused by its kind before its state. -/
theorem test_float_disabled_visor :
    code48 (after (.floatRamp 0 head0 3) (onZeros { deck with plan := some { plan0 with movers := tableOf 8 (fun m =>
      { getAt plan0.movers m with kind := if m = 3 then .visor else .ramp }) } })) = 0x80 ∧
    code48 (after (.floatRamp 0 head0 4) (onZeros deck)) ≠ 0x80 ∧
    (Area.planMover (fun i => if i = 449 then 1 else 0) 0).kind = .visor := by decide

/-- R3, R178: a mover belongs to its plan zone enabled or not; a zone byte of 12 names no zone. -/
theorem test_zone_of_disabled_mover : deck.entryInZone 1 0 = true ∧ deck.entryInZone 1 1 = false ∧
    (Area.planMover (fun i => if i = 450 then 12 else 0) 0).zoned = false := by decide

/-- R138, R126: a STANDING record taken by LINK_TAKE keeps its owner byte. -/
theorem test_link_take : ((after (.linkTake 0) recorded).part.lane 0).lastMark = 0xBEEF ∧
    readByte (after (.linkTake 0) recorded).mem 3072 = readByte recorded.mem 3072 := by decide

end Sys2Proof.Tests
end

section
/-! Runs of micro-operations, and events that change the deck alone. -/

namespace Sys2Proof.Machine

/-! ### What a list of micro-operations comes to -/

/-- On the part `p`, the micro-operations `acts` come to `q` with `left` still to do, in `c` steps. -/
def Part.Does (p : Part) (acts : List Act) (c : Nat) (q : Part) (left : List Act) : Prop :=
  ∀ (m : List Host.Cell) (n : Nat) (rest : List Act),
    drain m (n + c) (p.emit (acts ++ rest)) = drain m n (q.emit (left ++ rest))

namespace Part.Does

variable {p q r : Part} {acts acts' left : List Act} {a b : Nat}

theorem append (h : p.Does acts a q []) (h' : q.Does acts' b r left) : p.Does (acts ++ acts') (a + b) r left := by
  intro m n rest
  rw [List.append_assoc, show n + (a + b) = n + b + a by omega, h, List.nil_append, h']

theorem andThen (h : p.Does acts a q acts') (h' : q.Does acts' b r left) : p.Does acts (a + b) r left := by
  intro m n rest
  rw [show n + (a + b) = n + b + a by omega, h, h']

theorem idle (hp : p.agenda = []) (h : ∀ m, ∀ x ∈ acts, x ≠ .arbitrate ∧ perform m x p = p) :
    p.Does acts acts.length p [] :=
  fun m _ _ => drain_idle hp (h m)

theorem one {x : Act} (hp : p.agenda = []) (hx : x ≠ .arbitrate) (h : ∀ m, perform m x p = q.emit left) :
    p.Does [x] 1 q left := by
  intro m n rest
  rw [List.singleton_append, drain_emit hp hx, h, emit_emit]

theorem drain_eq (h : p.Does acts a q []) (hq : q.agenda = []) {n : Nat} (hn : a ≤ n) (m : List Host.Cell) :
    drain m n (p.emit acts) = q := by
  obtain ⟨x, rfl⟩ := Nat.exists_eq_add_of_le' hn
  rw [← List.append_nil acts, h, List.append_nil, drain_emit_nil hq]

end Part.Does

/-! ### Events that change the deck alone -/

/-- `q` differs from `p` in the blocks of the deck alone: the lanes, the generation, the Control Port and what is asked for
are the same. -/
structure Part.DeckChange (p q : Part) : Prop where
  agenda     : q.agenda = p.agenda
  writes     : q.writes = p.writes
  lanes      : q.lanes = p.lanes
  generation : q.generation = p.generation
  port       : q.port = p.port

namespace Part.DeckChange

variable {p q : Part}

theorem refl (p : Part) : p.DeckChange p := ⟨rfl, rfl, rfl, rfl, rfl⟩

theorem setZone (h : p.DeckChange q) (k : ZoneId) (z : Zone) : p.DeckChange (q.setZone k z) :=
  ⟨h.agenda, h.writes, h.lanes, h.generation, h.port⟩

theorem setDoor (h : p.DeckChange q) (d : DoorId) (x : Door) : p.DeckChange (q.setDoor d x) :=
  ⟨h.agenda, h.writes, h.lanes, h.generation, h.port⟩

theorem syncFire (h : p.DeckChange q) : p.DeckChange (syncFire q) := by
  rw [syncFire_eq]
  exact ⟨h.agenda, h.writes, h.lanes, h.generation, h.port⟩

theorem syncWarn (h : p.DeckChange q) (d : DoorId) : p.DeckChange (syncWarn d q) := by
  rw [syncWarn_eq]
  exact ⟨h.agenda, h.writes, h.lanes, h.generation, h.port⟩

end Part.DeckChange

/-- An event whose micro-operations come to the deck `r`. -/
theorem ran_of_does {f : Part → Part} {s : State} {q r : Part} {acts : List Act} {a : Nat} (h : s.Quiet)
    (hf : f s.part = q.emit acts) (hdoes : q.Does acts a r []) (ha : a ≤ 60000) (hr : s.part.DeckChange r) :
    s.Ran (runLocal f s) r := by
  have hra : r.agenda = [] := hr.agenda.trans h.agenda
  have hlane : ∀ n, r.lane n = s.part.lane n := fun n => by rw [Part.lane, hr.lanes]; rfl
  refine ran_of_drain (f := fun _ => f) h ?_ hra (hr.writes.trans h.settled.1)
    (fun n => by rw [hlane]; exact ⟨rfl, rfl, rfl⟩) hr.generation (by rw [hr.port])
  rw [hf]
  exact hdoes.drain_eq hra (by simp only [Config.agendaBound]; omega) _

/-- An event that leaves the deck `q` and asks for micro-operations that change nothing. -/
theorem ran_of_idle_acts {f : Part → Part} {s : State} (h : s.Quiet) {q : Part} {acts : List Act}
    (hf : f s.part = q.emit acts) (hidle : ∀ m, ∀ a ∈ acts, a ≠ .arbitrate ∧ perform m a q = q)
    (hlen : acts.length ≤ 60000) (hq : s.part.DeckChange q) : s.Ran (runLocal f s) q :=
  ran_of_does h hf (.idle (hq.agenda.trans h.agenda) hidle) hlen hq

theorem ran_of_deckChange {f : Part → Part} {s : State} (h : s.Quiet) {q : Part} (hf : f s.part = q)
    (hq : s.part.DeckChange q) : s.Ran (runLocal f s) q :=
  ran_of_idle_acts (acts := []) h (by rw [hf, emit_nil]) (by simp) (by simp) hq

end Sys2Proof.Machine
end

section
/-! Zone orders (R16 to R22): the parameters of an order of one zone, its result, and the end of its event. -/

namespace Sys2Proof.Machine

/-! ### An order of one zone index -/

/-- The orders of chapter 1.5. -/
def OrderKind.ofZone : OrderKind → Bool
  | .setLoading | .setSecure | .shutZone | .reopenZone | .disableDetection | .enableDetection | .resetAlarm => true
  | _ => false

/-- What a zone order does at Zone Control (R16 to R18, R20 to R22). -/
def OrderKind.zoneWork : OrderKind → Lane → Part → Part
  | .setLoading => orderSetLoading
  | .setSecure => orderSetSecure
  | .shutZone => orderShutZone
  | .reopenZone => orderReopenZone
  | .disableDetection => orderDisableDetection
  | .enableDetection => orderEnableDetection
  | .resetAlarm => orderResetAlarm
  | _ => fun _ p => p

/-- The record image of a zone order. -/
abbrev zoneImage (head : OrderHead) (kind : OrderKind) (k : ZoneId) : List Byte :=
  orderImage head kind [BitVec.ofNat 8 k.val]

theorem paramZone_zoneImage (head : OrderHead) (kind : OrderKind) (k : ZoneId) : paramZone (zoneImage head kind k) = k := by
  apply Fin.ext
  show (BitVec.ofNat 8 k.val).toNat % 12 = k.val
  rw [toNat_ofNat8 k.isLt (by omega), Nat.mod_eq_of_lt k.isLt]

/-- The parameters of an order of one zone index are in range (R139). -/
theorem zoneImage_paramChecks (p : Part) (head : OrderHead) {kind : OrderKind} (hk : kind.ofZone = true) (k : ZoneId) :
    ∀ c ∈ p.paramChecks (zoneImage head kind k) kind, c.2 = true := by
  have e : p.paramChecks (zoneImage head kind k) kind =
      [(12, decide (paramIndex (zoneImage head kind k) < 12)), restZero (zoneImage head kind k) 13] := by
    cases kind <;> simp only [OrderKind.ofZone, Bool.false_eq_true] at hk <;> rfl
  rw [e, restZero_orderImage _ _ (by simp) (by omega)]
  have hi : paramIndex (zoneImage head kind k) < 12 := by
    show (BitVec.ofNat 8 k.val).toNat < 12
    rw [toNat_ofNat8 k.isLt (by omega)]
    exact k.isLt
  simp [hi]

theorem zoneImage_claimEntry (p : Part) (head : OrderHead) {kind : OrderKind} (hk : kind.ofZone = true) (k : ZoneId) :
    p.claimEntry (zoneImage head kind k) = none := by
  unfold Part.claimEntry
  rw [imageKind_orderImage]
  cases kind <;> simp only [OrderKind.ofZone, Bool.false_eq_true] at hk <;> rfl

/-- A zone order in hand reaches Zone Control. -/
theorem blockOrder_zone {n : Lane} {q : Part} {head : OrderHead} {kind : OrderKind} {k : ZoneId} (hk : kind.ofZone = true)
    (hb : q.currentBytes n = zoneImage head kind k) (m : List Host.Cell) : blockOrder n m q = kind.zoneWork n q := by
  unfold blockOrder
  rw [hb, imageKind_orderImage]
  cases kind <;> simp only [OrderKind.ofZone, Bool.false_eq_true] at hk <;> rfl

/-- A zone that the plan enables is one of a plan (R183). -/
theorem plan_isSome_of_enabled {p : Part} {k : ZoneId} (h : (p.planZone k).enabled = true) : p.plan.isSome = true := by
  cases e : p.plan with
  | some _ => rfl
  | none => simp [Part.planZone, Part.inForce, e, Plan.off, PlanZone.off] at h

/-- A zone set to what it is. -/
theorem Part.setZone_of_eq {p : Part} {k : ZoneId} {z : Zone} (h : z = p.zone k) : p.setZone k z = p := by
  rw [h, Part.setZone_self]

/-! ### The FIRE demands in the middle of an order -/

section
variable (n : Lane) (c : LaneContext) (w : List Host.Cell) (k : LineId) (p : Part)

theorem postFire_midOrder : postFire k (midOrder n c w p) = midOrder n c w (postFire k p) := by
  unfold postFire
  rw [show (midOrder n c w p).line k = p.line k from rfl]
  dsimp only
  split <;> rfl

theorem withdrawFire_midOrder : withdrawFire k (midOrder n c w p) = midOrder n c w (withdrawFire k p) := by
  unfold withdrawFire
  rw [show (midOrder n c w p).line k = p.line k from rfl]
  dsimp only
  split <;> rfl

theorem syncFire_midOrder : syncFire (midOrder n c w p) = midOrder n c w (syncFire p) := by
  refine midOrder_forEach n c w (fun k q => ?_) _ _
  rw [show (midOrder n c w q).fireWanted k = q.fireWanted k from rfl, postFire_midOrder, withdrawFire_midOrder]
  split <;> rfl

end

theorem midOrder_lane_ne {n l : Lane} {c : LaneContext} {w : List Host.Cell} {p : Part} (h : l ≠ n) :
    (midOrder n c w p).lane l = p.lane l := by
  simp [midOrder, Part.lane, Ne.symm h]

@[simp] theorem syncFire_zone (p : Part) (k : ZoneId) : (syncFire p).zone k = p.zone k := by rw [syncFire_eq]; rfl

/-! ### The end of a zone order -/

/-- The end of the zone order in hand. -/
theorem endZoneOrder_midOrder {n : Lane} {c : LaneContext} {w : List Host.Cell} {held : HeldRecord} {head : OrderHead}
    {kind : OrderKind} {k : ZoneId} (hc : c.current = some held) (hb : held.bytes = zoneImage head kind k)
    (code : ResultCode) (p : Part) :
    endZoneOrder n code (midOrder n c w p) =
      (midOrder n c w p).emit [.orderEnds n (zoneShown code k (p.zone k).state (p.zone k).level)] := by
  unfold endZoneOrder zoneResult
  rw [midOrder_currentBytes n _ _ _ _ hc, hb, paramZone_zoneImage]
  rfl

section
variable {s : State} {n : Lane} {link : Half} {head : OrderHead} {k : ZoneId} {kind : OrderKind} {p : Part} {r : Result}
  {c : LaneContext}

/-- The command of an order of lane `n` is the taking of its record. -/
theorem exec_order {params : List Byte} {c : Instr} (h : s.TakesOrder n link head)
    (ho : orderOf c = some (n, head, kind, params)) : exec c s = .next (runOrder n (orderImage head kind params) s) :=
  (exec_orderOf ho).trans (orderCommand_runs h.takes)

/-- A zone order that its block takes to `q` with micro-operations to do, and whose event comes to rest where its record has
retired on the deck `p`. -/
theorem zoneOrder_ends_drained {q : Part} {acts : List Act} (h : s.TakesOrder n link head) (hk : kind.ofZone = true)
    (hplan : s.part.plan.isSome = true)
    (hbr : needsBridge (zoneImage head kind k) kind = true → (s.part.lane n).bridge = true)
    (hB : kind.zoneWork n (midOrder n ((s.part.lane n).holding (heldBy link head (zoneImage head kind k)))
        (takenCells link head.standing s.part.now) s.part) = q.emit acts)
    (hd : ∀ m, drain m 65534 (q.emit acts) = orderEnds n r (midOrder n c (takenCells link head.standing s.part.now) p))
    (hc : c.current = some (heldBy link head (zoneImage head kind k)))
    (hgo : ∀ l, c.goesOn link l = (s.part.lane n).taken.goesOn link l)
    (ha : r.code.failure = true → head.alternate ≠ 0) (hz : s.part.DeckChange p) :
    s.OrderEnds (runOrder n (zoneImage head kind k) s) n link head r p := by
  have hcur : (midOrder n ((s.part.lane n).holding (heldBy link head (zoneImage head kind k)))
      (takenCells link head.standing s.part.now) s.part).currentBytes n = zoneImage head kind k :=
    midOrder_currentBytes n _ _ _ (heldBy link head (zoneImage head kind k)) rfl
  obtain ⟨hlt, hd'⟩ := order_to_acts (params := [BitVec.ofNat 8 k.val]) (q := q) (acts := acts) h (by simp)
    (zoneImage_paramChecks _ _ hk _) (.inl hplan) hbr (zoneImage_claimEntry _ _ hk _)
    (by rw [takenPart_mid h.takes _ _ rfl rfl rfl, blockOrder_zone hk hcur, hB])
  obtain ⟨c', ws, ov, oc, fs, hend⟩ := midOrder_orderEnds (r := r) (n := n) (p := p)
    (w := takenCells link head.standing s.part.now) hc rfl ha
  refine midOrder_ends (claims := p.claims) (held := heldBy link head (zoneImage head kind k)) h.takes (by simp) hlt
    (hd'.trans ((hd _).trans ?_)) hc rfl rfl rfl hgo ha hz.lanes (hz.agenda.trans h.takes.quiet.agenda) hz.generation
    (by rw [hz.port])
  rw [hend]
  rfl

/-- What Zone Control makes of the order in hand: it ends it with `code` on the deck `p`, with micro-operations to follow. -/
def zoneOrderGives (n : Lane) (link : Half) (head : OrderHead) (kind : OrderKind) (k : ZoneId) (p p' : Part)
    (code : ResultCode) (rest : List Act) : Prop :=
  ∀ c w, c.current = some (heldBy link head (zoneImage head kind k)) →
    kind.zoneWork n (midOrder n c w p) = (endZoneOrder n code (midOrder n c w p')).emit rest

/-- Once lane `n`'s order has ended on the deck `p`, micro-operation `a` changes nothing, whatever else the end of the order
has left. -/
def idleAfter (n : Lane) (p : Part) (a : Act) : Prop :=
  ∀ (m : List Host.Cell) (c : LaneContext) (w : List Host.Cell) (fs : List SlotId) (ov : List Word) (oc : Nat),
    c.state ≠ .waiting → a ≠ .arbitrate ∧
      perform m a { midOrder n c w p with forced := fs, openValues := ov, openCount := oc } =
        { midOrder n c w p with forced := fs, openValues := ov, openCount := oc }

/-- A zone order that its block ends at once, followed by micro-operations that change nothing. -/
theorem zoneOrder_ends {code : ResultCode} {rest : List Act} (h : s.TakesOrder n link head) (hk : kind.ofZone = true)
    (hplan : s.part.plan.isSome = true)
    (hbr : needsBridge (zoneImage head kind k) kind = true → (s.part.lane n).bridge = true)
    (hB : zoneOrderGives n link head kind k s.part p code rest) (hlen : rest.length < 65000)
    (hrest : ∀ a ∈ rest, idleAfter n p a)
    (ha : code.failure = true → head.alternate ≠ 0) (hz : s.part.DeckChange p) :
    s.OrderEnds (runOrder n (zoneImage head kind k) s) n link head
      (zoneShown code k (p.zone k).state (p.zone k).level) p := by
  obtain ⟨held, hheld⟩ : ∃ held, held = heldBy link head (zoneImage head kind k) := ⟨_, rfl⟩
  have hcur : ((s.part.lane n).holding held).current = some held := rfl
  have hw := hB _ (takenCells link head.standing s.part.now) (by rw [hcur, hheld])
  rw [endZoneOrder_midOrder hcur (by rw [hheld]), emit_emit, hheld] at hw
  refine zoneOrder_ends_drained (c := (s.part.lane n).holding (heldBy link head (zoneImage head kind k))) h hk hplan hbr hw
    (fun m => ?_) rfl (fun _ => rfl) ha hz
  have hqa : p.agenda = [] := hz.agenda.trans h.takes.quiet.agenda
  refine drain_ends_among (pre := []) (head := head) (k := kind) (params := [BitVec.ofNat 8 k.val])
    (held := heldBy link head (zoneImage head kind k)) hqa (by rw [midOrder_lane]; rfl) rfl ha (by simpa using hlen)
    (by simp) ?_
  obtain ⟨ws, ov, oc, fs, e⟩ := orderEnds_leaves (n := n) (r := zoneShown code k (p.zone k).state (p.zone k).level)
    (q := midOrder n ((s.part.lane n).holding (heldBy link head (zoneImage head kind k)))
      (takenCells link head.standing s.part.now) p)
    (head := head) (k := kind) (params := [BitVec.ofNat 8 k.val]) (by rw [midOrder_lane]; rfl) rfl ha
  rw [e]
  have hset : ∀ c' : LaneContext, setAt (midOrder n ((s.part.lane n).holding (heldBy link head (zoneImage head kind k)))
      (takenCells link head.standing s.part.now) p).lanes n c' = setAt p.lanes n c' := fun _ => setAt_setAt ..
  rw [hset]
  intro a ha'
  refine hrest a ha' m _ ws fs ov oc ?_
  unfold LaneContext.goesOn
  dsimp only
  split <;> split <;> decide

/-- A zone order that its block ends at once with the zone's new record. -/
theorem zoneOrder_ends_setting {code : ResultCode} {z : Zone} (h : s.TakesOrder n link head) (hk : kind.ofZone = true)
    (hen : (s.part.planZone k).enabled = true)
    (hbr : needsBridge (zoneImage head kind k) kind = true → (s.part.lane n).bridge = true)
    (hB : zoneOrderGives n link head kind k s.part (s.part.setZone k z) code [])
    (ha : code.failure = true → head.alternate ≠ 0) :
    s.OrderEnds (runOrder n (zoneImage head kind k) s) n link head (zoneShown code k z.state z.level)
      (s.part.setZone k z) := by
  have hend := zoneOrder_ends h hk (plan_isSome_of_enabled hen) hbr hB (by simp) (by simp) ha (.setZone (.refl _) ..)
  rwa [Part.setZone_same] at hend

end

/-- R2: an order that names a zone which the plan does not enable is refused by its block, whatever it is. -/
theorem zoneWork_disabledZone {n : Lane} {q : Part} {head : OrderHead} {kind : OrderKind} {k : ZoneId}
    (hk : kind.ofZone = true) (hb : q.currentBytes n = zoneImage head kind k) (hd : (q.planZone k).enabled = false) :
    kind.zoneWork n q = endZoneOrder n .zoneState q := by
  cases kind <;> simp only [OrderKind.ofZone, Bool.false_eq_true] at hk
  case setLoading => simp [OrderKind.zoneWork, orderSetLoading, hb, paramZone_zoneImage, hd]
  case setSecure => simp [OrderKind.zoneWork, orderSetSecure, hb, paramZone_zoneImage, hd]
  case shutZone => simp [OrderKind.zoneWork, orderShutZone, hb, paramZone_zoneImage, hd]
  case reopenZone => simp [OrderKind.zoneWork, orderReopenZone, hb, paramZone_zoneImage, hd]
  case disableDetection => simp [OrderKind.zoneWork, orderDisableDetection, hb, paramZone_zoneImage, hd]
  case enableDetection => simp [OrderKind.zoneWork, orderEnableDetection, hb, paramZone_zoneImage, hd]
  case resetAlarm => simp [OrderKind.zoneWork, orderResetAlarm, hb, paramZone_zoneImage, hd]

theorem zoneOrder_refusedOnDisabledZone {order : Lane → OrderHead → Byte → Instr} {kind : OrderKind} {bridge : Bool}
    (hk : kind.ofZone = true) (ho : ∀ n head b, orderOf (order n head b) = some (n, head, kind, [b]))
    (hbr : ∀ image, needsBridge image kind = bridge) : refusedOnDisabledZone order bridge := by
  intro s n link head k ht hplan hb hd ha
  refine ⟨_, exec_order ht (ho ..), ?_⟩
  refine zoneOrder_ends ht hk hplan (fun h => hb ((hbr _).symm.trans h)) (rest := []) (fun c w hc => ?_) (by simp) (by simp)
    (fun _ => ha) (.refl _)
  rw [emit_nil]
  exact zoneWork_disabledZone hk (midOrder_currentBytes n _ _ _ _ hc) hd

end Sys2Proof.Machine
end

section
/-! SET LOADING, SET SECURE, REOPEN ZONE and RESET ALARM (R16, R17, R20, R22). -/

namespace Sys2Proof.Machine

section
variable {n : Lane} {q : Part} {head : OrderHead} {kind : OrderKind} {k : ZoneId} {code : ResultCode} {state : ZoneState}

/-! ### SET LOADING and SET SECURE (R16, R17) -/

/-- R16's tests in their order. -/
def loadingOutcome (z : Zone) (code : ResultCode) (state : ZoneState) : Prop :=
  (z.fireLatched = true ∧ code = .fireLatched ∧ state = z.state) ∨
    (z.fireLatched = false ∧ (z.state = .shutting ∨ z.state = .shut) ∧ code = .zoneState ∧ state = z.state) ∨
    (z.fireLatched = false ∧ (z.state = .secure ∨ z.state = .loading) ∧ code = .done ∧ state = .loading)

theorem orderSetLoading_ends (hb : q.currentBytes n = zoneImage head kind k) (hen : (q.planZone k).enabled = true)
    (hout : loadingOutcome (q.zone k) code state) :
    orderSetLoading n q = endZoneOrder n code (q.setZone k { q.zone k with state := state }) := by
  unfold orderSetLoading
  rw [hb, paramZone_zoneImage]
  rcases hout with ⟨hf, rfl, rfl⟩ | ⟨hf, hs | hs, rfl, rfl⟩ | ⟨hf, hs | hs, rfl, rfl⟩
  · rw [Part.setZone_of_eq rfl]
    simp [hen, hf]
  · rw [Part.setZone_of_eq rfl]
    simp [hen, hf, hs]
  · rw [Part.setZone_of_eq rfl]
    simp [hen, hf, hs]
  · simp [hen, hf, hs]
  · rw [Part.setZone_of_eq (by rw [← hs])]
    simp [hen, hf, hs]

/-- R17: the zone has a mover that keeps it from being secured. -/
theorem zoneBusy_iff (p : Part) (k : ZoneId) : p.zoneBusy k = true ↔
    ∃ m ∈ p.zoneMovers k, (p.mover m).motion.state ∈ [.releasing, .moving, .stopping, .settling, .floating] := by
  have hst : ∀ st : MoverState, (st.inMotionSet || (st == .settling) || (st == .floating)) = true ↔
      st ∈ [.releasing, .moving, .stopping, .settling, .floating] := by
    intro st
    cases st <;> decide
  simp only [Part.zoneBusy, List.any_eq_true, hst]

/-- R17's tests in their order. -/
def secureOutcome (p : Part) (k : ZoneId) (code : ResultCode) (state : ZoneState) : Prop :=
  (((p.zone k).state = .shutting ∨ (p.zone k).state = .shut) ∧ code = .zoneState ∧ state = (p.zone k).state) ∨
    ((p.zone k).state = .secure ∧ code = .done ∧ state = .secure) ∨
    ((p.zone k).state = .loading ∧ p.zoneBusy k = true ∧ code = .busy ∧ state = .loading) ∨
    ((p.zone k).state = .loading ∧ p.zoneBusy k = false ∧ code = .done ∧ state = .secure)

theorem orderSetSecure_ends (hb : q.currentBytes n = zoneImage head kind k) (hen : (q.planZone k).enabled = true)
    (hout : secureOutcome q k code state) :
    orderSetSecure n q = endZoneOrder n code (q.setZone k { q.zone k with state := state }) := by
  unfold orderSetSecure
  rw [hb, paramZone_zoneImage]
  rcases hout with ⟨hs | hs, rfl, rfl⟩ | ⟨hs, rfl, rfl⟩ | ⟨hs, hm, rfl, rfl⟩ | ⟨hs, hm, rfl, rfl⟩
  · rw [Part.setZone_of_eq rfl]
    simp [hen, hs]
  · rw [Part.setZone_of_eq rfl]
    simp [hen, hs]
  · rw [Part.setZone_of_eq (by rw [← hs])]
    simp [hen, hs]
  · rw [Part.setZone_of_eq (by rw [← hs])]
    simp [hen, hs, hm]
  · simp [hen, hs, hm]

/-! ### REOPEN ZONE (R20) -/

/-- R19: the SHUT test changes nothing but a SHUTTING zone all of whose doors are closed. -/
theorem shutTest_idle {p : Part} (h : (p.zone k).state = .shutting → (p.zone k).notClosed ≠ 0) : shutTest k p = p := by
  unfold shutTest
  rw [if_neg]
  rintro ⟨hs, hn⟩
  exact h hs hn

/-- With no lane waiting there is no SHUT ZONE record to end. -/
theorem endShutWaiters_idle {p : Part} (h : ∀ l, (p.lane l).state ≠ .waiting) : endShutWaiters k code p = p := by
  have hnone : p.shutWaiters k = [] := by
    unfold Part.shutWaiters
    rw [List.filter_eq_nil_iff]
    intro l _
    simp [h l]
  rw [endShutWaiters, hnone, List.map_nil, emit_nil]

theorem orderReopenZone_latched (hb : q.currentBytes n = zoneImage head kind k) (hen : (q.planZone k).enabled = true)
    (hf : (q.zone k).fireLatched = true) :
    orderReopenZone n q = (endZoneOrder n .fireLatched q).emit [.shutTest k] := by
  unfold orderReopenZone
  rw [hb, paramZone_zoneImage]
  simp [hen, hf]

theorem orderReopenZone_shut (hb : q.currentBytes n = zoneImage head kind k) (hen : (q.planZone k).enabled = true)
    (hf : (q.zone k).fireLatched = false) (hs : (q.zone k).state = .shutting ∨ (q.zone k).state = .shut) :
    orderReopenZone n q = (endZoneOrder n .done (q.setZone k { q.zone k with state := .secure, callLost := false })).emit
      [.endShutWaiters k .superseded] := by
  unfold orderReopenZone
  rw [hb, paramZone_zoneImage]
  rcases hs with hs | hs <;> simp [hen, hf, hs]

theorem orderReopenZone_open (hb : q.currentBytes n = zoneImage head kind k) (hen : (q.planZone k).enabled = true)
    (hf : (q.zone k).fireLatched = false)
    (hs : ((q.zone k).state = .secure ∧ code = .done) ∨ ((q.zone k).state = .loading ∧ code = .zoneState)) :
    orderReopenZone n q = endZoneOrder n code q := by
  unfold orderReopenZone
  rw [hb, paramZone_zoneImage]
  rcases hs with ⟨hs, rfl⟩ | ⟨hs, rfl⟩ <;> simp [hen, hf, hs]

/-! ### RESET ALARM (R22) -/

/-- R22: the ONLINE station of a zone shows an alarm. -/
def Zone.showsAlarm (z : Zone) : Bool :=
  (z.link == .online) && ((z.loop == some .one) || (z.loop == some .two) || z.callPoint)

theorem orderResetAlarm_present (hb : q.currentBytes n = zoneImage head kind k) (hen : (q.planZone k).enabled = true)
    (hs : (q.zone k).showsAlarm = true) : orderResetAlarm n q = endZoneOrder n .alarmPresent q := by
  unfold orderResetAlarm
  rw [hb, paramZone_zoneImage]
  unfold Zone.showsAlarm at hs
  simp only [hen, hs]
  rfl

theorem orderResetAlarm_clears (hb : q.currentBytes n = zoneImage head kind k) (hen : (q.planZone k).enabled = true)
    (hs : (q.zone k).showsAlarm = false) {level : AlarmLevel}
    (hl : level = .fault ↔ ((q.zone k).link = .lost ∨
      ((q.zone k).detectionDisabled = false ∧ (q.zone k).loop = some .loopFault))) (hl' : level = .fault ∨ level = .none) :
    orderResetAlarm n q = endZoneOrder n .done (syncFire (q.setZone k { q.zone k with
      level := level, fireLatched := false, callLost := false, confirmTimer := none })) := by
  have hlevel : (if ((q.zone k).link == .lost) || (!(q.zone k).detectionDisabled && ((q.zone k).loop == some .loopFault))
      then AlarmLevel.fault else .none) = level := by
    rcases hl' with rfl | rfl
    · exact if_pos (by simpa using hl.1 rfl)
    · exact if_neg (fun h => by simpa using hl.2 (by simpa using h))
  unfold orderResetAlarm
  rw [hb, paramZone_zoneImage]
  unfold Zone.showsAlarm at hs
  simp only [hen, hs, hlevel]
  rfl

end

/-! ### The statements -/

section
variable {n : Lane} {c : LaneContext} {link : Half} {head : OrderHead} {kind : OrderKind} {k : ZoneId}

/-- The bytes of the zone order in hand. -/
theorem zoneImage_inHand (hc : c.current = some (heldBy link head (zoneImage head kind k))) (w : List Host.Cell) (p : Part) :
    (midOrder n c w p).currentBytes n = zoneImage head kind k :=
  midOrder_currentBytes n c w p _ hc

end

theorem shutTest_idleAfter {n : Lane} {p : Part} {k : ZoneId}
    (h : (p.zone k).state = .shutting → (p.zone k).notClosed ≠ 0) : idleAfter n p (.shutTest k) :=
  fun _ _ _ _ _ _ _ => ⟨by simp, shutTest_idle h⟩

theorem endShutWaiters_idleAfter {n : Lane} {p : Part} {k : ZoneId} {code : ResultCode}
    (h : ∀ l, l ≠ n → (p.lane l).state ≠ .waiting) : idleAfter n p (.endShutWaiters k code) := by
  intro m c w fs ov oc hc
  refine ⟨by simp, endShutWaiters_idle (fun l => ?_)⟩
  show ((midOrder n c w p).lane l).state ≠ .waiting
  by_cases e : l = n
  · rw [e, midOrder_lane]
    exact hc
  · rw [midOrder_lane_ne e]
    exact h l e

/-- Settles O42: each row of R16's tests leads to the end of the order on the zone in its new state. -/
theorem setLoadingByZoneState : Obligations.SetLoadingByZoneState := by
  refine ⟨zoneOrder_refusedOnDisabledZone rfl (fun _ _ _ => rfl) (fun _ => rfl), ?_⟩
  intro s n link head k code state ht hen ha hout
  refine ⟨_, exec_order ht rfl, ?_⟩
  refine zoneOrder_ends_setting (kind := .setLoading) (z := { s.part.zone k with state := state }) ht rfl hen
    (fun h => by cases h) (fun c w hc => ?_) ha
  exact (orderSetLoading_ends (zoneImage_inHand hc ..) hen hout).trans (emit_nil _).symm

/-- Settles O43: each row of R17's tests leads to the end of the order on the zone in its new state. -/
theorem setSecureByZoneState : Obligations.SetSecureByZoneState := by
  refine ⟨zoneOrder_refusedOnDisabledZone rfl (fun _ _ _ => rfl) (fun _ => rfl), ?_⟩
  intro s n link head k code state ht hen ha hcase
  have hout : secureOutcome s.part k code state := by
    rcases hcase with h | h | ⟨hs, hc, hst, hm⟩ | ⟨hs, hc, hst, hm⟩
    · exact .inl h
    · exact .inr (.inl h)
    · exact .inr (.inr (.inl ⟨hs, (zoneBusy_iff ..).2 hm, hc, hst⟩))
    · refine .inr (.inr (.inr ⟨hs, ?_, hc, hst⟩))
      rw [Bool.eq_false_iff, ne_eq, zoneBusy_iff]
      rintro ⟨m, hmem, hin⟩
      exact hm m hmem hin
  refine ⟨_, exec_order ht rfl, ?_⟩
  refine zoneOrder_ends_setting (kind := .setSecure) (z := { s.part.zone k with state := state }) ht rfl hen
    (fun h => by cases h) (fun c w hc => ?_) ha
  exact (orderSetSecure_ends (zoneImage_inHand hc ..) hen hout).trans (emit_nil _).symm

/-- Settles O45: R20's tests in their order; the SHUT test of the refusal and the end of waiting SHUT ZONE records change
nothing where the statement's hypotheses hold. -/
theorem reopenZoneByZoneState : Obligations.ReopenZoneByZoneState := by
  refine ⟨zoneOrder_refusedOnDisabledZone rfl (fun _ _ _ => rfl) (fun _ => rfl), ?_⟩
  intro s n link head k code z ht hbr hen hwait ha hcase
  refine ⟨_, exec_order ht rfl, ?_⟩
  have hgives : ∀ rest : List Act, rest.length < 65000 →
      zoneOrderGives n link head .reopenZone k s.part (s.part.setZone k z) code rest →
      (∀ a ∈ rest, idleAfter n (s.part.setZone k z) a) →
      s.OrderEnds (runOrder n (zoneImage head .reopenZone k) s) n link head (zoneShown code k z.state z.level)
        (s.part.setZone k z) := by
    intro rest hlen hB hrest
    have hend := zoneOrder_ends ht rfl (plan_isSome_of_enabled hen) (fun _ => hbr) hB hlen hrest ha (.setZone (.refl _) ..)
    rwa [Part.setZone_same] at hend
  rcases hcase with ⟨hf, hn, rfl, rfl⟩ | ⟨hf, ⟨hs, rfl, rfl⟩ | ⟨hs, rfl, rfl⟩ | ⟨hs, rfl, rfl⟩⟩
  · refine hgives [.shutTest k] (by simp) (fun c w hc => ?_) ?_
    · rw [Part.setZone_self]
      exact orderReopenZone_latched (zoneImage_inHand hc ..) hen hf
    · simp only [List.forall_mem_singleton, Part.setZone_self]
      exact shutTest_idleAfter hn
  · refine hgives [.endShutWaiters k .superseded] (by simp) (fun c w hc => ?_) ?_
    · exact orderReopenZone_shut (zoneImage_inHand hc ..) hen hf hs
    · simp only [List.forall_mem_singleton]
      exact endShutWaiters_idleAfter hwait
  · refine hgives [] (by simp) (fun c w hc => ?_) (by simp)
    rw [Part.setZone_self, emit_nil]
    exact orderReopenZone_open (zoneImage_inHand hc ..) hen hf (.inl ⟨hs, rfl⟩)
  · refine hgives [] (by simp) (fun c w hc => ?_) (by simp)
    rw [Part.setZone_self, emit_nil]
    exact orderReopenZone_open (zoneImage_inHand hc ..) hen hf (.inr ⟨hs, rfl⟩)

/-- Settles O47: the alarm that the station still shows refuses the order; else the zone's alarm is cleared. -/
theorem resetAlarmClearsFire : Obligations.ResetAlarmClearsFire := by
  refine ⟨zoneOrder_refusedOnDisabledZone rfl (fun _ _ _ => rfl) (fun _ => rfl), ?_⟩
  intro s n link head k ht hbr hen
  constructor
  · intro hlink hloop ha
    refine ⟨_, exec_order ht rfl, ?_⟩
    have hs : (s.part.zone k).showsAlarm = true := by simpa [Zone.showsAlarm, hlink, or_assoc] using hloop
    refine zoneOrder_ends (kind := .resetAlarm) (rest := []) ht rfl (plan_isSome_of_enabled hen) (fun _ => hbr)
      (fun c w hc => ?_) (by simp) (by simp) (fun _ => ha) (.refl _)
    exact (orderResetAlarm_present (zoneImage_inHand hc ..) hen hs).trans (emit_nil _).symm
  · intro level hshow hl hl'
    refine ⟨_, exec_order ht rfl, ?_⟩
    have hs : (s.part.zone k).showsAlarm = false := by
      rcases hshow with h | ⟨h1, h2, h3⟩
      · simp [Zone.showsAlarm, h]
      · simp [Zone.showsAlarm, h1, h2, h3]
    have hend := zoneOrder_ends (kind := .resetAlarm) (k := k) (code := .done) (rest := [])
      (p := syncFire (s.part.setZone k { s.part.zone k with
        level := level, fireLatched := false, callLost := false, confirmTimer := none }))
      ht rfl (plan_isSome_of_enabled hen) (fun _ => hbr) (fun c w hc => ?_) (by simp) (by simp)
      (fun h => absurd h (by decide))
      (.syncFire (.setZone (.refl _) ..))
    · rw [syncFire_zone, Part.setZone_same] at hend
      exact hend
    · rw [emit_nil, ← syncFire_midOrder]
      exact orderResetAlarm_clears (zoneImage_inHand hc ..) hen hs hl hl'

end Sys2Proof.Machine
end

section
/-! Entry to FIRE (R9) and the detection orders (R21). -/

namespace Sys2Proof.Machine

/-! ### Entry to FIRE -/

/-- The zone's record at its entry to FIRE (R9). -/
def Zone.onFire (z : Zone) (seconds : Word) : Zone :=
  { z with level := .fire, fireLatched := true, confirmTimer := none, fireTime := seconds }

/-- R9, R10: a SECURE zone of no auto-shut hands over its fire message and aborts. -/
theorem enterFire_secure {p q : Part} {k : ZoneId} {z : Zone}
    (hz : z = (p.zone k).onFire p.now.seconds) (hq : q = syncFire (p.setZone k z))
    (hauto : (p.planZone k).autoShut = false) (hs : z.state = .secure) :
    enterFire k p = q.emit (zoneCallActs k .emergency (p.planZone k).fireMessage
      (lineBit (zoneLine k) ||| p.inForce.header.muster) p.inForce.header.fireRepeats p.inForce.header.fireChime ++
        [.zoneAborts k]) := by
  subst hz
  have hs' : (p.zone k).state = .secure := hs
  unfold enterFire
  simp [hauto, hs', hq, Zone.onFire]

/-- R9: a SECURE zone of no auto-shut and no fire message asks for no more than its aborts. -/
theorem enterFire_quiet {p : Part} {k : ZoneId} (hs : (p.zone k).state = .secure)
    (hauto : (p.planZone k).autoShut = false) (hmsg : (p.planZone k).fireMessage = 0) :
    enterFire k p = (syncFire (p.setZone k ((p.zone k).onFire p.now.seconds))).emit [.zoneAborts k] := by
  rw [enterFire_secure rfl rfl hauto hs, zoneCallActs, if_pos hmsg]
  rfl

/-- R13: with no GROUP claim there is no lane to abort. -/
theorem zoneAborts_idle {p : Part} {k : ZoneId} (h : ∀ i, p.nestEntries i = []) : zoneAborts k p = p := by
  unfold zoneAborts
  simp [h]

/-! ### DISABLE DETECTION and ENABLE DETECTION (R21) -/

section
variable {n : Lane} {q : Part} {head : OrderHead} {kind : OrderKind} {k : ZoneId} {code : ResultCode}

theorem orderDisableDetection_same (hb : q.currentBytes n = zoneImage head kind k) (hen : (q.planZone k).enabled = true)
    (hf : ((q.zone k).fireLatched = true ∧ code = .fireLatched) ∨
      ((q.zone k).fireLatched = false ∧ (q.zone k).detectionDisabled = true ∧ code = .done)) :
    orderDisableDetection n q = endZoneOrder n code q := by
  unfold orderDisableDetection
  rw [hb, paramZone_zoneImage]
  rcases hf with ⟨hf, rfl⟩ | ⟨hf, hd, rfl⟩
  · simp [hen, hf]
  · simp [hen, hf, hd]

theorem orderDisableDetection_sets (hb : q.currentBytes n = zoneImage head kind k) (hen : (q.planZone k).enabled = true)
    (hf : (q.zone k).fireLatched = false) (hd : (q.zone k).detectionDisabled = false) (hl : (q.zone k).level ≠ .fire) :
    orderDisableDetection n q = endZoneOrder n .done (q.setZone k { q.zone k with
      detectionDisabled := true, confirmTimer := none,
      level := if (q.zone k).level = .fault ∧ (q.zone k).link = .lost then .fault else .none }) := by
  unfold orderDisableDetection
  rw [hb, paramZone_zoneImage]
  cases e : (q.zone k).level with
  | none => simp [hen, hf, hd, e]
  | pre => simp [hen, hf, hd, e]
  | fire => exact absurd e hl
  | fault => simp [hen, hf, hd, e]

theorem orderEnableDetection_same (hb : q.currentBytes n = zoneImage head kind k) (hen : (q.planZone k).enabled = true)
    (hd : (q.zone k).detectionDisabled = false) : orderEnableDetection n q = endZoneOrder n .done q := by
  unfold orderEnableDetection
  rw [hb, paramZone_zoneImage]
  simp [hen, hd]

/-- R21: what the stored loop status makes of a zone below FIRE whose detection is enabled again, short of FIRE. -/
def enabledOutcome (confirm : Nat) (x z : Zone) : Prop :=
  (x.level = .fire ∨ x.link ≠ .online ∨ x.loop = some .normal ∨ x.loop = none) ∧ z = { x with detectionDisabled := false } ∨
    x.level ≠ .fire ∧ x.link = .online ∧ x.loop = some .loopFault ∧
      z = { x with detectionDisabled := false, level := .fault, confirmTimer := none } ∨
    x.level = .pre ∧ x.link = .online ∧ x.loop = some .one ∧ z = { x with detectionDisabled := false } ∨
    (x.level = .none ∨ x.level = .fault) ∧ x.link = .online ∧ x.loop = some .one ∧ confirm ≠ 0 ∧
      z = { x with detectionDisabled := false, level := .pre, confirmTimer := some confirm }

theorem judgeLoop_fire {p : Part} (h : (p.zone k).level = .fire) (status : LoopStatus) : judgeLoop k status p = p := by
  simp [judgeLoop, h]

theorem judgeLoop_loopFault {p : Part} (h : (p.zone k).level ≠ .fire) :
    judgeLoop k .loopFault p = p.setZone k { p.zone k with level := .fault, confirmTimer := none } := by
  cases e : (p.zone k).level <;> simp_all [judgeLoop]

theorem judgeLoop_normal {p : Part} (h : (p.zone k).level ≠ .fire) :
    judgeLoop k .normal p = p.setZone k { p.zone k with level := .none, confirmTimer := none } := by
  cases e : (p.zone k).level <;> simp_all [judgeLoop]

theorem judgeLoop_one_pre {p : Part} (h : (p.zone k).level = .pre) : judgeLoop k .one p = p := by
  simp [judgeLoop, h]

theorem judgeLoop_one {p : Part} (h : (p.zone k).level = .none ∨ (p.zone k).level = .fault)
    (hc : (p.planZone k).confirm ≠ 0) :
    judgeLoop k .one p = p.setZone k { p.zone k with level := .pre, confirmTimer := some (p.planZone k).confirm } := by
  rcases h with h | h <;> simp [judgeLoop, h, startPre, hc]

theorem judgeLoop_two {p : Part} (h : (p.zone k).level ≠ .fire) : judgeLoop k .two p = enterFire k p := by
  cases e : (p.zone k).level <;> simp_all [judgeLoop]

theorem orderEnableDetection_unjudged (hb : q.currentBytes n = zoneImage head kind k)
    (hen : (q.planZone k).enabled = true) (hd : (q.zone k).detectionDisabled = true)
    (hl : (q.zone k).link ≠ .online ∨ (q.zone k).loop = some .normal ∨ (q.zone k).loop = none) :
    orderEnableDetection n q = (q.setZone k { q.zone k with detectionDisabled := false }).emit [.zoneRetire n] := by
  unfold orderEnableDetection
  rw [hb, paramZone_zoneImage]
  simp only [hen, hd, Bool.not_true, Bool.false_eq_true, if_false]
  split <;> simp_all

theorem orderEnableDetection_judged (hb : q.currentBytes n = zoneImage head kind k) (hen : (q.planZone k).enabled = true)
    (hd : (q.zone k).detectionDisabled = true) (hl : (q.zone k).link = .online) {status : LoopStatus}
    (hs : (q.zone k).loop = some status) (hn : status ≠ .normal) :
    orderEnableDetection n q =
      (judgeLoop k status (q.setZone k { q.zone k with detectionDisabled := false })).emit [.zoneRetire n] := by
  unfold orderEnableDetection
  rw [hb, paramZone_zoneImage]
  simp only [hen, hd, Bool.not_true, Bool.false_eq_true, if_false, hl, hs]
  cases status with
  | normal => exact absurd rfl hn
  | one => rfl
  | two => rfl
  | loopFault => rfl

theorem orderEnableDetection_sets (hb : q.currentBytes n = zoneImage head kind k) (hen : (q.planZone k).enabled = true)
    (hd : (q.zone k).detectionDisabled = true) {z : Zone}
    (hout : enabledOutcome (q.planZone k).confirm (q.zone k) z) :
    orderEnableDetection n q = (q.setZone k z).emit [.zoneRetire n] := by
  rcases hout with ⟨h, rfl⟩ | ⟨hl, hlink, hloop, rfl⟩ | ⟨hl, hlink, hloop, rfl⟩ | ⟨hl, hlink, hloop, hc, rfl⟩
  · by_cases hj : (q.zone k).link ≠ .online ∨ (q.zone k).loop = some .normal ∨ (q.zone k).loop = none
    · exact orderEnableDetection_unjudged hb hen hd hj
    · obtain ⟨hlink, hnormal, hnone⟩ : (q.zone k).link = .online ∧ (q.zone k).loop ≠ some .normal ∧
          (q.zone k).loop ≠ none := by simpa [not_or] using hj
      obtain ⟨status, hloop⟩ := Option.ne_none_iff_exists'.1 hnone
      have hfire : (q.zone k).level = .fire := h.resolve_right hj
      rw [orderEnableDetection_judged hb hen hd hlink hloop (fun e => hnormal (e ▸ hloop)),
        judgeLoop_fire (by simpa using hfire)]
  · rw [orderEnableDetection_judged hb hen hd hlink hloop (by simp), judgeLoop_loopFault (by simpa using hl)]
    simp
  · rw [orderEnableDetection_judged hb hen hd hlink hloop (by simp), judgeLoop_one_pre (by simpa using hl)]
  · rw [orderEnableDetection_judged hb hen hd hlink hloop (by simp), judgeLoop_one (by simpa using hl) (by simpa using hc)]
    simp

theorem orderEnableDetection_fires (hb : q.currentBytes n = zoneImage head kind k) (hen : (q.planZone k).enabled = true)
    (hd : (q.zone k).detectionDisabled = true) (hl : (q.zone k).level ≠ .fire) (hlink : (q.zone k).link = .online)
    (hloop : (q.zone k).loop = some .two) (hs : (q.zone k).state = .secure) (hauto : (q.planZone k).autoShut = false)
    (hmsg : (q.planZone k).fireMessage = 0) :
    orderEnableDetection n q =
      (syncFire (q.setZone k (Zone.onFire { q.zone k with detectionDisabled := false } q.now.seconds))).emit
        [.zoneAborts k, .zoneRetire n] := by
  rw [orderEnableDetection_judged hb hen hd hlink hloop (by simp), judgeLoop_two (by simpa using hl),
    enterFire_quiet (by simpa using hs) (by exact hauto) (by exact hmsg), emit_emit, Part.setZone_same, Part.setZone_setZone]
  rfl

/-- A zone order that retires at the end of the work it started (R18, R21). -/
theorem drain_zoneRetire {c : LaneContext} {w : List Host.Cell} {p : Part} {held : HeldRecord} {m : List Host.Cell} {b : Nat}
    (ha : p.agenda = []) (hc : c.current = some held) (hb : held.bytes = zoneImage head kind k)
    (hcode : code = if kind = .shutZone ∧ (p.zone k).state ≠ .shut then .started else .done) :
    drain m (b + 2) ((midOrder n c w p).emit [.zoneRetire n]) =
      orderEnds n (zoneShown code k (p.zone k).state (p.zone k).level) (midOrder n c w p) := by
  have hretire : perform m (.zoneRetire n) (midOrder n c w p) =
      (midOrder n c w p).emit [.orderEnds n (zoneShown code k (p.zone k).state (p.zone k).level)] := by
    have hbytes : (midOrder n c w p).currentBytes n = zoneImage head kind k :=
      (midOrder_currentBytes n c w p held hc).trans hb
    rw [← endZoneOrder_midOrder hc hb, hcode]
    show zoneRetire n _ = _
    unfold zoneRetire
    rw [midOrder_lane, hc, hbytes]
    dsimp only
    rw [imageKind_orderImage, paramZone_zoneImage]
    simp only [show (midOrder n c w p).zone k = p.zone k from rfl, Option.some_inj]
    split <;> rfl
  have hfail : code.failure = false := by
    rw [hcode]
    split <;> decide
  obtain ⟨c', ws, ov, oc, fs, hend⟩ := midOrder_orderEnds (n := n) (p := p) (w := w) (head := head) (k := kind)
    (params := [BitVec.ofNat 8 k.val]) (r := zoneShown code k (p.zone k).state (p.zone k).level) hc hb
    (fun h => absurd (hfail.symm.trans h) (by decide))
  have hpe : perform m (.orderEnds n (zoneShown code k (p.zone k).state (p.zone k).level)) (midOrder n c w p) =
    orderEnds n (zoneShown code k (p.zone k).state (p.zone k).level) (midOrder n c w p) := rfl
  rw [drain_emit (by exact ha) (by simp), hretire, emit_nil, drain_emit (by exact ha) (by simp), hpe, emit_nil,
    drain_done (by rw [hend]; exact ha)]

/-- A zone order that retires at the end of the work it starts, where the work comes to the deck `p`. -/
theorem zoneOrder_retires_after {s : State} {link : Half} {p0 p : Part} {pre : List Act} {a : Nat}
    (h : s.TakesOrder n link head) (hk : kind.ofZone = true) (hplan : s.part.plan.isSome = true)
    (hbr : needsBridge (zoneImage head kind k) kind = true → (s.part.lane n).bridge = true)
    (hB : kind.zoneWork n (midOrder n ((s.part.lane n).holding (heldBy link head (zoneImage head kind k)))
        (takenCells link head.standing s.part.now) s.part) =
      (midOrder n ((s.part.lane n).holding (heldBy link head (zoneImage head kind k)))
        (takenCells link head.standing s.part.now) p0).emit (pre ++ [.zoneRetire n]))
    (hdoes : (midOrder n ((s.part.lane n).holding (heldBy link head (zoneImage head kind k)))
        (takenCells link head.standing s.part.now) p0).Does pre a
      (midOrder n ((s.part.lane n).holding (heldBy link head (zoneImage head kind k)))
        (takenCells link head.standing s.part.now) p) []) (ha : a ≤ 60000)
    (hcode : code = if kind = .shutZone ∧ (p.zone k).state ≠ .shut then .started else .done) (hz : s.part.DeckChange p) :
    s.OrderEnds (runOrder n (zoneImage head kind k) s) n link head
      (zoneShown code k (p.zone k).state (p.zone k).level) p := by
  have hpa : p.agenda = [] := hz.agenda.trans h.takes.quiet.agenda
  have hfail : code.failure = false := by
    rw [hcode]
    split <;> decide
  refine zoneOrder_ends_drained (c := (s.part.lane n).holding (heldBy link head (zoneImage head kind k))) h hk hplan hbr hB
    (fun m => ?_) rfl (fun _ => rfl) (fun hf => absurd (hfail.symm.trans hf) (by decide)) hz
  obtain ⟨x, hx⟩ : ∃ x, 65534 = x + 2 + a := ⟨65532 - a, by omega⟩
  rw [hx, hdoes, List.nil_append]
  exact drain_zoneRetire hpa rfl rfl hcode

/-- A zone order that its block takes to the deck `p`, where it retires after micro-operations that change nothing. -/
theorem zoneOrder_retires {s : State} {link : Half} {p : Part} {pre : List Act} (h : s.TakesOrder n link head)
    (hk : kind.ofZone = true) (hplan : s.part.plan.isSome = true)
    (hbr : needsBridge (zoneImage head kind k) kind = true → (s.part.lane n).bridge = true)
    (hB : ∀ c w, c.current = some (heldBy link head (zoneImage head kind k)) →
      kind.zoneWork n (midOrder n c w s.part) = (midOrder n c w p).emit (pre ++ [.zoneRetire n]))
    (hlen : pre.length ≤ 60000)
    (hpre : ∀ m c w, ∀ a ∈ pre, a ≠ .arbitrate ∧ perform m a (midOrder n c w p) = midOrder n c w p)
    (hcode : code = if kind = .shutZone ∧ (p.zone k).state ≠ .shut then .started else .done) (hz : s.part.DeckChange p) :
    s.OrderEnds (runOrder n (zoneImage head kind k) s) n link head
      (zoneShown code k (p.zone k).state (p.zone k).level) p := by
  exact zoneOrder_retires_after h hk hplan hbr (hB _ _ rfl)
    (.idle (hz.agenda.trans h.takes.quiet.agenda) fun m => hpre m _ _) (by omega) hcode hz

end

/-- Settles O46: the flag is set or cleared by R21's tests in their order; ENABLE DETECTION retires at the end of the work
that the stored loop status starts. -/
theorem detectionOrdersSetFlag : Obligations.DetectionOrdersSetFlag := by
  refine ⟨zoneOrder_refusedOnDisabledZone rfl (fun _ _ _ => rfl) (fun _ => rfl),
    zoneOrder_refusedOnDisabledZone rfl (fun _ _ _ => rfl) (fun _ => rfl), ?_⟩
  intro s n link head k code x z ht hbr hen ha hx
  have hplan := plan_isSome_of_enabled hen
  subst hx
  refine ⟨?_, ?_, ?_⟩
  · intro hcase
    refine ⟨_, exec_order ht rfl, ?_⟩
    refine zoneOrder_ends_setting (kind := .disableDetection) ht rfl hen (fun _ => hbr) (fun c w hc => ?_) ha
    rw [emit_nil]
    rcases hcase with ⟨hf, rfl, rfl⟩ | ⟨hf, hd, rfl, rfl⟩ | ⟨hf, hd, hl, rfl, rfl⟩
    · rw [Part.setZone_self]
      exact orderDisableDetection_same (zoneImage_inHand hc ..) hen (.inl ⟨hf, rfl⟩)
    · rw [Part.setZone_self]
      exact orderDisableDetection_same (zoneImage_inHand hc ..) hen (.inr ⟨hf, hd, rfl⟩)
    · exact orderDisableDetection_sets (zoneImage_inHand hc ..) hen hf hd hl
  · intro hcase
    refine ⟨_, exec_order ht rfl, ?_⟩
    rcases hcase with ⟨hd, rfl⟩ | ⟨hd, hout⟩
    · refine zoneOrder_ends_setting (kind := .enableDetection) (code := .done) ht rfl hen (fun _ => hbr)
        (fun c w hc => ?_) (fun h => absurd h (by decide))
      rw [emit_nil, Part.setZone_self]
      exact orderEnableDetection_same (zoneImage_inHand hc ..) hen hd
    · have hend := zoneOrder_retires (kind := .enableDetection) (p := s.part.setZone k z) (pre := []) ht rfl hplan
        (fun _ => hbr) (fun c w hc => orderEnableDetection_sets (zoneImage_inHand hc ..) hen hd hout) (by simp) (by simp) rfl
        (.setZone (.refl _) ..)
      rwa [Part.setZone_same] at hend
  · intro hd hl hlink hloop hs hauto hmsg hnest
    refine ⟨_, exec_order ht rfl, ?_⟩
    have hend := zoneOrder_retires (kind := .enableDetection) (k := k) (pre := [.zoneAborts k])
      (p := syncFire (s.part.setZone k (Zone.onFire { s.part.zone k with detectionDisabled := false } s.part.now.seconds)))
      ht rfl hplan (fun _ => hbr) (fun c w hc => ?_) (by simp) ?_ rfl (.syncFire (.setZone (.refl _) ..))
    · have hst : (Zone.onFire { s.part.zone k with detectionDisabled := false } s.part.now.seconds).state = .secure := hs
      rw [syncFire_zone, Part.setZone_same, hst] at hend
      exact hend
    · rw [← syncFire_midOrder]
      exact orderEnableDetection_fires (zoneImage_inHand hc ..) hen hd hl hlink hloop hs hauto hmsg
    · intro m c w
      simp only [List.forall_mem_singleton]
      refine ⟨by simp, zoneAborts_idle (fun i => ?_)⟩
      rw [syncFire_eq]
      exact hnest i

end Sys2Proof.Machine
end

section
/-! What makes an event hand a board slot over (R129): a slot's key is the same exactly where its items are. -/

namespace Sys2Proof.Machine

/-! ### Codes and packing (R128) -/

theorem ZoneState.num_injective : Function.Injective ZoneState.num := by
  intro a b
  cases a <;> cases b <;> decide

theorem AlarmLevel.num_injective : Function.Injective AlarmLevel.num := by
  intro a b
  cases a <;> cases b <;> decide

theorem MoverState.num_injective : Function.Injective MoverState.num := by
  intro a b
  cases a <;> cases b <;> decide

theorem MoverCause.num_injective : Function.Injective MoverCause.num := by
  intro a b
  cases a <;> cases b <;> decide

theorem Phase.num_injective : Function.Injective Phase.num := by
  intro a b
  cases a <;> cases b <;> decide

theorem DoorState.num_injective : Function.Injective DoorState.num := by
  intro a b
  cases a <;> cases b <;> decide

theorem DoorCause.num_injective : Function.Injective DoorCause.num := by
  intro a b
  cases a <;> cases b <;> decide

theorem Priority.num_injective : Function.Injective Priority.num := by
  intro a b
  cases a <;> cases b <;> decide

theorem CallState.num_injective : Function.Injective CallState.num := by
  intro a b
  cases a <;> cases b <;> decide

theorem PlayerState.num_injective : Function.Injective PlayerState.num := by
  intro a b
  cases a <;> cases b <;> decide

theorem TimeoutKind.num_injective : Function.Injective TimeoutKind.num := by
  intro a b
  cases a <;> cases b <;> decide

theorem LaneState.num_injective : Function.Injective LaneState.num := by
  intro a b
  cases a <;> cases b <;> decide

theorem LaneCause.num_injective : Function.Injective LaneCause.num := by
  intro a b
  cases a <;> cases b <;> decide

theorem WaitKind.num_injective : Function.Injective WaitKind.num := by
  intro a b
  cases a <;> cases b <;> decide

theorem PartState.num_injective : Function.Injective PartState.num := by
  intro a b
  cases a <;> cases b <;> decide

/-- A cause code names its cause, and 0 none. -/
theorem causeCode_map_inj {α : Type} {f : α → Nat} (hf : Function.Injective f) {x y : Option α} :
    causeCode (x.map f) = causeCode (y.map f) ↔ x = y := by
  cases x <;> cases y <;> simp [causeCode, hf.eq_iff]

theorem PlayerCause.shown_injective : Function.Injective PlayerCause.shown := by
  have hk : ∀ k : TimeoutKind, k.num < 4 := by
    intro k
    cases k <;> decide
  intro a b h
  cases a with
  | none =>
    cases b with
    | none => rfl
    | timeout k => simp [PlayerCause.shown] at h
    | err c => simp [PlayerCause.shown] at h; omega
  | timeout k =>
    have := hk k
    cases b with
    | none => simp [PlayerCause.shown] at h
    | timeout k' =>
      simp only [PlayerCause.shown, Nat.add_right_cancel_iff] at h
      rw [TimeoutKind.num_injective h]
    | err c => simp only [PlayerCause.shown] at h; omega
  | err c =>
    cases b with
    | none => simp [PlayerCause.shown] at h
    | timeout k =>
      have := hk k
      simp only [PlayerCause.shown] at h; omega
    | err c' =>
      simp only [PlayerCause.shown, Nat.add_left_cancel_iff] at h
      rw [BitVec.eq_of_toNat_eq h]

theorem packFlags_inj : ∀ {l l' : List Bool}, l.length = l'.length → (packFlags l = packFlags l' ↔ l = l')
  | [], [], _ => by simp
  | b :: l, b' :: l', h => by
    have ih := packFlags_inj (l := l) (l' := l') (by simpa using h)
    rw [List.cons.injEq, ← ih]
    cases b <;> cases b' <;> simp [packFlags] <;> omega

/-- The number that a list of bytes packs. -/
def bytesValue : List Nat → Nat
  | [] => 0
  | n :: rest => n % 256 + 256 * bytesValue rest

theorem bytesValue_lt : ∀ l : List Nat, bytesValue l < 256 ^ l.length
  | [] => by decide
  | n :: rest => by
    have ih := bytesValue_lt rest
    have := Nat.mod_lt n (show 0 < 256 by decide)
    rw [List.length_cons, pow_succ]
    unfold bytesValue
    omega

theorem packBytes_toNat : ∀ {l : List Nat}, l.length ≤ 4 → (packBytes l).toNat = bytesValue l
  | [], _ => rfl
  | n :: rest, h => by
    have hr : rest.length ≤ 3 := Nat.le_of_succ_le_succ h
    have ih := packBytes_toNat (l := rest) (by omega)
    have hlt : bytesValue rest < 256 ^ 3 := Nat.lt_of_lt_of_le (bytesValue_lt rest)
      (Nat.pow_le_pow_right (show 256 > 0 by decide) hr)
    have hn := Nat.mod_lt n (show 0 < 256 by decide)
    have hw : (word (n % 256)).toNat = n % 256 := by
      rw [word, BitVec.toNat_ofNat]
      exact Nat.mod_eq_of_lt (by omega)
    have hs : (packBytes rest <<< 8).toNat = 2 ^ 8 * bytesValue rest := by
      rw [BitVec.toNat_shiftLeft, ih, Nat.shiftLeft_eq, Nat.mod_eq_of_lt (by omega), Nat.mul_comm]
    unfold packBytes bytesValue
    rw [BitVec.toNat_or, hw, hs, Nat.or_comm, ← Nat.two_pow_add_eq_or_of_lt (by omega)]
    omega

theorem bytesValue_inj : ∀ {l l' : List Nat}, l.length = l'.length →
    (bytesValue l = bytesValue l' ↔ l.map (· % 256) = l'.map (· % 256))
  | [], [], _ => by simp
  | n :: l, n' :: l', h => by
    have ih := bytesValue_inj (l := l) (l' := l') (by simpa using h)
    rw [List.map_cons, List.map_cons, List.cons.injEq, ← ih]
    simp only [bytesValue]
    omega

theorem packBytes_inj {l l' : List Nat} (h4 : l.length ≤ 4) (h : l.length = l'.length) :
    packBytes l = packBytes l' ↔ l.map (· % 256) = l'.map (· % 256) := by
  rw [← bytesValue_inj h, ← packBytes_toNat h4, ← packBytes_toNat (by omega), BitVec.toNat_inj]

theorem packHalves_inj {a b c d : Half} : packHalves a b = packHalves c d ↔ a = c ∧ b = d := by
  have low : ∀ a b : Half, (packHalves a b).setWidth 16 = a := by
    intro a b
    apply BitVec.eq_of_getLsbD_eq
    intro i hi
    simp [packHalves, hi]
  have high : ∀ a b : Half, (packHalves a b >>> 16).setWidth 16 = b := by
    intro a b
    apply BitVec.eq_of_getLsbD_eq
    intro i hi
    simp [packHalves, hi, show 16 + i < 32 by omega, show i < 32 by omega]
  constructor
  · intro h
    exact ⟨by rw [← low a b, h, low], by rw [← high a b, h, high]⟩
  · rintro ⟨rfl, rfl⟩
    rfl

/-! ### The items of each source -/

/-- The source shows in `p` what it showed in `pre`: the rows of `showsTheSame`, each by its source. -/
def sourceSame (pre p : Part) : Source → Prop
  | .lane n =>
    (p.lane n).state = (pre.lane n).state ∧ (p.lane n).cause = (pre.lane n).cause ∧
    (p.lane n).bridge = (pre.lane n).bridge ∧
    (p.lane n).returnAnchor.isSome = (pre.lane n).returnAnchor.isSome ∧
    (p.lane n).nest.length = (pre.lane n).nest.length ∧ (p.lane n).waitKind = (pre.lane n).waitKind
  | .zone k =>
    (p.zone k).state = (pre.zone k).state ∧ (p.zone k).level = (pre.zone k).level ∧
    (p.zone k).detectionDisabled = (pre.zone k).detectionDisabled ∧ (p.zone k).fireLatched = (pre.zone k).fireLatched ∧
    (p.zone k).confirmTimer.isSome = (pre.zone k).confirmTimer.isSome ∧ (p.zone k).callPoint = (pre.zone k).callPoint ∧
    (p.zone k).callLost = (pre.zone k).callLost ∧ ((p.zone k).link = .lost ↔ (pre.zone k).link = .lost) ∧
    ((p.zone k).link = .missing ↔ (pre.zone k).link = .missing) ∧
    word (p.zone k).notClosed = word (pre.zone k).notClosed ∧ (p.zone k).fireTime = (pre.zone k).fireTime
  | .mover m =>
    (p.motion m).state = (pre.motion m).state ∧ ((p.motion m).state = .faulted → (p.motion m).cause = (pre.motion m).cause) ∧
    ((p.motion m).state = .moving → (p.motion m).phase = (pre.motion m).phase) ∧
    (p.motion m).reversal = (pre.motion m).reversal ∧ (p.motion m).stopLatch = (pre.motion m).stopLatch ∧
    (p.motion m).floatAlarm = (pre.motion m).floatAlarm ∧ (p.mover m).brakeReleased = (pre.mover m).brakeReleased ∧
    (p.mover m).toeBroken = (pre.mover m).toeBroken ∧ (p.mover m).localReported = (pre.mover m).localReported ∧
    (p.mover m).faultReported = (pre.mover m).faultReported
  | .door d =>
    (p.door d).state = (pre.door d).state ∧ ((p.door d).state = .faulted → (p.door d).cause = (pre.door d).cause) ∧
    (p.door d).laneOrigin = (pre.door d).laneOrigin ∧ (p.door d).zoneOrigin = (pre.door d).zoneOrigin ∧
    (p.door d).forced = (pre.door d).forced ∧ (p.door d).last = (pre.door d).last ∧
    ((p.door d).link = .lost ↔ (pre.door d).link = .lost) ∧ ((p.door d).link = .missing ↔ (pre.door d).link = .missing) ∧
    word (p.door d).retries = word (pre.door d).retries ∧ word (p.door d).lead = word (pre.door d).lead
  | .calls => callItems p = callItems pre
  | .player =>
    p.player.state = pre.player.state ∧ p.player.cause = pre.player.cause ∧ p.player.message = pre.player.message ∧
    p.player.startedSeen = pre.player.startedSeen ∧ p.player.faultCount = pre.player.faultCount ∧
    p.player.discardCount = pre.player.discardCount
  | .field =>
    p.plan.isSome = pre.plan.isSome ∧
    ∀ st, (p.station st).state = (pre.station st).state ∧ (p.station st).polled = (pre.station st).polled
  | .part =>
    p.port.partState = pre.port.partState ∧ p.port.lanesEnable = pre.port.lanesEnable ∧ p.port.intEn = pre.port.intEn ∧
    p.plan.isSome = pre.plan.isSome ∧ p.generation = pre.generation ∧ p.port.bridgeLanes = pre.port.bridgeLanes ∧
    ∀ n, (p.lane n).state.running = (pre.lane n).state.running

/-- What holds of every index that a slot number comes from holds of the one it comes from. -/
theorem forall_index_iff {N : Nat} {P : Fin N → Prop} {j a : Nat} {i : Fin N} (h : j = a + i.val) :
    (∀ x : Fin N, j = a + x.val → P x) ↔ P i := by
  refine ⟨fun hall => hall i h, fun hi x hx => ?_⟩
  have : x = i := Fin.ext (by omega)
  exact this ▸ hi

/-- A slot number of another range names no index. -/
theorem forall_index_of_outside {N : Nat} {P : Fin N → Prop} {j a : Nat} (h : j < a ∨ a + N ≤ j) :
    (∀ x : Fin N, j = a + x.val → P x) ↔ True := by
  refine iff_true_intro (fun x hx => ?_)
  have := x.isLt
  omega

/-- The slots below 48 are those of an index. -/
theorem slot_rows_of_lt {A B C D : Prop} {j : Nat} (h : j < 48) :
    ((j = 48 → A) ∧ (j = 49 → B) ∧ (j = 50 → C) ∧ (j = 51 → D)) ↔ True :=
  iff_true_intro ⟨by omega, by omega, by omega, by omega⟩

theorem showsTheSame_iff (pre p : Part) (j : SlotId) : showsTheSame pre p j ↔ sourceSame pre p (sourceOf j) := by
  have hj := j.isLt
  have hrows : showsTheSame pre p j ↔
      (∀ n : Lane, j.val = 0 + n.val → sourceSame pre p (.lane n)) ∧
      (∀ k : ZoneId, j.val = 4 + k.val → sourceSame pre p (.zone k)) ∧
      (∀ m : MoverId, j.val = 16 + m.val → sourceSame pre p (.mover m)) ∧
      (∀ d : DoorId, j.val = 24 + d.val → sourceSame pre p (.door d)) ∧
      (j.val = 48 → sourceSame pre p .calls) ∧ (j.val = 49 → sourceSame pre p .player) ∧
      (j.val = 50 → sourceSame pre p .field) ∧ (j.val = 51 → sourceSame pre p .part) := by
    simp only [Nat.zero_add]
    exact Iff.rfl
  rw [hrows]
  unfold sourceOf
  split
  · next h =>
    rw [forall_index_iff (i := ⟨j.val, h⟩) (by simp), forall_index_of_outside (by omega),
      forall_index_of_outside (by omega), forall_index_of_outside (by omega),
      slot_rows_of_lt (by omega)]
    simp only [and_true]
  rw [forall_index_of_outside (N := 4) (by omega)]
  split
  · next h =>
    rw [forall_index_iff (N := 12) (i := ⟨j.val - 4, by omega⟩) (by simp; omega), forall_index_of_outside (by omega),
      forall_index_of_outside (by omega), slot_rows_of_lt (by omega)]
    simp only [and_true, true_and]
  rw [forall_index_of_outside (N := 12) (by omega)]
  split
  · next h =>
    rw [forall_index_iff (N := 8) (i := ⟨j.val - 16, by omega⟩) (by simp; omega), forall_index_of_outside (by omega),
      slot_rows_of_lt (by omega)]
    simp only [and_true, true_and]
  rw [forall_index_of_outside (N := 8) (by omega)]
  split
  · next h =>
    rw [forall_index_iff (N := 24) (i := ⟨j.val - 24, by omega⟩) (by simp; omega), slot_rows_of_lt (by omega)]
    simp only [and_true, true_and]
  rw [forall_index_of_outside (N := 24) (by omega)]
  split
  · next h => simp [h]
  split
  · next h => simp [h]
  split
  · next h => simp [h]
  · simp [show j.val = 51 by omega]

/-! ### The key of each source -/

theorem beq_iff_same {α : Type} [BEq α] [LawfulBEq α] {a b c : α} : (a == c) = (b == c) ↔ (a = c ↔ b = c) := by
  rw [Bool.eq_iff_iff, beq_iff_eq, beq_iff_eq]

section
variable (pre p : Part)

/-- What a slot that a change of any item rewrites is compared by. -/
def SlotContent.items (c : SlotContent) : List Nat := [c.state, c.cause, c.flags, c.first.toNat, c.second.toNat]

theorem zoneItems_iff (k : ZoneId) :
    (p.zoneContent k).items = (pre.zoneContent k).items ↔ sourceSame pre p (.zone k) := by
  simp only [SlotContent.items, Part.zoneContent, Part.content, sourceSame, List.cons.injEq, and_true,
    ZoneState.num_injective.eq_iff, causeCode, Option.map_some, Option.getD_some, Nat.add_right_cancel_iff,
    AlarmLevel.num_injective.eq_iff, packFlags_inj, List.length_cons, List.length_nil, BitVec.toNat_inj, beq_iff_same,
    and_assoc]

theorem causeShown_iff {a b : Motion} (h : a.state = b.state) : a.causeShown = b.causeShown ↔
    (a.state = .faulted → a.cause = b.cause) ∧ (a.state = .moving → a.phase = b.phase) := by
  unfold Motion.causeShown
  rw [← h]
  cases a.state <;> simp [causeCode_map_inj MoverCause.num_injective, Phase.num_injective.eq_iff]

theorem moverItems_iff (m : MoverId) :
    [(p.mover m).motion.state.num, (p.mover m).motion.causeShown, (p.mover m).flagsShown] =
      [(pre.mover m).motion.state.num, (pre.mover m).motion.causeShown, (pre.mover m).flagsShown] ↔
    sourceSame pre p (.mover m) := by
  simp only [List.cons.injEq, and_true, MoverState.num_injective.eq_iff, Mover.flagsShown, packFlags_inj, List.length_cons,
    List.length_nil, sourceSame, Part.motion]
  refine and_congr_right (fun h => ?_)
  rw [causeShown_iff h, and_assoc]

theorem DoorReply.ext_iff' {a b : DoorReply} : a = b ↔ a.openLimit = b.openLimit ∧ a.closedLimit = b.closedLimit ∧
    a.beamBroken = b.beamBroken ∧ a.edge = b.edge ∧ a.localMode = b.localMode ∧ a.motorFault = b.motorFault := by
  cases a
  cases b
  simp

theorem doorItems_iff (d : DoorId) :
    (p.doorContent d).items = (pre.doorContent d).items ↔ sourceSame pre p (.door d) := by
  simp only [SlotContent.items, Part.doorContent, Part.content, sourceSame, List.cons.injEq, and_true,
    DoorState.num_injective.eq_iff, packFlags_inj, List.length_cons, List.length_nil, BitVec.toNat_inj, beq_iff_same,
    and_assoc, Door.sounder, DoorReply.ext_iff']
  refine and_congr_right (fun h => ?_)
  rw [← h]
  by_cases hf : (p.door d).state = .faulted
  · simp [hf, causeCode_map_inj DoorCause.num_injective]
  · simp [hf]

theorem priorityFlags_inj {a b : Priority} {x y : Nat} : a.num + 4 * x = b.num + 4 * y ↔ a = b ∧ x = y := by
  have hlt : ∀ c : Priority, c.num < 4 := by
    intro c
    cases c <;> decide
  have ha := hlt a
  have hb := hlt b
  rw [← Priority.num_injective.eq_iff]
  omega

theorem callItems_iff : p.callContent.items = pre.callContent.items ↔ sourceSame pre p .calls := by
  have hstate : ∀ c : CallState, c.num ≠ 0xFF := by
    intro c
    cases c <;> decide
  cases hp : p.calls.active <;> cases hq : pre.calls.active
  · simp [SlotContent.items, Part.callContent, Part.content, sourceSame, callItems, hp, hq, BitVec.toNat_inj, packHalves_inj,
      packBytes_inj, and_assoc]
  · next e => simp [SlotContent.items, Part.callContent, Part.content, sourceSame, callItems, hp, hq, (hstate e.state).symm]
  · next e => simp [SlotContent.items, Part.callContent, Part.content, sourceSame, callItems, hp, hq, hstate e.state]
  · simp [SlotContent.items, Part.callContent, Part.content, sourceSame, callItems, hp, hq, BitVec.toNat_inj, packHalves_inj,
      packBytes_inj, packFlags_inj, priorityFlags_inj, CallState.num_injective.eq_iff, and_assoc]
    intro _ _ _ _ _
    constructor
    · rintro ⟨hn, hr, hu, hdone, hmask, hlines⟩
      exact ⟨hdone, hlines, hn, hr, hu, hmask⟩
    · rintro ⟨hdone, hlines, hn, hr, hu, hmask⟩
      exact ⟨hn, hr, hu, hdone, hmask, hlines⟩

theorem playerItems_iff : p.playerContent.items = pre.playerContent.items ↔ sourceSame pre p .player := by
  have hmsg : p.player.message.setWidth 32 = pre.player.message.setWidth 32 ↔ p.player.message = pre.player.message := by
    refine ⟨fun h => ?_, fun h => by rw [h]⟩
    have := congrArg (BitVec.setWidth 8) h
    simpa using this
  simp only [SlotContent.items, Part.playerContent, Part.content, sourceSame, List.cons.injEq, and_true,
    PlayerState.num_injective.eq_iff, PlayerCause.shown_injective.eq_iff, packFlags_inj, List.length_cons, List.length_nil,
    BitVec.toNat_inj, packHalves_inj, hmsg]
  constructor
  · rintro ⟨hs, hc, ⟨-, hst⟩, hm, hf, hd⟩
    exact ⟨hs, hc, hm, hst, hf, hd⟩
  · rintro ⟨hs, hc, hm, hst, hf, hd⟩
    exact ⟨hs, hc, ⟨by rw [hm], hst⟩, hm, hf, hd⟩

theorem packFlags_lt : ∀ l : List Bool, packFlags l < 2 ^ l.length
  | [] => by decide
  | b :: l => by
    have ih := packFlags_lt l
    rw [List.length_cons, pow_succ]
    unfold packFlags
    split <;> omega

theorem runningMask_iff : p.runningMask % 256 = pre.runningMask % 256 ↔
    ∀ n, (p.lane n).state.running = (pre.lane n).state.running := by
  have hlt : ∀ q : Part, q.runningMask % 256 = q.runningMask := fun q =>
    Nat.mod_eq_of_lt (Nat.lt_trans (packFlags_lt _) (by simp))
  rw [hlt, hlt, Part.runningMask, Part.runningMask, packFlags_inj (by simp), List.map_inj_left]
  simp

theorem partItems_iff : p.partContent.items = pre.partContent.items ↔ sourceSame pre p .part := by
  have hbytes : packBytes [p.port.bridgeLanes.toNat, p.runningMask] =
      packBytes [pre.port.bridgeLanes.toNat, pre.runningMask] ↔ p.port.bridgeLanes = pre.port.bridgeLanes ∧
        ∀ n, (p.lane n).state.running = (pre.lane n).state.running := by
    have hp := p.port.bridgeLanes.isLt
    have hq := pre.port.bridgeLanes.isLt
    rw [packBytes_inj (l := [p.port.bridgeLanes.toNat, p.runningMask])
      (l' := [pre.port.bridgeLanes.toNat, pre.runningMask]) (by simp) rfl, ← runningMask_iff]
    simp only [List.map_cons, List.map_nil, List.cons.injEq, and_true]
    rw [Nat.mod_eq_of_lt (by omega), Nat.mod_eq_of_lt (by omega), BitVec.toNat_inj]
  simp only [SlotContent.items, Part.partContent, Part.content, sourceSame, List.cons.injEq, and_true,
    PartState.num_injective.eq_iff, packFlags_inj, List.length_cons, List.length_nil, BitVec.toNat_inj, hbytes, true_and,
    and_assoc]

end

theorem toList_map_eq_iff {α β : Type} {n : Nat} (f : α → β) (v w : Vector α n) :
    v.toList.map f = w.toList.map f ↔ ∀ i, f (getAt v i) = f (getAt w i) := by
  constructor
  · intro h i
    have := congrArg (fun l => l[i.val]?) h
    simpa [getAt] using this
  · intro h
    apply List.ext_getElem
    · simp
    · intro i hi _
      simpa [getAt] using h ⟨i, by simpa using hi⟩

/-- A slot's key is the same exactly where its source shows the same. -/
theorem slotKey_iff (pre p : Part) (j : SlotId) : p.slotKey j = pre.slotKey j ↔ showsTheSame pre p j := by
  rw [showsTheSame_iff]
  unfold Part.slotKey
  cases sourceOf j with
  | lane n =>
    simp only [sourceSame, List.cons.injEq, and_true, LaneState.num_injective.eq_iff,
      causeCode_map_inj LaneCause.num_injective, causeCode_map_inj WaitKind.num_injective, packFlags_inj, List.length_cons,
      List.length_nil, and_assoc]
  | zone k => exact zoneItems_iff pre p k
  | mover m => exact moverItems_iff pre p m
  | door d => exact doorItems_iff pre p d
  | calls => exact callItems_iff pre p
  | player => exact playerItems_iff pre p
  | part => exact partItems_iff pre p
  | field =>
    simp only [List.cons.injEq, toList_map_eq_iff, sourceSame]
    refine and_congr ?_ (forall_congr' (fun st => ?_))
    · unfold Part.fieldContent Part.content
      dsimp only
      cases p.plan.isSome <;> cases pre.plan.isSome <;> decide
    · unfold Part.station
      cases (getAt p.field.stations st).state <;> cases (getAt pre.field.stations st).state <;>
        cases (getAt p.field.stations st).polled <;> cases (getAt pre.field.stations st).polled <;> decide

/-- Settles O32: the slots handed over are those forced and those whose key has changed (R129). -/
theorem eventHandsOverChangedSlots : Obligations.EventHandsOverChangedSlots := by
  intro m pre p j hpre hp
  rw [closeEvent_slot p m hp hpre, handOverAll_slot, hp]
  have hkey : (p.forced.contains j || (pre.slotKey j != p.slotKey j)) = true ↔
      j ∈ p.forced ∨ ¬ showsTheSame pre p j := by
    rw [← slotKey_iff, Bool.or_eq_true, List.contains_iff_mem, bne_iff_ne, ne_eq, eq_comm (a := pre.slotKey j)]
  constructor
  · intro h
    rw [if_pos (hkey.2 h)]
  · intro hf hs
    rw [if_neg (fun h => (hkey.1 h).elim hf (fun hn => hn hs))]

end Sys2Proof.Machine
end

section
/-! OPEN DOOR (R73) and what a door that leaves CLOSED reports to its zones (R3). -/

namespace Sys2Proof.Machine

/-! ### The zones' counts (R3) -/

/-- A zone counts one door more that is not closed. -/
def zoneCounts (k : ZoneId) (p : Part) : Part := p.setZone k { p.zone k with notClosed := (p.zone k).notClosed + 1 }

/-- The enabled zones of a door count one door more that is not closed. -/
def countOneMore (d : DoorId) (p : Part) : Part := forEach (p.countingZones d) zoneCounts p

theorem countOneMore_midOrder (n : Lane) (c : LaneContext) (w : List Host.Cell) (d : DoorId) (p : Part) :
    countOneMore d (midOrder n c w p) = midOrder n c w (countOneMore d p) :=
  midOrder_forEach n c w (f := zoneCounts) (fun _ _ => rfl) _ _

theorem countOneMore_setClaim (e : EntryId) (cl : Claim) (d : DoorId) (p : Part) :
    countOneMore d (p.setClaim e cl) = (countOneMore d p).setClaim e cl :=
  forEach_commutes (f := zoneCounts) (g := fun q => q.setClaim e cl) (fun _ _ => rfl) _ _

/-- R3: with none of its zones SHUT, a door that leaves CLOSED is counted and asks for nothing. -/
theorem doorLeft_counts {d : DoorId} {p : Part} (h : ∀ k ∈ p.doorZones d, (p.zone k).state ≠ .shut) :
    doorLeft d p = countOneMore d p := by
  have key : ∀ (l : List ZoneId) (q : Part), (∀ k ∈ l, (q.zone k).state ≠ .shut) →
      forEach l (fun k q =>
        let z := q.zone k
        let q1 := q.setZone k { z with notClosed := z.notClosed + 1,
                                       state := if z.state = .shut then .shutting else z.state }
        if z.state = .shut then q1.emit [.doorZoneRequest d] else q1) q =
      forEach l zoneCounts q := by
    intro l
    induction l with
    | nil => exact fun _ _ => rfl
    | cons k rest ih =>
      intro q hq
      have hk : (q.zone k).state ≠ .shut := hq k (by simp)
      rw [forEach_cons, forEach_cons]
      dsimp only
      rw [if_neg hk, if_neg hk]
      refine ih _ (fun i hi => ?_)
      rw [Part.setZone_get]
      split
      · exact hk
      · exact hq i (by simp [hi])
  exact key _ _ (fun k hk => h k (List.mem_of_mem_filter hk))

/-! ### An order that ends or waits after a report of its door -/

section
variable {s : State} {n : Lane} {link : Half} {head : OrderHead} {k : OrderKind} {params : List Byte} {p0 p : Part}
  {held : HeldRecord} {r : Result} {claims : Vector Claim 32} {e : EntryId} {c : LaneContext} {pre : List Act} {b : Nat}

/-- An order that takes its actuator's claim and ends in the event that took it, once what its block has asked for before has
taken the deck from `p0` to `p`. -/
theorem claim_ends_after (h : s.TakesOrder n link head)
    (hl : params.length ≤ 24) (hc : ∀ c ∈ s.part.paramChecks (orderImage head k params) k, c.2 = true)
    (hplan : s.part.plan.isSome = true ∨ k.needsNoPlan = true)
    (hbr : needsBridge (orderImage head k params) k = true → (s.part.lane n).bridge = true)
    (he : s.part.claimEntry (orderImage head k params) = some e) (hf : s.part.ClaimOpen n e)
    (hB : ∀ m, blockOrder n m (midOrder n ((s.part.lane n).holding (heldBy link head (orderImage head k params)))
        (takenCells link head.standing s.part.now) (s.part.setClaim e (implicitOf n))) =
      (midOrder n c (takenCells link head.standing s.part.now) p0).emit (pre ++ [.orderEnds n r]))
    (hpre : ∀ m acts, drain m 65534 ((midOrder n c (takenCells link head.standing s.part.now) p0).emit (pre ++ acts)) =
      drain m b ((midOrder n c (takenCells link head.standing s.part.now) p).emit acts)) (hb : 65001 ≤ b)
    (hcur : c.current = some (heldBy link head (orderImage head k params)))
    (hgo : ∀ l, c.goesOn link l = (s.part.lane n).taken.goesOn link l)
    (hrest : ClaimSettles n [.steadyReport e] p claims)
    (ha : r.code.failure = true → head.alternate ≠ 0) (hlanes : p.lanes = s.part.lanes) (hag : p.agenda = [])
    (hg : p.generation = s.part.generation) (hps : p.port.partState = s.part.port.partState) :
    s.OrderEnds (runOrder n (orderImage head k params) s) n link head r { p with claims := claims } := by
  obtain ⟨hlt, hd⟩ := order_to_claim h hl hc hplan hbr he hf (by
    rw [takenPart_setClaim, takenPart_mid (p := s.part.setClaim e (implicitOf n)) h.takes _ _ rfl rfl rfl]
    exact hB _)
  obtain ⟨c', ws, ov, oc, fs, eend⟩ := midOrder_orderEnds (r := r) (head := head) (k := k) (params := params) (n := n)
    (p := p) (w := takenCells link head.standing s.part.now) hcur rfl ha
  obtain ⟨x, rfl⟩ : ∃ x, b = x + 1 := ⟨b - 1, by omega⟩
  have hpe : ∀ m, perform m (.orderEnds n r) (midOrder n c (takenCells link head.standing s.part.now) p) =
    orderEnds n r (midOrder n c (takenCells link head.standing s.part.now) p) := fun _ => rfl
  refine midOrder_ends (c := c) (held := heldBy link head (orderImage head k params)) h.takes hl hlt (hd.trans ?_) hcur rfl
    rfl rfl hgo ha hlanes hag hg hps
  rw [List.append_assoc, hpre, List.singleton_append, drain_emit (by exact hag) (by simp), hpe, eend]
  exact hrest _ _ _ _ _ _ _ (by omega)

/-- The same for an order that waits for the action it has started. -/
theorem claim_waits_after {kind : WaitKind} (h : s.TakesOrder n link head)
    (hl : params.length ≤ 24) (hc : ∀ c ∈ s.part.paramChecks (orderImage head k params) k, c.2 = true)
    (hplan : s.part.plan.isSome = true ∨ k.needsNoPlan = true)
    (hbr : needsBridge (orderImage head k params) k = true → (s.part.lane n).bridge = true)
    (he : s.part.claimEntry (orderImage head k params) = some e) (hf : s.part.ClaimOpen n e)
    (hB : ∀ m, blockOrder n m (midOrder n ((s.part.lane n).holding (heldBy link head (orderImage head k params)))
        (takenCells link head.standing s.part.now) (s.part.setClaim e (implicitOf n))) =
      (midOrder n ((s.part.lane n).taken.waitsOn (heldBy link head (orderImage head k params)) kind)
        (takenCells link head.standing s.part.now) p0).emit pre)
    (hpre : ∀ m c acts, drain m 65534 ((midOrder n c (takenCells link head.standing s.part.now) p0).emit (pre ++ acts)) =
      drain m b ((midOrder n c (takenCells link head.standing s.part.now) p).emit acts)) (hb : 65001 ≤ b)
    (hkind : kind ≠ .hold) (hrest : ClaimSettles n [.steadyReport e] p claims)
    (hlanes : p.lanes = s.part.lanes) (hag : p.agenda = [])
    (hg : p.generation = s.part.generation) (hps : p.port.partState = s.part.port.partState) :
    s.OrderWaits (runOrder n (orderImage head k params) s) n link head (orderImage head k params) kind
      { p with claims := claims } := by
  obtain ⟨hlt, hd⟩ := order_to_claim h hl hc hplan hbr he hf (by
    rw [takenPart_setClaim, takenPart_mid (p := s.part.setClaim e (implicitOf n)) h.takes _ _ rfl rfl rfl]
    exact hB _)
  refine midOrder_waits (p := { p with claims := claims }) h.takes hl hlt (hd.trans ?_) hkind hlanes hag hg hps
  rw [hpre]
  exact hrest _ _ _ _ p.forced p.openValues p.openCount (by omega)

end

/-! ### OPEN DOOR (R73) -/

/-- A CLOSED or HALTED door's record in OPENING. -/
def Door.openingFrom (x : Door) (limit : Nat) : Door :=
  { x with state := .opening, laneOrigin := false, forced := false, leadCounter := 0, retryTimer := none,
           motionTimer := some limit }

theorem openDoor_starts {d : DoorId} {p : Part} (hs : (p.door d).state = .halted ∨ (p.door d).state = .closed) :
    openDoor d p = (syncWarn d (p.setDoor d ((p.door d).openingFrom (p.planDoor d).motionLimit))).emit
      (if (p.door d).state = .closed then [.doorLeft d] else []) := by
  unfold openDoor enterOpening doorTo doorReports
  rcases hs with hs | hs <;>
    simp [hs, Door.atRest, Door.openingFrom, DoorState.dropsLane, DoorState.steady,
      show (DoorState.opening != .closed) = true from rfl]

theorem openRefusal_zoneState {p : Part} {d : DoorId} (h : (p.door d).zoneOrigin = true ∨
    ∃ k ∈ p.doorZones d, (p.zone k).state = .shutting ∨ (p.zone k).state = .shut) (bridge : Bool) :
    p.openRefusal d bridge = some .zoneState := by
  unfold Part.openRefusal
  exact if_pos (by simpa using h)

theorem openRefusal_none {p : Part} {d : DoorId} {bridge : Bool} (hz : (p.door d).zoneOrigin = false)
    (hk : ∀ k ∈ p.doorZones d, (p.zone k).state ≠ .shutting ∧ (p.zone k).state ≠ .shut)
    (hf : (p.door d).forced = true → bridge = true)
    (hs : (p.door d).state = .opened ∨ (p.door d).state = .halted ∨ (p.door d).state = .closed) :
    p.openRefusal d bridge = none := by
  unfold Part.openRefusal
  have hzones : (p.doorZones d).any (fun k => ((p.zone k).state == .shutting) || ((p.zone k).state == .shut)) = false := by
    simpa using hk
  have hforced : ((p.door d).forced && !bridge) = false := by
    cases e : (p.door d).forced
    · rfl
    · simp [hf e]
  simp only [hz, hzones, hforced]
  rcases hs with h | h | h <;> simp [h, DoorState.refusal]

section
variable {n : Lane} {c : LaneContext} {w : List Host.Cell} {p : Part} {link : Half} {head : OrderHead} {d : DoorId}
  {e : EntryId} {cl : Claim}

/-- The record image of an order of one door index. -/
abbrev doorImage (head : OrderHead) (kind : OrderKind) (d : DoorId) : List Byte :=
  orderImage head kind [BitVec.ofNat 8 d.val]

theorem blockOrder_openDoor {q : Part} (hb : q.currentBytes n = doorImage head .openDoor d) (m : List Host.Cell) :
    blockOrder n m q = orderOpenDoor n q := by
  unfold blockOrder
  rw [hb, imageKind_orderImage]

theorem orderOpenDoor_refused {code : ResultCode} (hc : c.current = some (heldBy link head (doorImage head .openDoor d)))
    (hr : p.openRefusal d c.bridge = some code) :
    orderOpenDoor n (midOrder n c w p) =
      (midOrder n c w p).emit [.orderEnds n (doorShown code d (p.door d).state (p.door d).retries)] := by
  unfold orderOpenDoor
  rw [midOrder_currentBytes n _ _ _ _ hc, paramDoor_orderImage, midOrder_lane]
  have hr' : (midOrder n c w p).openRefusal d c.bridge = some code := hr
  simp only [hr', doorResult_midOrder hc rfl]

theorem orderOpenDoor_opened (hc : c.current = some (heldBy link head (doorImage head .openDoor d)))
    (hr : p.openRefusal d c.bridge = none) (hs : (p.door d).state = .opened) :
    orderOpenDoor n (midOrder n c w p) =
      (midOrder n c w p).emit [.orderEnds n (doorShown .done d .opened (p.door d).retries)] := by
  unfold orderOpenDoor
  rw [midOrder_currentBytes n _ _ _ _ hc, paramDoor_orderImage, midOrder_lane]
  have hr' : (midOrder n c w p).openRefusal d c.bridge = none := hr
  have hs' : ((midOrder n c w p).door d).state = .opened := hs
  have ho : openDoor d (midOrder n c w p) = midOrder n c w p := by simp [openDoor, hs']
  simp only [hr', ho, hs', if_true, doorResult_midOrder hc rfl, hs]

/-- The record that a door order has made waits for the door, or the order ends STARTED (R71). -/
theorem doorStartedOrWaits_midOrder {y : Door} {acts : List Act}
    (hc : c.current = some (heldBy link head (doorImage head .openDoor d))) (hy : p.door d = y) (hw : y.waiting = none) :
    (headWaits head = false → doorStartedOrWaits d n ((midOrder n c w p).emit acts) =
      (midOrder n c w p).emit (acts ++ [.orderEnds n (doorShown .started d y.state y.retries)])) ∧
    (headWaits head = true → doorStartedOrWaits d n ((midOrder n c w p).emit acts) =
      (midOrder n { c with state := .waiting, waitKind := some .action } w
        (p.setDoor d { y with waiting := some n })).emit acts) := by
  have hbytes : ((midOrder n c w p).emit acts).currentBytes n = doorImage head .openDoor d :=
    midOrder_currentBytes n c w (p.emit acts) _ hc
  have hres : doorResult n .started ((midOrder n c w p).emit acts) = doorShown .started d y.state y.retries := by
    rw [← hy]
    exact doorResult_midOrder (q := p.emit acts) hc rfl .started
  unfold doorStartedOrWaits
  rw [hres, hbytes, imageWait_orderImage]
  constructor
  · intro hh
    rw [hh, whenTrue_false]
    exact (startedOrWaits_ends (w := w) (q := p.emit acts) hc rfl hh).trans
      (emit_emit (midOrder n c w p) acts _)
  · intro hh
    have hwaits : doorWaits d n ((midOrder n c w p).emit acts) =
        midOrder n c w ((p.setDoor d { y with waiting := some n }).emit acts) := by
      have hy' : ((midOrder n c w p).emit acts).door d = y := hy
      unfold doorWaits
      simp only [hy', hw, emit_nil]
      rfl
    rw [hh, whenTrue_true, hwaits]
    exact startedOrWaits_waits hc rfl hh

/-- The deck on which a HALTED or CLOSED door has entered OPENING for the order in hand. -/
def openingDeck (d : DoorId) (waiting : Option Lane) (e : EntryId) (cl : Claim) (p : Part) : Part :=
  (syncWarn d (p.setDoor d { (p.door d).openingFrom (p.planDoor d).motionLimit with waiting := waiting })).setClaim e cl

/-- What a door that leaves its state for OPENING reports. -/
def leavesClosed (d : DoorId) (state : DoorState) : List Act := if state = .closed then [.doorLeft d] else []

theorem orderOpenDoor_starts (hc : c.current = some (heldBy link head (doorImage head .openDoor d)))
    (hr : p.openRefusal d c.bridge = none) (hs : (p.door d).state = .halted ∨ (p.door d).state = .closed)
    (hw : (p.door d).waiting = none) :
    (headWaits head = false → orderOpenDoor n (midOrder n c w (p.setClaim e cl)) =
      (midOrder n c w (openingDeck d none e cl p)).emit
        (leavesClosed d (p.door d).state ++ [.orderEnds n (doorShown .started d .opening (p.door d).retries)])) ∧
    (headWaits head = true → orderOpenDoor n (midOrder n c w (p.setClaim e cl)) =
      (midOrder n { c with state := .waiting, waitKind := some .action } w (openingDeck d (some n) e cl p)).emit
        (leavesClosed d (p.door d).state)) := by
  have hy : { (p.door d).openingFrom (p.planDoor d).motionLimit with waiting := none } =
      (p.door d).openingFrom (p.planDoor d).motionLimit := by
    rw [← hw]
    rfl
  have hopen : openDoor d (midOrder n c w (p.setClaim e cl)) =
      (midOrder n c w (openingDeck d none e cl p)).emit (leavesClosed d (p.door d).state) := by
    refine (openDoor_starts (p := midOrder n c w (p.setClaim e cl)) hs).trans ?_
    unfold openingDeck
    rw [hy, ← syncWarn_setClaim, ← syncWarn_midOrder]
    rfl
  have hdoor : (openingDeck d none e cl p).door d = (p.door d).openingFrom (p.planDoor d).motionLimit := by
    rw [← hy]
    exact (syncWarn_door ..).trans (Part.setDoor_same ..)
  have hdeck : (openingDeck d none e cl p).setDoor d
      { (p.door d).openingFrom (p.planDoor d).motionLimit with waiting := some n } = openingDeck d (some n) e cl p := by
    unfold openingDeck
    rw [hy, show ∀ (q : Part) x, (q.setClaim e cl).setDoor d x = (q.setDoor d x).setClaim e cl from fun _ _ => rfl,
      ← syncWarn_setDoor d d _ _ (by rw [Part.setDoor_same]), Part.setDoor_setDoor]
  have horder : orderOpenDoor n (midOrder n c w (p.setClaim e cl)) = doorStartedOrWaits d n
      ((midOrder n c w (openingDeck d none e cl p)).emit (leavesClosed d (p.door d).state)) := by
    unfold orderOpenDoor
    rw [midOrder_currentBytes n _ _ _ _ hc, paramDoor_orderImage, midOrder_lane]
    have hr' : (midOrder n c w (p.setClaim e cl)).openRefusal d c.bridge = none := hr
    have hst : (((midOrder n c w (openingDeck d none e cl p)).emit (leavesClosed d (p.door d).state)).door d).state ≠
        .opened := by
      show ((openingDeck d none e cl p).door d).state ≠ .opened
      rw [hdoor]
      exact fun h => by cases h
    simp only [hr', hopen, if_neg hst]
  rw [horder, ← hdeck]
  exact doorStartedOrWaits_midOrder hc hdoor hw

end

/-! ### The deck that OPEN DOOR leaves -/

section
variable {p : Part} {d : DoorId} {x : Door}

theorem doorMoved_fromClosed (hs : (p.door d).state = .closed) (hx : x.state ≠ .closed) :
    doorMoved p d x p = countOneMore d (syncWarn d (p.setDoor d x)) := by
  have hz : (syncWarn d (p.setDoor d x)).countingZones d = p.countingZones d := by
    rw [syncWarn_eq]
    rfl
  unfold doorMoved countOneMore
  rw [hz]
  simp only [hs, hx, ne_eq, not_true, and_false, if_false, not_false_eq_true, true_and, if_true]
  rfl

theorem doorMoved_steady (hs : (p.door d).state ≠ .closed) (hx : x.state ≠ .closed) :
    doorMoved p d x p = syncWarn d (p.setDoor d x) := by
  unfold doorMoved
  simp only [hs, hx, false_and, if_false, and_false]
  exact forEach_id _ (fun k _ => Part.setZone_self ..)

theorem doorMoved_eq : doorMoved p d x p =
    { p with zones := (doorMoved p d x p).zones, doors := setAt p.doors d x, lines := (doorMoved p d x p).lines } := by
  refine forEach_keeps (P := fun q => q = { p with zones := q.zones, doors := setAt p.doors d x, lines := q.lines })
    (fun k q hq => ?_) _ _ (by rw [syncWarn_eq]; rfl)
  rw [hq]
  rfl

/-- What a HALTED or CLOSED door has reported before its order ends takes the deck to the zones' new counts (R3). -/
theorem drain_leavesClosed {e : EntryId} {cl : Claim} {n : Lane} {waiting : Option Lane} (ha : p.agenda = [])
    (hx : x = { (p.door d).openingFrom (p.planDoor d).motionLimit with waiting := waiting })
    (hs : (p.door d).state = .halted ∨ (p.door d).state = .closed)
    (hz : ∀ k ∈ p.doorZones d, (p.zone k).state ≠ .shut) :
    ∃ b, 65001 ≤ b ∧ ∀ m c w acts,
      drain m 65534 ((midOrder n c w (openingDeck d waiting e cl p)).emit (leavesClosed d (p.door d).state ++ acts)) =
        drain m b ((midOrder n c w ((doorMoved p d x p).setClaim e cl)).emit acts) := by
  have hxs : x.state ≠ .closed := by
    rw [hx]
    exact fun h => by cases h
  unfold openingDeck
  rw [← hx]
  rcases hs with hs | hs
  · refine ⟨65534, by omega, fun m c w acts => ?_⟩
    rw [hs, doorMoved_steady (by rw [hs]; decide) hxs]
    rfl
  · refine ⟨65533, by omega, fun m c w acts => ?_⟩
    have hleft : perform m (.doorLeft d) (midOrder n c w ((syncWarn d (p.setDoor d x)).setClaim e cl)) =
        midOrder n c w ((doorMoved p d x p).setClaim e cl) := by
      rw [doorMoved_fromClosed hs hxs, ← countOneMore_setClaim, ← countOneMore_midOrder]
      refine doorLeft_counts (fun k hk => ?_)
      rw [syncWarn_eq] at hk ⊢
      exact hz k hk
    rw [hs, show leavesClosed d .closed = [.doorLeft d] from rfl, List.singleton_append,
      drain_emit (by rw [syncWarn_eq]; exact ha) (by simp), hleft]

end

/-- Settles O53: the refusal of R73, the order on an OPEN door, and the entry to OPENING with the zones' counts, which the
door's report makes before the order ends. -/
theorem doorOpenOrders : Obligations.DoorOpenOrders := by
  intro s n link head d x q ht hplan hf
  have hclaim : s.part.claimEntry (doorImage head .openDoor d) = some (doorEntry d) := by
    rw [Part.claimEntry, imageKind_orderImage]
    exact congrArg (fun i => some (doorEntry i)) (paramDoor_orderImage ..)
  refine ⟨fun hz hst ha => ⟨_, exec_order ht rfl, ?_⟩, fun hz hk hforced => ⟨fun hs => ⟨_, exec_order ht rfl, ?_⟩,
    fun hs hw hx hq => ?_⟩⟩
  · refine doorOrder_endsAtOnce ht hplan hf (by simp) (fun h => by cases h) .zoneState (fun mm c w hc hb => ?_) hst
      (fun _ => ha)
    rw [blockOrder_openDoor (midOrder_currentBytes n c w _ _ hc)]
    exact orderOpenDoor_refused hc (openRefusal_zoneState hz _)
  · have href : ∀ bridge, bridge = (s.part.lane n).bridge →
        (s.part.setClaim (doorEntry d) (implicitOf n)).openRefusal d bridge = none := fun bridge hb =>
      openRefusal_none hz hk (fun h => hb.trans (hforced h)) (.inl hs)
    rw [← hs]
    refine doorOrder_endsAtOnce ht hplan hf (by simp) (fun h => by cases h) .done (fun mm c w hc hb => ?_) (by rw [hs]; rfl)
      (fun h => absurd h (by decide))
    rw [blockOrder_openDoor (midOrder_currentBytes n c w _ _ hc), hs]
    exact orderOpenDoor_opened hc (href _ hb) hs
  · have href : (s.part.openRefusal d (s.part.lane n).bridge) = none := openRefusal_none hz hk hforced (.inr hs)
    have hparams := doorOrder_paramChecks s.part head (kind := .openDoor) (by simp) d
    have hz' : ∀ k ∈ s.part.doorZones d, (s.part.zone k).state ≠ .shut := fun k hk' => (hk k hk').2
    obtain ⟨b, hb, hdrain⟩ := drain_leavesClosed (e := doorEntry d) (cl := implicitOf n) (n := n)
      ht.takes.quiet.agenda hx hs hz'
    rw [← hq] at hdrain
    have hqe : q = { s.part with
        zones := q.zones, doors := setAt s.part.doors d x, lines := q.lines, claims := q.claims } := by
      rw [hq, doorMoved_eq]
      rfl
    have hqa : q.agenda = [] := by
      rw [hqe]
      exact ht.takes.quiet.agenda
    have hsettles : ClaimSettles n [.steadyReport (doorEntry d)] q q.claims := by
      refine settles_unsteady (rest := []) hqa ?_ (by simp) (by simp)
      rw [steady_doorEntry, hqe, hx]
      simp [Part.door, DoorState.steady]
    obtain ⟨hends, hwaits⟩ := orderOpenDoor_starts (n := n) (p := s.part) (d := d) (head := head) (link := link)
      (c := (s.part.lane n).holding (heldBy link head (doorImage head .openDoor d)))
      (w := takenCells link head.standing s.part.now) (e := doorEntry d) (cl := implicitOf n) rfl href hs hw
    have hblock := blockOrder_openDoor (n := n) (d := d) (head := head)
      (midOrder_currentBytes n ((s.part.lane n).holding (heldBy link head (doorImage head .openDoor d)))
        (takenCells link head.standing s.part.now) (s.part.setClaim (doorEntry d) (implicitOf n))
        (heldBy link head (doorImage head .openDoor d)) rfl)
    constructor
    · intro hh
      refine ⟨_, exec_order ht rfl, ?_⟩
      rw [hh] at hdrain
      refine claim_ends_after (c := (s.part.lane n).holding (heldBy link head (doorImage head .openDoor d)))
        (p0 := openingDeck d none (doorEntry d) (implicitOf n) s.part) (p := q) ht (by simp) hparams
        (.inl hplan) (fun h => by cases h) hclaim hf.isOpen (fun m => (hblock m).trans (hends hh))
        (fun m acts => hdrain m _ _ acts) hb rfl
        (fun _ => rfl) hsettles
        (fun h => absurd h (show ¬ ResultCode.started.failure = true by decide)) (by rw [hqe]) hqa (by rw [hqe])
        (by rw [hqe])
    · intro hh
      refine ⟨_, exec_order ht rfl, ?_⟩
      rw [hh] at hdrain
      refine claim_waits_after (p0 := openingDeck d (some n) (doorEntry d) (implicitOf n) s.part) (p := q) ht (by simp)
        hparams (.inl hplan) (fun h => by cases h) hclaim hf.isOpen (fun m => (hblock m).trans (hwaits hh))
        (fun m c acts => hdrain m c _ acts) hb
        (by simp) hsettles (by rw [hqe]) hqa (by rw [hqe]) (by rw [hqe])

end Sys2Proof.Machine
end

section
/-! The end of an exchange with a zone's station (R5 to R9, R11, R172, R173, R175, R176). -/

namespace Sys2Proof.Machine

/-! ### A zone's reply -/

/-- The zone's record with what the reply of its station shows. -/
def Zone.heard (z : Zone) (status : LoopStatus) (callPoint : Bool) : Zone :=
  { z with loop := some status, callPoint := callPoint, link := .online }

section
variable {k : ZoneId} {status : LoopStatus} {callPoint recovered : Bool} {p : Part}

theorem zoneReply_inFire (h : (p.zone k).level = .fire) :
    zoneReply k status callPoint recovered p = p.setZone k ((p.zone k).heard status callPoint) := by
  have hj : judgeLoop k status (p.setZone k ((p.zone k).heard status callPoint)) =
      p.setZone k ((p.zone k).heard status callPoint) := judgeLoop_fire (by rw [Part.setZone_same]; exact h) _
  unfold zoneReply
  cases callPoint with
  | true => simp [h, Zone.heard]
  | false =>
    cases hd : (p.zone k).detectionDisabled
    · simpa [hd, Zone.heard] using hj
    · simp [hd, h, Zone.heard]

theorem zoneReply_disabled (hd : (p.zone k).detectionDisabled = true)
    (h : recovered = false ∨ (p.zone k).level ≠ .fault) :
    zoneReply k status false recovered p = p.setZone k ((p.zone k).heard status false) := by
  unfold zoneReply
  rcases h with h | h <;> simp [hd, h, Zone.heard]

/-- R11: a recovery takes FAULT to NONE with detection disabled. -/
theorem zoneReply_recovers (hd : (p.zone k).detectionDisabled = true) (h : (p.zone k).level = .fault) :
    zoneReply k status false true p = p.setZone k { (p.zone k).heard status false with level := .none } := by
  unfold zoneReply
  simp [hd, h, Zone.heard]

theorem zoneReply_judges (hd : (p.zone k).detectionDisabled = false) :
    zoneReply k status false recovered p = judgeLoop k status (p.setZone k ((p.zone k).heard status false)) := by
  unfold zoneReply
  simp [hd, Zone.heard]

theorem zoneReply_fires (hl : (p.zone k).level ≠ .fire)
    (h : callPoint = true ∨ (callPoint = false ∧ status = .two ∧ (p.zone k).detectionDisabled = false)) :
    zoneReply k status callPoint recovered p = enterFire k (p.setZone k ((p.zone k).heard status callPoint)) := by
  rcases h with rfl | ⟨rfl, rfl, hd⟩
  · unfold zoneReply
    simp [hl, Zone.heard]
  · rw [zoneReply_judges hd, judgeLoop_two (by rw [Part.setZone_same]; exact hl)]

end

/-! ### The exchange of a zone's station -/

theorem ownerOf_zoneStation (k : ZoneId) : ownerOf (zoneStation k) = .zone k := by
  unfold ownerOf zoneStation
  rw [dif_neg (by simp; omega), dif_neg (by simp)]
  simp

theorem replyLength_zoneStation (k : ZoneId) : replyLength (zoneStation k) = 4 := by
  rw [replyLength, ownerOf_zoneStation]

theorem missLimit_zoneStation (k : ZoneId) : missLimit (zoneStation k) = 2 := by
  rw [missLimit, ownerOf_zoneStation]

/-- The loop status and the call point are the low three bits of the status byte (Table 9-3). -/
theorem loopOf_low (b : Byte) : loopOf b = loopOf (b &&& 7) := by
  unfold loopOf
  rw [BitVec.and_assoc]
  rfl

theorem callPoint_low (b : Byte) : b.getLsbD 2 = (b &&& 7).getLsbD 2 := by
  rw [BitVec.getLsbD_and]
  simp

/-- A whole valid reply of a zone's station reaches the zone. -/
theorem replyBytes_zone {s : State} {k : ZoneId} {released : Bool} {bytes : List Byte}
    (h : s.Answers (zoneStation k) released bytes) :
    replyBytes bytes s.part = zoneReply k (loopOf (byteAt bytes 1)) ((byteAt bytes 1).getLsbD 2)
      ((s.part.station (zoneStation k)).state == .lost) (s.part.stationHeard (zoneStation k) (byteAt bytes 1) 0) := by
  have hwhole : 4 ≤ bytes.length := by
    rw [← replyLength_zoneStation k]
    exact h.whole
  have hvalid := h.valid
  rw [replyLength_zoneStation] at hvalid
  have hbyte : byteAt (bytes.take 4) 1 = byteAt bytes 1 := by
    simp [byteAt, List.getD]
  unfold replyBytes completeExchange
  rw [h.exchange]
  dsimp only
  rw [replyLength_zoneStation, if_neg (by omega), Option.filter_some, hvalid]
  simp only [if_true, ownerOf_zoneStation, deliverReply, hbyte, Bool.false_eq_true, if_false]
  rfl

/-- The status byte's low three bits give the loop status and the call point. -/
theorem zoneStatus_of_low {x b : Byte} {loop : LoopStatus} (hb : b = x &&& 7)
    (h : ((b = 0 ∨ b = 4) ∧ loop = .normal) ∨ ((b = 1 ∨ b = 5) ∧ loop = .one) ∨ ((b = 2 ∨ b = 6) ∧ loop = .two) ∨
      ((b = 3 ∨ b = 7) ∧ loop = .loopFault)) : loopOf x = loop ∧ x.getLsbD 2 = decide (4 ≤ b.toNat) := by
  rw [loopOf_low, callPoint_low, ← hb]
  clear hb
  rcases h with ⟨rfl | rfl, rfl⟩ | ⟨rfl | rfl, rfl⟩ | ⟨rfl | rfl, rfl⟩ | ⟨rfl | rfl, rfl⟩ <;> decide

theorem exec_reply {s : State} (h : s.Quiet) (bytes : List Byte) :
    exec (.reply bytes) s = .next (runLocal (replyBytes bytes) s) := by
  show Host.Outcome.next (unlessReset (runLocal (replyBytes bytes)) s) = _
  rw [unlessReset_quiet h]

theorem exec_replyWindowClose {s : State} (h : s.Quiet) :
    exec .replyWindowClose s = .next (runLocal replyWindowClose s) := by
  show Host.Outcome.next (unlessReset (runLocal replyWindowClose) s) = _
  rw [unlessReset_quiet h]

theorem stationHeard_deckChange (p : Part) (st : StationId) (status : Byte) (position : Nat) :
    p.DeckChange (p.stationHeard st status position) := ⟨rfl, rfl, rfl, rfl, rfl⟩

/-- What the whole valid reply of a zone's station leads to, by the zone's record with what the reply shows. -/
theorem zoneExchange_heard {s : State} {k : ZoneId} {released : Bool} {bytes : List Byte} {b : Byte} {loop : LoopStatus}
    {z : Zone} {q : Part} (ha : s.Answers (zoneStation k) released bytes) (hb : b = byteAt bytes 1 &&& 7)
    (hloop : ((b = 0 ∨ b = 4) ∧ loop = .normal) ∨ ((b = 1 ∨ b = 5) ∧ loop = .one) ∨ ((b = 2 ∨ b = 6) ∧ loop = .two) ∨
      ((b = 3 ∨ b = 7) ∧ loop = .loopFault))
    (hz : z = (s.part.zone k).heard loop (decide (4 ≤ b.toNat)))
    (hq : q = s.part.stationHeard (zoneStation k) (byteAt bytes 1) 0) :
    replyBytes bytes s.part = zoneReply k loop z.callPoint ((s.part.station (zoneStation k)).state == .lost) q := by
  obtain ⟨hl, hc⟩ := zoneStatus_of_low hb hloop
  rw [replyBytes_zone ha, hl, hc, hz, hq]
  rfl

/-- A miss at a zone's station that leaves it short of LOST reaches the zone as its link (R175). -/
theorem replyWindowClose_zoneMissing {p : Part} {k : ZoneId} {x : Exchange} {t : Station}
    (hx : p.field.exchange = some x) (hst : x.station = zoneStation k) (hdis : x.discard = false)
    (ht : t = (p.station (zoneStation k)).onMiss 2) (hlost : t.state ≠ .lost) :
    replyWindowClose p = Part.setZone k { p.zone k with link := t.state } (Part.setStation (zoneStation k) t
      { p with field := { p.field with exchange := none } }) := by
  unfold replyWindowClose completeExchange
  rw [hx]
  simp only [hdis, hst, missLimit_zoneStation, Bool.false_eq_true, if_false, Option.filter_none, deliverMiss,
    ownerOf_zoneStation]
  rw [show ({ p with field := { p.field with exchange := none } } : Part).station (zoneStation k) =
    p.station (zoneStation k) from rfl, ← ht, if_neg (fun h => hlost h.1), if_neg (fun h => hlost h.1)]
  rfl

/-- The miss that loses a zone's station is counted, and the zone is told (R176, R11). -/
theorem replyWindowClose_zoneLost {p : Part} {k : ZoneId} {x : Exchange} {t : Station}
    (hx : p.field.exchange = some x) (hst : x.station = zoneStation k) (hdis : x.discard = false)
    (ht : t = (p.station (zoneStation k)).onMiss 2) (hlost : t.state = .lost ∧ (p.station (zoneStation k)).state ≠ .lost) :
    replyWindowClose p = zoneLost k (countLoss (zoneStation k) (Part.setStation (zoneStation k) t
      { p with field := { p.field with exchange := none } })) := by
  unfold replyWindowClose completeExchange
  rw [hx]
  simp only [hdis, hst, missLimit_zoneStation, Bool.false_eq_true, if_false, Option.filter_none, deliverMiss,
    ownerOf_zoneStation]
  rw [show ({ p with field := { p.field with exchange := none } } : Part).station (zoneStation k) =
    p.station (zoneStation k) from rfl, ← ht, if_pos hlost, if_pos hlost]

/-- R11: a LOST station takes a zone that has not latched FIRE to FAULT. -/
theorem zoneLost_unlatched {p : Part} {k : ZoneId} (h : (p.zone k).fireLatched = false) :
    zoneLost k p = p.setZone k { p.zone k with link := .lost, confirmTimer := none, level := .fault } := by
  simp [zoneLost, h]

/-- Settles O27: the reply is the zone's record as heard, judged as R5 to R9 say; a miss is the station's own count, told to
the zone. -/
theorem zoneExchangeEnds : Obligations.ZoneExchangeEnds := by
  refine ⟨?_, ?_, ?_⟩
  · intro s k released bytes b loop z q ha hb hloop hz hq
    have hreply := zoneExchange_heard ha hb hloop hz hq
    have hqz : q.zone k = s.part.zone k := by rw [hq]; rfl
    have hdeck : s.part.DeckChange q := by rw [hq]; exact stationHeard_deckChange ..
    have hz' : z = (q.zone k).heard loop z.callPoint := by rw [hqz, hz]; rfl
    have hleads : ∀ y, replyBytes bytes s.part = q.setZone k y → s.Leads (.reply bytes) (q.setZone k y) := fun y hy =>
      ⟨_, exec_reply ha.quiet bytes, ran_of_deckChange ha.quiet hy (hdeck.setZone k y)⟩
    have hlevel : (q.zone k).level = z.level := by rw [hz']; rfl
    have hdis : (q.zone k).detectionDisabled = z.detectionDisabled := by rw [hz']; rfl
    have hclear : z.callPoint = false → (q.zone k).heard loop false = z := fun hc =>
      (congrArg ((q.zone k).heard loop) hc).symm.trans hz'.symm
    have hlow : loop = loopOf b := by
      rw [hb, ← loopOf_low]
      exact (zoneStatus_of_low hb hloop).1.symm
    refine ⟨?_, ?_, ?_, ?_⟩
    · rintro (hl | ⟨hc, hd, hrec⟩)
      · exact hleads z (by rw [hreply, zoneReply_inFire (hlevel.trans hl), ← hz'])
      · refine hleads z ?_
        rw [hreply, hc, zoneReply_disabled (hdis.trans hd) (hrec.imp (by simp) (fun h => hlevel ▸ h)), hclear hc]
    · intro hl hc hd hrec
      refine hleads { z with level := .none } ?_
      rw [hreply, hc, hrec, ← hclear hc]
      exact zoneReply_recovers (hdis.trans hd) (hlevel.trans hl)
    · intro hl hc hd
      have hjudge : replyBytes bytes s.part = judgeLoop k (loopOf b) (q.setZone k z) := by
        rw [hreply, hc, zoneReply_judges (hdis.trans hd), hclear hc, hlow]
      have hl' : ((q.setZone k z).zone k).level ≠ .fire := by rwa [Part.setZone_same]
      refine ⟨fun h => hleads _ ?_, fun h => hleads _ ?_, fun h hpre => hleads _ ?_, fun h hpre hconf => hleads _ ?_⟩
      · rw [hjudge, h, show loopOf 0 = .normal from rfl, judgeLoop_normal hl', Part.setZone_same, Part.setZone_setZone]
      · rw [hjudge, h, show loopOf 3 = .loopFault from rfl, judgeLoop_loopFault hl', Part.setZone_same, Part.setZone_setZone]
      · rw [hjudge, h, show loopOf 1 = .one from rfl, judgeLoop_one_pre (by rwa [Part.setZone_same])]
      · have hplan : (q.setZone k z).planZone k = s.part.planZone k := by rw [hq]; rfl
        have hlow' : z.level = .none ∨ z.level = .fault := by
          cases e : z.level
          · exact .inl rfl
          · exact absurd e hpre
          · exact absurd e hl
          · exact .inr rfl
        rw [hjudge, h, show loopOf 1 = .one from rfl,
          judgeLoop_one (by rwa [Part.setZone_same]) (by rwa [hplan]), hplan, Part.setZone_same, Part.setZone_setZone]
    · intro hl hfires hs hauto hmsg hnest
      have hfire : z.callPoint = true ∨ (z.callPoint = false ∧ loop = .two ∧ (q.zone k).detectionDisabled = false) := by
        cases hc : z.callPoint
        · refine .inr ⟨rfl, ?_⟩
          obtain ⟨h2, hd⟩ := hfires.resolve_left (by simp [hc])
          exact ⟨by rw [hlow, h2]; rfl, hdis.trans hd⟩
        · exact .inl rfl
      have hplan : (q.setZone k z).planZone k = s.part.planZone k := by rw [hq]; rfl
      have hnow : (q.setZone k z).now = s.part.now := by rw [hq]; rfl
      have hnest' : ∀ i, Part.nestEntries (syncFire (q.setZone k (z.onFire s.part.now.seconds))) i = [] := by
        intro i
        rw [syncFire_eq, hq]
        exact hnest i
      refine ⟨_, exec_reply ha.quiet bytes, ran_of_idle_acts (acts := [.zoneAborts k]) ha.quiet ?_ ?_ (by simp)
        (hdeck.setZone k _).syncFire⟩
      · rw [hreply, zoneReply_fires (by rwa [hlevel]) hfire, ← hz',
          enterFire_quiet (by rwa [Part.setZone_same]) (by rwa [hplan]) (by rwa [hplan]), Part.setZone_same,
          Part.setZone_setZone, hnow]
        rfl
      · intro m a hmem
        rw [List.mem_singleton.1 hmem]
        exact ⟨by simp, zoneAborts_idle hnest'⟩
  · intro s x bytes hs hx
    constructor
    · intro hlen
      refine ⟨_, exec_reply hs bytes, ran_of_deckChange hs ?_ (.refl _)⟩
      simp [replyBytes, hx, hlen]
    · intro hlen hinv
      refine ⟨_, exec_reply hs bytes, ?_⟩
      have hsame : replyBytes bytes s.part = replyWindowClose s.part := by
        simp [replyBytes, replyWindowClose, completeExchange, hx, Nat.not_lt.2 hlen, hinv, Option.filter]
      rw [exec_replyWindowClose hs]
      simp only [runLocal, runEvent, eventPart, hsame]
  · intro s k x hs hx hst hdis
    constructor
    · intro hon hm
      have ht : (s.part.station (zoneStation k)).onMiss 2 =
          { s.part.station (zoneStation k) with state := .missing, misses := 1 } := by
        simp [Station.onMiss, hon, hm]
      refine ⟨_, exec_replyWindowClose hs, ran_of_deckChange hs ?_ ⟨rfl, rfl, rfl, rfl, rfl⟩⟩
      exact replyWindowClose_zoneMissing hx hst hdis ht.symm (by simp)
    · intro hmissing hm hf
      have ht : (s.part.station (zoneStation k)).onMiss 2 =
          { s.part.station (zoneStation k) with state := .lost, misses := 2 } := by
        simp [Station.onMiss, hmissing, hm]
      refine ⟨_, exec_replyWindowClose hs, ran_of_deckChange hs ?_ ⟨rfl, rfl, rfl, rfl, rfl⟩⟩
      exact (replyWindowClose_zoneLost hx hst hdis ht.symm ⟨rfl, by simp [hmissing]⟩).trans (zoneLost_unlatched hf)

end Sys2Proof.Machine
end

section
/-! Entry to SHUTTING (R14, R15, R19) and SHUT ZONE (R18). -/

namespace Sys2Proof.Machine

/-! ### The stop requests of an exit from LOADING (R15) -/

/-- A mover that a zone's stop request leaves alone, or stops with no record and no return to end (R35). -/
def Part.StopsAlone (p : Part) (m : MoverId) : Prop :=
  (p.motion m).state ≠ .releasing ∧
    ((p.motion m).state = .moving → (p.motion m).waiting = none ∧ (p.claim (p.entryOfMover m)).status ≠ .underWay)

theorem moverStop_alone {p : Part} {m : MoverId} (h : p.StopsAlone m) :
    moverStop m true p = if (p.motion m).state = .moving then
      setMotion m { p.motion m with state := .stopping, stopLatch := true, pending := none } p else p := by
  obtain ⟨hrel, hmov⟩ := h
  by_cases hm : (p.motion m).state = .moving
  · obtain ⟨hw, hst⟩ := hmov hm
    rw [if_pos hm]
    unfold moverStop moverTo
    simp [hm, endReturn, hst, hw, moverReports, show MoverState.moving.inMotionSet = true from rfl,
      show MoverState.stopping.inMotionSet = true from rfl, show MoverState.stopping.steady = false from rfl]
  · rw [if_neg hm]
    cases e : (p.motion m).state with
    | releasing => exact absurd e hrel
    | moving => exact absurd e hm
    | offline | idle | stopping | settling | floating | localMode | faulted => simp [moverStop, e]

/-- A stop request leaves the others to be stopped as before (a pair's other end is STOPPING after it, R46). -/
theorem StopsAlone_setMotion {p : Part} {m e : MoverId} {mo : Motion} (hmo : mo.state = .stopping) (h : p.StopsAlone e) :
    (setMotion m mo p).StopsAlone e := by
  have hclaim : (setMotion m mo p).claim ((setMotion m mo p).entryOfMover e) = p.claim (p.entryOfMover e) := by
    rw [setMotion_entryOfMover, setMotion_eq]
    rfl
  unfold Part.StopsAlone Part.motion
  rw [hclaim, setMotion_mover]
  split
  · simp [hmo]
  · exact h

theorem stopMovers_does {p : Part} (hp : p.agenda = []) {ms : List MoverId} (h : ∀ m ∈ ms, p.StopsAlone m) :
    p.Does (ms.map (fun m => .moverStop m true)) ms.length (stopMovers ms p) [] := by
  induction ms generalizing p with
  | nil => exact fun _ _ _ => rfl
  | cons m rest ih =>
    have hstop := moverStop_alone (h m (List.mem_cons_self ..))
    obtain ⟨q, hq, hqa, hqs⟩ : ∃ q, moverStop m true p = q ∧ q.agenda = [] ∧ ∀ e ∈ rest, q.StopsAlone e := by
      refine ⟨_, hstop, ?_, ?_⟩ <;> split
      · rw [setMotion_eq]
        exact hp
      · exact hp
      · exact fun e he => StopsAlone_setMotion rfl (h e (List.mem_cons_of_mem _ he))
      · exact fun e he => h e (List.mem_cons_of_mem _ he)
    have hrest : stopMovers (m :: rest) p = stopMovers rest q := by
      rw [← hq, hstop]
      rfl
    rw [hrest, List.length_cons, Nat.add_comm]
    exact Part.Does.append (.one hp (by simp) (fun _ => by rw [emit_nil]; exact hq)) (ih hqa hqs)

/-- With no mover in MOVING there is nothing to stop. -/
theorem stopMovers_rest {p : Part} {ms : List MoverId} (h : ∀ m ∈ ms, (p.mover m).motion.state ≠ .moving) :
    stopMovers ms p = p :=
  forEach_id ms fun m hm => if_neg (h m hm)

theorem stopMovers_midOrder (n : Lane) (c : LaneContext) (w : List Host.Cell) (ms : List MoverId) (p : Part) :
    stopMovers ms (midOrder n c w p) = midOrder n c w (stopMovers ms p) := by
  refine midOrder_forEach n c w (fun m q => ?_) ms p
  rw [midOrder_setMotion, show (midOrder n c w q).motion m = q.motion m from rfl]
  split <;> rfl

theorem setMotion_setZone (m : MoverId) (mo : Motion) (k : ZoneId) (z : Zone) (p : Part) :
    setMotion m mo (p.setZone k z) = (setMotion m mo p).setZone k z :=
  forEach_commutes (f := fun e q => q.setMover e { q.mover e with motion := mo }) (g := fun q => q.setZone k z)
    (fun _ _ => rfl) (p.ends m) p

theorem stopMovers_setZone (ms : List MoverId) (k : ZoneId) (z : Zone) (p : Part) :
    stopMovers ms (p.setZone k z) = (stopMovers ms p).setZone k z := by
  refine forEach_commutes (g := fun q => q.setZone k z) (fun m q => ?_) ms p
  rw [setMotion_setZone, show (q.setZone k z).motion m = q.motion m from rfl]
  split <;> rfl

theorem stopMovers_eq (ms : List MoverId) (p : Part) :
    stopMovers ms p = { p with movers := (stopMovers ms p).movers } := by
  refine forEach_movers (fun m q => ?_) ms p
  split
  · exact setMotion_eq ..
  · rfl

theorem Part.DeckChange.stopMovers {p q : Part} (h : p.DeckChange q) (ms : List MoverId) :
    p.DeckChange (stopMovers ms q) := by
  rw [stopMovers_eq]
  exact ⟨h.agenda, h.writes, h.lanes, h.generation, h.port⟩

/-! ### The work of an entry to SHUTTING (R14) -/

theorem doorZoneRequest_closed {p : Part} {d : DoorId} (h : (p.door d).state = .closed) : doorZoneRequest d p = p := by
  unfold doorZoneRequest
  simp [h]

/-- R19: the SHUT test of a SHUTTING zone all of whose doors are closed. -/
theorem shutTest_shuts {p : Part} {k : ZoneId} (hs : (p.zone k).state = .shutting) (hn : (p.zone k).notClosed = 0) :
    shutTest k p = (p.setZone k { p.zone k with state := .shut }).emit [.endShutWaiters k .done] := by
  unfold shutTest
  rw [if_pos ⟨hs, hn⟩]

theorem shuttingActs_eq {p : Part} {k : ZoneId} (hmsg : (p.planZone k).shutMessage = 0) :
    p.shuttingActs k =
      p.zoneStops k ++ ((p.zoneDoors k).map (fun d => .doorZoneRequest d) ++ [.zoneAborts k, .shutTest k]) := by
  simp [Part.shuttingActs, zoneCallActs, hmsg]

theorem zoneAborts_does {p : Part} {k : ZoneId} (hp : p.agenda = []) (hnest : ∀ l, p.nestEntries l = []) :
    p.Does [.zoneAborts k] 1 p [] :=
  .one hp (by simp) fun _ => by rw [emit_nil]; exact zoneAborts_idle hnest

/-- With every door of the zone CLOSED, the entry's work stops its movers and ends with the zone SHUT. -/
theorem shuttingActs_closed {p : Part} {k : ZoneId} (hp : p.agenda = []) (hs : (p.zone k).state = .shutting)
    (hn : (p.zone k).notClosed = 0) (hd : ∀ d ∈ p.zoneDoors k, (p.door d).state = .closed)
    (hm : ∀ m ∈ p.zoneMovers k, p.StopsAlone m) (hmsg : (p.planZone k).shutMessage = 0)
    (hnest : ∀ l, p.nestEntries l = []) :
    p.Does (p.shuttingActs k) ((p.zoneMovers k).length + ((p.zoneDoors k).length + (1 + 1)))
      (stopMovers (p.zoneMovers k) (p.setZone k { p.zone k with state := .shut })) [.endShutWaiters k .done] := by
  obtain ⟨q, hq, hmovers⟩ : ∃ q, q = stopMovers (p.zoneMovers k) p ∧ q = { p with movers := q.movers } :=
    ⟨_, rfl, stopMovers_eq ..⟩
  have hqa : q.agenda = [] := by rw [hmovers]; exact hp
  have hqz : q.zone k = p.zone k := by rw [hmovers]; rfl
  have hqd : ∀ d, q.door d = p.door d := fun d => by rw [hmovers]; rfl
  have hqn : ∀ l, q.nestEntries l = [] := fun l => by rw [hmovers]; exact hnest l
  have hstops : p.Does (p.zoneStops k) (p.zoneMovers k).length q [] := hq ▸ stopMovers_does hp hm
  have hdoors : q.Does ((p.zoneDoors k).map (fun d => .doorZoneRequest d)) (p.zoneDoors k).length q [] := by
    have hidle := Part.Does.idle (p := q) (acts := (p.zoneDoors k).map (fun d => .doorZoneRequest d)) hqa ?_
    · rwa [List.length_map] at hidle
    · intro m x hx
      obtain ⟨d, hd', rfl⟩ := List.mem_map.1 hx
      exact ⟨by simp, doorZoneRequest_closed ((congrArg Door.state (hqd d)).trans (hd d hd'))⟩
  have hshut : q.Does [.shutTest k] 1 (q.setZone k { q.zone k with state := .shut }) [.endShutWaiters k .done] :=
    .one hqa (by simp) fun _ => shutTest_shuts (by rw [hqz, hs]) (by rw [hqz, hn])
  rw [shuttingActs_eq hmsg, stopMovers_setZone, ← hq, ← hqz]
  exact hstops.append (hdoors.append ((zoneAborts_does hqa hqn).append hshut))

/-- An OPEN door's record in WARNING, asked to close by a zone. -/
def Door.warnedByZone (x : Door) (lead : Nat) : Door :=
  { x with state := .warning, zoneOrigin := true, retries := 0, leadCounter := 0, motionTimer := none, retryTimer := none,
           lead := lead }

theorem doorTo_warning {p : Part} {d : DoorId} {x : Door} (hs : (p.door d).state = .opened) (hx : x.state = .warning) :
    doorTo d x none p = syncWarn d (p.setDoor d x) := by
  have hsame : { x with laneOrigin := x.laneOrigin && !x.state.dropsLane,
                        zoneOrigin := x.zoneOrigin && (x.state != .closed),
                        waiting := if (none : Option ResultCode).isSome then none else x.waiting } = x := by
    cases x
    simp_all [DoorState.dropsLane]
  have hreports : doorReports d (p.door d).state .warning = [] := by
    rw [hs]
    rfl
  unfold doorTo
  dsimp only
  rw [hsame, hx, hreports, List.append_nil, emit_nil]

/-- R61, R62: a zone's close request takes an OPEN door to WARNING, with the lead chosen. -/
theorem doorZoneRequest_opened {p : Part} {d : DoorId} {lead : Nat} (hs : (p.door d).state = .opened)
    (hlead : lead = if (p.door d).forced = true ∨ ∃ i ∈ p.doorZones d, (p.zone i).level = .fire then
      (p.planDoor d).fireLead else (p.planDoor d).lead) (hne : lead ≠ 0) :
    doorZoneRequest d p = syncWarn d (p.setDoor d ((p.door d).warnedByZone lead)) := by
  obtain ⟨x, hx⟩ : ∃ x, x = Door.sequenceBegins { p.door d with zoneOrigin := true } := ⟨_, rfl⟩
  have hchosen : p.chosenLead d x = lead := by
    rw [hlead, chosenLead_eq, hx]
    simp [Door.sequenceBegins]
  have hrequest : doorZoneRequest d p = enterWarning d x none p := by
    simp [doorZoneRequest, hs, hx]
  have hwarned : { x with state := .warning, leadCounter := 0, motionTimer := none, retryTimer := none, lead := lead } =
      (p.door d).warnedByZone lead := by
    rw [hx]
    rfl
  have hlate : leadReached ((p.door d).warnedByZone lead) = false := by
    simp [leadReached, Door.warnedByZone, hne]
  rw [hrequest]
  unfold enterWarning
  dsimp only
  rw [hchosen, hwarned, doorTo_warning hs rfl, syncWarn_door, Part.setDoor_get, if_pos rfl, hlate]
  rfl

/-- With one door of the zone, OPEN, and no mover to stop, the entry's work takes the door to WARNING. -/
theorem shuttingActs_opened {p : Part} {k : ZoneId} {d : DoorId} {lead : Nat} (hp : p.agenda = [])
    (hn : (p.zone k).notClosed ≠ 0) (hd : p.zoneDoors k = [d]) (hs : (p.door d).state = .opened)
    (hm : ∀ m ∈ p.zoneMovers k, (p.mover m).motion.state = .idle) (hmsg : (p.planZone k).shutMessage = 0)
    (hnest : ∀ l, p.nestEntries l = [])
    (hlead : lead = if (p.door d).forced = true ∨ ∃ i ∈ p.doorZones d, (p.zone i).level = .fire then
      (p.planDoor d).fireLead else (p.planDoor d).lead) (hne : lead ≠ 0) :
    p.Does (p.shuttingActs k) ((p.zoneMovers k).length + (1 + (1 + 1)))
      (syncWarn d (p.setDoor d ((p.door d).warnedByZone lead))) [] := by
  obtain ⟨q, hq, hlines⟩ : ∃ q, q = syncWarn d (p.setDoor d ((p.door d).warnedByZone lead)) ∧
      q = { p.setDoor d ((p.door d).warnedByZone lead) with lines := q.lines } := ⟨_, rfl, syncWarn_eq ..⟩
  have hqa : q.agenda = [] := by rw [hlines]; exact hp
  have hqn : ∀ l, q.nestEntries l = [] := fun l => by rw [hlines]; exact hnest l
  have hstops : p.Does (p.zoneStops k) (p.zoneMovers k).length p [] := by
    have hrest : stopMovers (p.zoneMovers k) p = p := stopMovers_rest fun m hm' => by rw [hm m hm']; decide
    have halone : ∀ m ∈ p.zoneMovers k, p.StopsAlone m := fun m hm' =>
      ⟨by rw [Part.motion, hm m hm']; decide, fun h => absurd ((hm m hm').symm.trans h) (by decide)⟩
    have hdoes := stopMovers_does hp halone
    rwa [hrest] at hdoes
  have hdoor : p.Does [.doorZoneRequest d] 1 q [] :=
    .one hp (by simp) fun _ => by rw [emit_nil, hq]; exact doorZoneRequest_opened hs hlead hne
  have htest : q.Does [.shutTest k] 1 q [] :=
    .one hqa (by simp) fun _ => by rw [emit_nil]; exact shutTest_idle (fun _ => by rw [hlines]; exact hn)
  rw [shuttingActs_eq hmsg, hd, ← hq]
  exact hstops.append (hdoor.append ((zoneAborts_does hqa hqn).append htest))

/-! ### SHUT ZONE (R18) -/

section
variable {n : Lane} {q : Part} {head : OrderHead} {k : ZoneId}

theorem orderShutZone_begins (hb : q.currentBytes n = zoneImage head .shutZone k) (hen : (q.planZone k).enabled = true)
    (hs : (q.zone k).state = .secure ∨ (q.zone k).state = .loading) :
    orderShutZone n q = if headWaits head then enterShutting k (laneWaits n .action q)
      else (enterShutting k q).emit [.zoneRetire n] := by
  unfold orderShutZone
  rw [hb]
  dsimp only
  rw [paramZone_zoneImage, imageWait_orderImage]
  rcases hs with hs | hs <;> simp [hen, hs]

theorem orderShutZone_shutting (hb : q.currentBytes n = zoneImage head .shutZone k) (hen : (q.planZone k).enabled = true)
    (hs : (q.zone k).state = .shutting) :
    orderShutZone n q = if headWaits head then laneWaits n .action q else endZoneOrder n .started q := by
  unfold orderShutZone
  rw [hb]
  dsimp only
  rw [paramZone_zoneImage, imageWait_orderImage]
  simp [hen, hs]

theorem orderShutZone_shut (hb : q.currentBytes n = zoneImage head .shutZone k) (hen : (q.planZone k).enabled = true)
    (hs : (q.zone k).state = .shut) : orderShutZone n q = endZoneOrder n .done q := by
  unfold orderShutZone
  rw [hb]
  dsimp only
  rw [paramZone_zoneImage]
  simp [hen, hs]

theorem laneWaits_midOrder (n : Lane) (kind : WaitKind) (c : LaneContext) (w : List Host.Cell) (p : Part) :
    laneWaits n kind (midOrder n c w p) = midOrder n { c with state := .waiting, waitKind := some kind } w p := by
  simp [laneWaits, midOrder, Part.setLane, Part.lane]

/-- The one SHUT ZONE record that waits on the zone is that of lane `n`. -/
theorem shutWaiters_midOrder {c : LaneContext} {w : List Host.Cell} {p : Part} {held : HeldRecord}
    (hc : c.current = some held) (hb : held.bytes = zoneImage head .shutZone k) (hst : c.state = .waiting)
    (hk : c.waitKind = some .action) (hl : ∀ l, l ≠ n → (p.lane l).state ≠ .waiting) :
    (midOrder n c w p).shutWaiters k = [n] := by
  have hbytes : (midOrder n c w p).currentBytes n = zoneImage head .shutZone k :=
    (midOrder_currentBytes n c w p held hc).trans hb
  unfold Part.shutWaiters
  have heq : ∀ l ∈ List.finRange 4, ((((midOrder n c w p).lane l).state == .waiting) &&
      (((midOrder n c w p).lane l).waitKind == some .action) &&
      (imageKind ((midOrder n c w p).currentBytes l) == some .shutZone) &&
      (paramZone ((midOrder n c w p).currentBytes l) == k)) = (l == n) := by
    intro l _
    by_cases e : l = n
    · subst e
      simp [midOrder_lane, hst, hk, hbytes, imageKind_orderImage, paramZone_zoneImage]
    · have hother : (p.lane l).state ≠ .waiting := hl l e
      rw [midOrder_lane_ne e, beq_eq_false_iff_ne.2 hother, beq_eq_false_iff_ne.2 e]
      rfl
  have hone : ∀ i : Fin 4, (List.finRange 4).filter (· == i) = [i] := by decide
  rw [List.filter_congr heq]
  exact hone n

end

/-- What a zone's entry to SHUTTING leaves it to do in an order's event: its work on the part in the middle of the order. -/
theorem enterShutting_midOrder (n : Lane) (c : LaneContext) (w : List Host.Cell) (k : ZoneId) (p : Part) :
    enterShutting k (midOrder n c w p) =
      (midOrder n c w (p.setZone k { p.zone k with state := .shutting })).emit
        ((midOrder n c w (p.setZone k { p.zone k with state := .shutting })).shuttingActs k) := rfl

theorem zoneDoors_length (p : Part) (k : ZoneId) : (p.zoneDoors k).length ≤ 24 :=
  (List.length_filter_le ..).trans (by simp)

theorem zoneMovers_length (p : Part) (k : ZoneId) : (p.zoneMovers k).length ≤ 8 :=
  (List.length_filter_le ..).trans (by simp)

theorem takes_working {s : State} {n : Lane} {link : Half} (h : s.Takes n link) : (s.part.lane n).state = .working := by
  have hnow := h.now
  unfold Part.takesNow at hnow
  dsimp only at hnow
  split at hnow
  · next hw => exact hw.1
  · cases hnow

section
variable {s : State} {n : Lane} {link : Half} {head : OrderHead} {k : ZoneId}

theorem others_midOrder {c : LaneContext} {w : List Host.Cell} {p : Part} (hc : c.state ≠ .waiting)
    (hl : ∀ l, l ≠ n → (p.lane l).state ≠ .waiting) (l : Lane) : ((midOrder n c w p).lane l).state ≠ .waiting := by
  by_cases e : l = n
  · rw [e, midOrder_lane]
    exact hc
  · rw [midOrder_lane_ne e]
    exact hl l e

/-- The end of the record in hand asks for nothing more. -/
theorem orderEnds_does {c : LaneContext} {w : List Host.Cell} {p : Part} {r : Result} {held : HeldRecord} {kind : OrderKind}
    (hp : p.agenda = []) (hc : c.current = some held) (hb : held.bytes = zoneImage head kind k)
    (ha : r.code.failure = true → head.alternate ≠ 0) :
    (orderEnds n r (midOrder n c w p)).agenda = [] ∧
      (midOrder n c w p).Does [.orderEnds n r] 1 (orderEnds n r (midOrder n c w p)) [] := by
  obtain ⟨c', ws, ov, oc, fs, hend⟩ := midOrder_orderEnds (n := n) (p := p) (w := w) (r := r) (head := head) (k := kind)
    (params := [BitVec.ofNat 8 k.val]) hc hb ha
  refine ⟨by rw [hend]; exact hp, .one (by exact hp) (by simp) fun m => ?_⟩
  rw [emit_nil]
  rfl

/-- R18, R19: the SHUT ZONE record that waits retires as the zone stands. -/
theorem endShutWaiters_midOrder {c : LaneContext} {w : List Host.Cell} {p : Part} {held : HeldRecord} {code : ResultCode}
    (hc : c.current = some held) (hb : held.bytes = zoneImage head .shutZone k) (hst : c.state = .waiting)
    (hk : c.waitKind = some .action) (hl : ∀ l, l ≠ n → (p.lane l).state ≠ .waiting) :
    endShutWaiters k code (midOrder n c w p) =
      (midOrder n c w p).emit [.orderEnds n (zoneShown code k (p.zone k).state (p.zone k).level)] := by
  rw [← endZoneOrder_midOrder hc hb, endShutWaiters, shutWaiters_midOrder hc hb hst hk hl]
  rfl

/-- SHUT ZONE on a zone that comes to SHUT in the event: with WAIT set, the record that waits is ended by the SHUT test; with
WAIT clear, the order retires after the zone's work. -/
theorem shutZone_ends_shut (ht : s.TakesOrder n link head) (hen : (s.part.planZone k).enabled = true)
    (hl : ∀ l, l ≠ n → (s.part.lane l).state ≠ .waiting)
    (hs : (s.part.zone k).state = .secure ∨ (s.part.zone k).state = .loading) (hn : (s.part.zone k).notClosed = 0)
    (hd : ∀ d ∈ s.part.zoneDoors k, (s.part.door d).state = .closed)
    (hm : ∀ m ∈ s.part.zoneMovers k, s.part.StopsAlone m) (hmsg : (s.part.planZone k).shutMessage = 0)
    (hnest : ∀ l, s.part.nestEntries l = []) :
    s.OrderEnds (runOrder n (zoneImage head .shutZone k) s) n link head (zoneShown .done k .shut (s.part.zone k).level)
      (stopMovers (s.part.zoneMovers k) (s.part.setZone k { s.part.zone k with state := .shut })) := by
  obtain ⟨q, hq⟩ : ∃ q, q = stopMovers (s.part.zoneMovers k) (s.part.setZone k { s.part.zone k with state := .shut }) :=
    ⟨_, rfl⟩
  have hqz : q.zone k = { s.part.zone k with state := .shut } := by
    rw [hq, stopMovers_setZone, Part.setZone_same]
  have hdeck : s.part.DeckChange q := hq ▸ .stopMovers (.setZone (.refl _) ..) _
  have hqa : q.agenda = [] := hdeck.agenda.trans ht.takes.quiet.agenda
  have hql : ∀ l, l ≠ n → (q.lane l).state ≠ .waiting := fun l e => by
    rw [Part.lane, hdeck.lanes]
    exact hl l e
  have hplan := plan_isSome_of_enabled hen
  have hwork : ∀ c w, (midOrder n c w (s.part.setZone k { s.part.zone k with state := .shutting })).Does
      ((midOrder n c w (s.part.setZone k { s.part.zone k with state := .shutting })).shuttingActs k)
      ((s.part.zoneMovers k).length + ((s.part.zoneDoors k).length + (1 + 1))) (midOrder n c w q)
      [.endShutWaiters k .done] := by
    intro c w
    have hzone : (s.part.setZone k { s.part.zone k with state := .shutting }).zone k =
      { s.part.zone k with state := .shutting } := Part.setZone_same ..
    have hacts := shuttingActs_closed (p := midOrder n c w (s.part.setZone k { s.part.zone k with state := .shutting }))
      (k := k) (by exact ht.takes.quiet.agenda) (by exact congrArg Zone.state hzone)
      ((congrArg Zone.notClosed hzone).trans hn) hd hm hmsg hnest
    have hleft : stopMovers (s.part.zoneMovers k) (midOrder n c w
        ((s.part.setZone k { s.part.zone k with state := .shutting }).setZone k
          { (s.part.setZone k { s.part.zone k with state := .shutting }).zone k with state := .shut })) =
          midOrder n c w q := by
      rw [stopMovers_midOrder, hzone, Part.setZone_setZone, hq]
    exact hleft ▸ hacts
  have hcost : (s.part.zoneMovers k).length + ((s.part.zoneDoors k).length + (1 + 1)) ≤ 50000 := by
    have hm8 := zoneMovers_length s.part k
    have hd24 := zoneDoors_length s.part k
    omega
  obtain ⟨held, hheld⟩ : ∃ held, held = heldBy link head (zoneImage head .shutZone k) := ⟨_, rfl⟩
  cases hwait : headWaits head
  · have hidle : ∀ w, (midOrder n ((s.part.lane n).holding held) w q).Does [.endShutWaiters k .done] 1
        (midOrder n ((s.part.lane n).holding held) w q) [] := fun w =>
      .one hqa (by simp) fun _ => (endShutWaiters_idle (others_midOrder (by
        show (s.part.lane n).state ≠ .waiting
        rw [takes_working ht.takes]
        decide) hql)).trans (emit_nil _).symm
    have hend := zoneOrder_retires_after (kind := .shutZone) (code := .done) ht rfl hplan (fun h => by cases h)
      (by
        show orderShutZone n _ = _
        rw [orderShutZone_begins (zoneImage_inHand rfl ..) hen hs, hwait, if_neg (by simp), enterShutting_midOrder,
          emit_emit])
      ((hwork _ _).andThen (hheld ▸ hidle _)) (by omega) (by rw [hqz]; rfl) hdeck
    rw [hqz] at hend
    exact hq ▸ hend
  · have hends : ∀ w, (midOrder n { (s.part.lane n).holding held with state := .waiting, waitKind := some .action } w q).Does
        [.endShutWaiters k .done] 1
        (midOrder n { (s.part.lane n).holding held with state := .waiting, waitKind := some .action } w q)
        [.orderEnds n (zoneShown .done k (q.zone k).state (q.zone k).level)] := fun w =>
      .one hqa (by simp) fun _ => endShutWaiters_midOrder rfl (by rw [hheld]) rfl rfl hql
    have hdone : (zoneShown .done k (q.zone k).state (q.zone k).level).code.failure = true → head.alternate ≠ 0 :=
      fun h => absurd (show ResultCode.failure .done = true from h) (by decide)
    have hend := zoneOrder_ends_drained (kind := .shutZone) (p := q)
      (r := zoneShown .done k (q.zone k).state (q.zone k).level)
      (c := { (s.part.lane n).holding held with state := .waiting, waitKind := some .action }) ht rfl hplan
      (fun h => by cases h)
      (by
        show orderShutZone n _ = _
        rw [orderShutZone_begins (zoneImage_inHand rfl ..) hen hs, hwait, if_pos rfl, laneWaits_midOrder, ← hheld,
          enterShutting_midOrder])
      (fun m => by
        obtain ⟨hagenda, hlast⟩ := orderEnds_does (n := n) (k := k) (head := head) (kind := .shutZone)
          (c := { (s.part.lane n).holding held with state := .waiting, waitKind := some .action })
          (w := takenCells link head.standing s.part.now) (p := q)
          (r := zoneShown .done k (q.zone k).state (q.zone k).level) hqa rfl (by rw [hheld]) hdone
        exact ((hwork _ _).andThen ((hends _).andThen hlast)).drain_eq hagenda (by omega) m)
      (by rw [← hheld]; rfl) (fun _ => rfl) hdone hdeck
    rw [hqz] at hend
    exact hq ▸ hend

/-- SHUT ZONE whose record comes to wait on the deck `p`. -/
theorem shutZone_waits {q p : Part} {acts : List Act} {a : Nat} (ht : s.TakesOrder n link head)
    (hen : (s.part.planZone k).enabled = true)
    (hB : ∀ w, orderShutZone n
        (midOrder n ((s.part.lane n).holding (heldBy link head (zoneImage head .shutZone k))) w s.part) =
      (midOrder n ((s.part.lane n).taken.waitsOn (heldBy link head (zoneImage head .shutZone k)) .action) w q).emit acts)
    (hdoes : ∀ w,
      (midOrder n ((s.part.lane n).taken.waitsOn (heldBy link head (zoneImage head .shutZone k)) .action) w q).Does acts a
        (midOrder n ((s.part.lane n).taken.waitsOn (heldBy link head (zoneImage head .shutZone k)) .action) w p) [])
    (ha : a ≤ 60000) (hz : s.part.DeckChange p) :
    s.OrderWaits (runOrder n (zoneImage head .shutZone k) s) n link head (zoneImage head .shutZone k) .action p := by
  have hpa : p.agenda = [] := hz.agenda.trans ht.takes.quiet.agenda
  have hcur : (midOrder n ((s.part.lane n).holding (heldBy link head (zoneImage head .shutZone k)))
      (takenCells link head.standing s.part.now) s.part).currentBytes n = zoneImage head .shutZone k :=
    midOrder_currentBytes n _ _ _ (heldBy link head (zoneImage head .shutZone k)) rfl
  obtain ⟨hlt, hd⟩ := order_to_acts (k := .shutZone) (params := [BitVec.ofNat 8 k.val]) ht (by simp)
    (zoneImage_paramChecks _ _ rfl _) (.inl (plan_isSome_of_enabled hen)) (fun h => by cases h)
    (zoneImage_claimEntry _ _ rfl _)
    (by rw [takenPart_mid ht.takes _ _ rfl rfl rfl, blockOrder_zone rfl hcur]; exact hB _)
  exact midOrder_waits ht.takes (by simp) hlt (hd.trans ((hdoes _).drain_eq hpa (by omega) _)) (by simp) hz.lanes hpa
    hz.generation (by rw [hz.port])

theorem level_setZone (p : Part) {k : ZoneId} {z : Zone} (hz : z.level = (p.zone k).level) (i : ZoneId) :
    ((p.setZone k z).zone i).level = (p.zone i).level := by
  rw [Part.setZone_get]
  split
  · next e => rw [← e, hz]
  · rfl

/-- With one door of the zone, OPEN, the zone's work in an order's event takes the door to WARNING. -/
theorem shuttingActs_midOrder_opened {d : DoorId} {lead : Nat} (hp : s.part.agenda = [])
    (hn : (s.part.zone k).notClosed ≠ 0) (hd : s.part.zoneDoors k = [d]) (hs : (s.part.door d).state = .opened)
    (hm : ∀ m ∈ s.part.zoneMovers k, (s.part.mover m).motion.state = .idle) (hmsg : (s.part.planZone k).shutMessage = 0)
    (hnest : ∀ l, s.part.nestEntries l = [])
    (hlead : lead = if (s.part.door d).forced = true ∨ ∃ i ∈ s.part.doorZones d, (s.part.zone i).level = .fire then
      (s.part.planDoor d).fireLead else (s.part.planDoor d).lead) (hne : lead ≠ 0) (c : LaneContext) (w : List Host.Cell) :
    (midOrder n c w (s.part.setZone k { s.part.zone k with state := .shutting })).Does
      ((midOrder n c w (s.part.setZone k { s.part.zone k with state := .shutting })).shuttingActs k)
      ((s.part.zoneMovers k).length + (1 + (1 + 1)))
      (midOrder n c w (syncWarn d ((s.part.setZone k { s.part.zone k with state := .shutting }).setDoor d
        ((s.part.door d).warnedByZone lead)))) [] := by
  have hzone : (s.part.setZone k { s.part.zone k with state := .shutting }).zone k =
    { s.part.zone k with state := .shutting } := Part.setZone_same ..
  have hlead' : lead = if (s.part.door d).forced = true ∨ ∃ i ∈ s.part.doorZones d,
      ((s.part.setZone k { s.part.zone k with state := .shutting }).zone i).level = .fire then
      (s.part.planDoor d).fireLead else (s.part.planDoor d).lead := by
    simpa only [level_setZone s.part (k := k) (z := { s.part.zone k with state := .shutting }) rfl] using hlead
  have hacts := shuttingActs_opened (p := midOrder n c w (s.part.setZone k { s.part.zone k with state := .shutting }))
    (k := k) (d := d) (lead := lead) (by exact hp) (fun h => hn ((congrArg Zone.notClosed hzone).symm.trans h)) hd hs hm
    hmsg hnest hlead' hne
  rw [← syncWarn_midOrder]
  exact hacts

end

/-- Settles O44: by the zone's state; the work of the entry to SHUTTING comes to SHUT where every door is CLOSED, and to the
door's WARNING where it is OPEN. -/
theorem shutZoneByZoneState : Obligations.ShutZoneByZoneState := by
  refine ⟨zoneOrder_refusedOnDisabledZone rfl (fun _ _ _ => rfl) (fun _ => rfl), ?_⟩
  intro s n link head k ht hen hl
  have hplan := plan_isSome_of_enabled hen
  refine ⟨?_, ?_, ?_, ?_, ?_, ?_⟩
  · intro hs hn hd hm hmsg hnest
    refine ⟨_, exec_order ht rfl, ?_⟩
    have hrest : stopMovers (s.part.zoneMovers k) (s.part.setZone k { s.part.zone k with state := .shut }) = _ :=
      stopMovers_rest fun m hm' => (hm m hm').2
    rw [← hrest]
    exact shutZone_ends_shut ht hen hl hs hn hd (fun m hm' => ⟨(hm m hm').1, fun h => absurd h (hm m hm').2⟩) hmsg hnest
  · intro hs hn hd hm hmsg hnest
    refine ⟨_, exec_order ht rfl, ?_⟩
    refine shutZone_ends_shut ht hen hl hs hn hd (fun m hm' => ?_) hmsg hnest
    rcases hm m hm' with h | ⟨h, hw, hc⟩
    · exact ⟨fun e => absurd (h.symm.trans e) (by decide), fun e => absurd (h.symm.trans e) (by decide)⟩
    · exact ⟨fun e => absurd (h.symm.trans e) (by decide), fun _ => ⟨hw, hc⟩⟩
  · intro d lead q hs hn hd hopen hm hmsg hnest hlead hne hq
    have hdoes := shuttingActs_midOrder_opened (n := n) ht.takes.quiet.agenda hn hd hopen hm hmsg hnest hlead hne
    have hq' : q = syncWarn d ((s.part.setZone k { s.part.zone k with state := .shutting }).setDoor d
      ((s.part.door d).warnedByZone lead)) := hq
    have hdeck : s.part.DeckChange q := hq' ▸ .syncWarn (.setDoor (.setZone (.refl _) ..) ..) d
    have hcost : (s.part.zoneMovers k).length + (1 + (1 + 1)) ≤ 60000 := by
      have hm8 := zoneMovers_length s.part k
      omega
    have hqz : q.zone k = { s.part.zone k with state := .shutting } := by
      rw [hq', syncWarn_eq]
      exact Part.setZone_same ..
    rw [← hq'] at hdoes
    constructor
    · intro hwait
      refine ⟨_, exec_order ht rfl, ?_⟩
      have hend := zoneOrder_retires_after (kind := .shutZone) (code := .started) ht rfl hplan (fun h => by cases h)
        (by
          show orderShutZone n _ = _
          rw [orderShutZone_begins (zoneImage_inHand rfl ..) hen hs, hwait, if_neg (by simp), enterShutting_midOrder,
            emit_emit])
        (hdoes _ _) hcost (by rw [hqz]; rfl) hdeck
      rwa [hqz] at hend
    · intro hwait
      refine ⟨_, exec_order ht rfl, ?_⟩
      refine shutZone_waits (q := s.part.setZone k { s.part.zone k with state := .shutting }) (acts := s.part.shuttingActs k)
        ht hen (fun w => ?_) (fun w => hdoes _ w) hcost hdeck
      rw [orderShutZone_begins (zoneImage_inHand rfl ..) hen hs, hwait, if_pos rfl, laneWaits_midOrder,
        enterShutting_midOrder]
      rfl
  · intro hs hwait
    refine ⟨_, exec_order ht rfl, ?_⟩
    have hend := zoneOrder_ends (kind := .shutZone) (k := k) (code := .started) (rest := []) (p := s.part) ht rfl hplan
      (fun h => by cases h) (fun c w hc => ?_) (by simp) (by simp) (fun h => absurd h (by decide)) (.refl _)
    · rwa [hs] at hend
    · rw [emit_nil]
      exact (orderShutZone_shutting (zoneImage_inHand hc ..) hen hs).trans (by rw [hwait]; rfl)
  · intro hs hwait
    refine ⟨_, exec_order ht rfl, ?_⟩
    refine shutZone_waits (q := s.part) (acts := []) (a := 0) ht hen (fun w => ?_) (fun w _ _ _ => rfl) (by omega) (.refl _)
    rw [orderShutZone_shutting (zoneImage_inHand rfl ..) hen hs, hwait, if_pos rfl, laneWaits_midOrder, emit_nil]
    rfl
  · intro hs
    refine ⟨_, exec_order ht rfl, ?_⟩
    have hend := zoneOrder_ends (kind := .shutZone) (k := k) (code := .done) (rest := []) (p := s.part) ht rfl hplan
      (fun h => by cases h) (fun c w hc => ?_) (by simp) (by simp) (fun h => absurd h (by decide)) (.refl _)
    · rwa [hs] at hend
    · rw [emit_nil]
      exact orderShutZone_shut (zoneImage_inHand hc ..) hen hs

end Sys2Proof.Machine
end

section
/-! Entry to FIRE at the confirm timer's expiry (R6, R9, R10, R12 to R15, R90). -/

namespace Sys2Proof.Machine

theorem exec_confirmTimerExpiry {s : State} {k : ZoneId} (h : s.Quiet) (ht : (s.part.zone k).confirmTimer = some 0) :
    exec (.confirmTimerExpiry k) s = .next (runLocal (confirmTimerExpiry k) s) := by
  show Host.Outcome.next (unlessReset (confirmTick k) s) = _
  rw [unlessReset_quiet h]
  unfold confirmTick
  rw [runWhen_due (by rw [ht]; rfl)]

/-! ### The FIRE demands (R12) -/

/-- With zone `k` in FIRE, the lines with a FIRE demand are those of the zones in FIRE and the muster lines. -/
theorem fireWanted_of_fire {p : Part} {k : ZoneId} (h : (p.zone k).level = .fire) (l : LineId) :
    p.fireWanted l = ((decide (∃ i : ZoneId, i.val = l.val ∧ (p.zone i).level = .fire)) ||
      p.inForce.header.muster.getLsbD l.val) := by
  have hany : p.zones.toList.any (fun z => z.level == .fire) = true := by
    rw [List.any_eq_true]
    exact ⟨p.zone k, by simp [Part.zone, getAt], by rw [h]; rfl⟩
  have hown : (if h : l.val < 12 then (p.zone ⟨l.val, h⟩).level == .fire else false) =
      decide (∃ i : ZoneId, i.val = l.val ∧ (p.zone i).level = .fire) := by
    by_cases hl : l.val < 12
    · rw [dif_pos hl, Bool.eq_iff_iff, beq_iff_eq, decide_eq_true_iff]
      exact ⟨fun e => ⟨⟨l.val, hl⟩, rfl, e⟩, fun ⟨i, hi, e⟩ => by rwa [← Fin.ext (a := i) (b := ⟨l.val, hl⟩) hi]⟩
    · rw [dif_neg hl, eq_comm, decide_eq_false_iff_not]
      rintro ⟨i, hi, -⟩
      have := i.isLt
      omega
  unfold Part.fireWanted
  rw [hown, hany, Bool.and_true]

/-! ### What the entry asks for (R9, R10, R14, R15) -/

section
variable {p q : Part} {k : ZoneId} {z : Zone}

/-- R15: a LOADING zone of no auto-shut returns to SECURE and asks its movers to stop. -/
theorem enterFire_loading (hz : z = (p.zone k).onFire p.now.seconds) (hq : q = syncFire (p.setZone k z))
    (hauto : (p.planZone k).autoShut = false) (hmsg : (p.planZone k).fireMessage = 0) (hs : z.state = .loading) :
    enterFire k p = (q.setZone k { z with state := .secure }).emit (p.zoneStops k ++ [.zoneAborts k]) := by
  subst hz
  have hs' : (p.zone k).state = .loading := hs
  have hstops : (syncFire (p.setZone k ((p.zone k).onFire p.now.seconds))).zoneStops k = p.zoneStops k := by
    rw [syncFire_eq]
    rfl
  unfold enterFire
  simp only [hauto, hmsg, zoneCallActs]
  rw [hq, ← hstops]
  simp [Zone.onFire, hs']

/-- R14: a SECURE or LOADING zone with auto-shut enters SHUTTING. -/
theorem enterFire_shutting (hz : z = (p.zone k).onFire p.now.seconds) (hq : q = syncFire (p.setZone k z))
    (hauto : (p.planZone k).autoShut = true) (hmsg : (p.planZone k).fireMessage = 0)
    (hs : z.state = .secure ∨ z.state = .loading) :
    enterFire k p = (q.setZone k { z with state := .shutting }).emit
      ((q.setZone k { z with state := .shutting }).shuttingActs k) := by
  subst hz
  have hzone : q.zone k = (p.zone k).onFire p.now.seconds := by rw [hq, syncFire_zone, Part.setZone_same]
  have henter : enterFire k p = enterShutting k q := by
    have hs' : (p.zone k).state = .secure ∨ (p.zone k).state = .loading := hs
    unfold enterFire
    rcases hs' with hs' | hs' <;> simp [hauto, hmsg, hs', zoneCallActs, hq, Zone.onFire]
  rw [henter, ← hzone]
  rfl

end

/-! ### The fire message (R10, R86, R90) -/

/-- The id of a new call is the next id, where that is free (R86). -/
theorem freeId_unused {used : List Nat} {id n : Nat} (h : id ∉ used) : freeId used n id = id := by
  cases n with
  | zero => rfl
  | succ n =>
    rw [freeId, if_neg]
    simpa using h

/-- R90: a message of no length is lost. -/
theorem zoneCall_noMessage {p : Part} {k : ZoneId} {pr : Priority} {message : Byte} {lines : Half} {repeats chime : Nat}
    (h : p.messageLength message = 0) :
    zoneCall k pr message lines repeats chime p = p.setZone k { p.zone k with callLost := true } := by
  simp [zoneCall, admitCall, h]

/-- R86, R90: an EMERGENCY call that no call of the list is the same as joins the list behind an active EMERGENCY call. -/
theorem zoneCall_queues {p : Part} {k : ZoneId} {message : Byte} {lines : Half} {repeats chime : Nat} {active : CallEntry}
    (hlen : p.messageLength message ≠ 0) (ha : p.calls.active = some active) (hpr : active.priority = .emergency)
    (hroom : p.calls.queued < Config.poolPlaces) (hnew : ∀ e ∈ p.calls.emergency, e.message ≠ message ∨ e.lines ≠ lines)
    (hid : ∀ e ∈ p.calls.entries, e.id ≠ p.calls.nextId) :
    zoneCall k .emergency message lines repeats chime p = setCalls { p.calls with
      emergency := p.calls.emergency ++ [zoneCallEntry k .emergency message lines repeats chime p.calls.nextId],
      nextId := if p.calls.nextId = 255 then 1 else p.calls.nextId + 1 } p := by
  obtain ⟨q, hq⟩ : ∃ q : CallRequest, q = ⟨.zone k, .emergency, message, lines, repeats, false, chime⟩ := ⟨_, rfl⟩
  have hfind : (p.calls.list .emergency).find? q.same = none := by
    rw [List.find?_eq_none]
    intro e he hsame
    simp only [hq, CallRequest.same, Bool.and_eq_true, beq_iff_eq] at hsame
    obtain ⟨⟨-, hm⟩, hl⟩ := hsame
    exact (hnew e he).elim (fun h => h hm) (fun h => h hl)
  have hfree : freeId (p.calls.entries.map (fun e => e.id)) 255 p.calls.nextId = p.calls.nextId :=
    freeId_unused (by simpa using hid)
  have hadmit : admitCall q [] p = (.queued p.calls.nextId, setCalls { p.calls with
      emergency := p.calls.emergency ++ [zoneCallEntry k .emergency message lines repeats chime p.calls.nextId],
      nextId := if p.calls.nextId = 255 then 1 else p.calls.nextId + 1 } p) := by
    unfold admitCall
    have hm : q.message = message := by rw [hq]
    have hp : q.priority = .emergency := by rw [hq]
    dsimp only
    rw [hm, if_neg hlen, hp, hfind]
    dsimp only
    rw [if_pos hroom]
    unfold enqueueCall
    dsimp only
    rw [hfree, hp, hq]
    rfl
  unfold zoneCall
  dsimp only
  rw [← hq, hadmit]
  simp [afterAdmission, setCalls, ha, hpr]

/-! ### The confirm timer's expiry -/

/-- In `s` the confirm timer of zone `k` has counted its last mark; `z` is the zone's record in FIRE, and `q` the deck with
it and the FIRE demands that follow. -/
structure State.AtConfirmEnd (s : State) (k : ZoneId) (z : Zone) (q : Part) : Prop where
  quiet : s.Quiet
  timer : (s.part.zone k).confirmTimer = some 0
  fire  : z = (s.part.zone k).onFire s.part.now.seconds
  deck  : q = syncFire (s.part.setZone k z)

namespace State.AtConfirmEnd

variable {s : State} {k : ZoneId} {z : Zone} {q : Part}

theorem deckChange (h : s.AtConfirmEnd k z q) : s.part.DeckChange q := h.deck ▸ .syncFire (.setZone (.refl _) ..)

theorem agenda (h : s.AtConfirmEnd k z q) : q.agenda = [] := h.deckChange.agenda.trans h.quiet.agenda

/-- The zone's record and the line generators are all that is new. -/
theorem eq_lines (h : s.AtConfirmEnd k z q) : q = { s.part.setZone k z with lines := q.lines } := by
  have heq := syncFire_eq (s.part.setZone k z)
  rwa [← h.deck] at heq

theorem zone (h : s.AtConfirmEnd k z q) : q.zone k = z := by rw [h.deck, syncFire_zone, Part.setZone_same]

theorem nestEntries (h : s.AtConfirmEnd k z q) (l : Lane) : q.nestEntries l = s.part.nestEntries l := by
  rw [h.eq_lines]
  rfl

/-- What the expiry asks for, performed, is what the command leads to. -/
theorem leads (h : s.AtConfirmEnd k z q) {r r' : Part} {acts : List Act} {a : Nat} (hf : enterFire k s.part = r.emit acts)
    (hdoes : r.Does acts a r' []) (ha : a ≤ 60000) (hr : s.part.DeckChange r') : s.Leads (.confirmTimerExpiry k) r' :=
  ⟨_, exec_confirmTimerExpiry h.quiet h.timer, ran_of_does h.quiet hf hdoes ha hr⟩

theorem leads_quiet (h : s.AtConfirmEnd k z q) (hmsg : (s.part.planZone k).fireMessage = 0)
    (hnest : ∀ l, s.part.nestEntries l = []) (hauto : (s.part.planZone k).autoShut = false) (hs : z.state = .secure) :
    s.Leads (.confirmTimerExpiry k) q := by
  refine h.leads (enterFire_secure h.fire h.deck hauto hs) (a := 1) ?_ (by omega) h.deckChange
  rw [zoneCallActs, if_pos hmsg]
  exact zoneAborts_does h.agenda (fun l => (h.nestEntries l).trans (hnest l))

/-- R15: from LOADING. -/
theorem leads_stops (h : s.AtConfirmEnd k z q) (hmsg : (s.part.planZone k).fireMessage = 0)
    (hnest : ∀ l, s.part.nestEntries l = []) (hauto : (s.part.planZone k).autoShut = false) (hs : z.state = .loading)
    (hm : ∀ m ∈ s.part.zoneMovers k, s.part.StopsAlone m) :
    s.Leads (.confirmTimerExpiry k) (stopMovers (s.part.zoneMovers k) (q.setZone k { z with state := .secure })) := by
  have hdeck := (h.deckChange.setZone k { z with state := .secure }).stopMovers (s.part.zoneMovers k)
  have hstops := stopMovers_does (p := q.setZone k { z with state := .secure }) h.agenda (ms := s.part.zoneMovers k)
    (fun m hm' => by rw [h.eq_lines]; exact hm m hm')
  have haborts := zoneAborts_does (k := k) (hdeck.agenda.trans h.quiet.agenda) (fun l => by
    rw [stopMovers_eq, h.eq_lines]
    exact hnest l)
  refine h.leads (enterFire_loading h.fire h.deck hauto hmsg hs) (hstops.append haborts) ?_ hdeck
  have hm8 := zoneMovers_length s.part k
  omega

/-- R14, R19: with auto-shut and every door CLOSED. -/
theorem leads_shut (h : s.AtConfirmEnd k z q) (hmsg : (s.part.planZone k).fireMessage = 0)
    (hnest : ∀ l, s.part.nestEntries l = []) (hauto : (s.part.planZone k).autoShut = true)
    (hs : z.state = .secure ∨ z.state = .loading) (hshut : (s.part.planZone k).shutMessage = 0)
    (hm : ∀ m ∈ s.part.zoneMovers k, (s.part.mover m).motion.state = .idle) (hn : z.notClosed = 0)
    (hd : ∀ d ∈ s.part.zoneDoors k, (s.part.door d).state = .closed) (hl : ∀ l, (s.part.lane l).state ≠ .waiting) :
    s.Leads (.confirmTimerExpiry k) (q.setZone k { z with state := .shut }) := by
  have hzone : (q.setZone k { z with state := .shutting }).zone k = { z with state := .shutting } := Part.setZone_same ..
  have hidle : ∀ m ∈ (q.setZone k { z with state := .shutting }).zoneMovers k, (q.mover m).motion.state = .idle := by
    rw [h.eq_lines]
    exact hm
  have hdeck := h.deckChange.setZone k { z with state := .shut }
  have hwork := shuttingActs_closed (p := q.setZone k { z with state := .shutting }) (k := k) h.agenda (by rw [hzone])
    (by rw [hzone]; exact hn) (by rw [h.eq_lines]; exact hd)
    (fun m hm' => ⟨fun e => absurd ((hidle m hm').symm.trans e) (by decide),
      fun e => absurd ((hidle m hm').symm.trans e) (by decide)⟩)
    (by rw [h.eq_lines]; exact hshut) (fun l => by rw [h.eq_lines]; exact hnest l)
  have hrest : stopMovers ((q.setZone k { z with state := .shutting }).zoneMovers k)
      (q.setZone k { z with state := .shut }) = q.setZone k { z with state := .shut } :=
    stopMovers_rest fun m hm' e => absurd ((hidle m hm').symm.trans e) (by decide)
  rw [hzone, Part.setZone_setZone, hrest] at hwork
  have hend : (q.setZone k { z with state := .shut }).Does [.endShutWaiters k .done] 1
      (q.setZone k { z with state := .shut }) [] :=
    .one h.agenda (by simp) fun _ => (endShutWaiters_idle (fun l => by rw [h.eq_lines]; exact hl l)).trans (emit_nil _).symm
  refine h.leads (enterFire_shutting h.fire h.deck hauto hmsg hs) (hwork.andThen hend) ?_ hdeck
  have hm8 := zoneMovers_length (q.setZone k { z with state := .shutting }) k
  have hd24 := zoneDoors_length (q.setZone k { z with state := .shutting }) k
  omega

/-- R14, R61, R62: with auto-shut and one OPEN door, which gets the fire lead. -/
theorem leads_warns (h : s.AtConfirmEnd k z q) (hmsg : (s.part.planZone k).fireMessage = 0)
    (hnest : ∀ l, s.part.nestEntries l = []) (hauto : (s.part.planZone k).autoShut = true)
    (hs : z.state = .secure ∨ z.state = .loading) (hshut : (s.part.planZone k).shutMessage = 0)
    (hm : ∀ m ∈ s.part.zoneMovers k, (s.part.mover m).motion.state = .idle) {d : DoorId} (hd : s.part.zoneDoors k = [d])
    (hn : z.notClosed ≠ 0) (hopen : (s.part.door d).state = .opened) (hne : (s.part.planDoor d).fireLead ≠ 0) :
    s.Leads (.confirmTimerExpiry k) (syncWarn d ((q.setZone k { z with state := .shutting }).setDoor d
      ((s.part.door d).warnedByZone (s.part.planDoor d).fireLead))) := by
  have hzone : (q.setZone k { z with state := .shutting }).zone k = { z with state := .shutting } := Part.setZone_same ..
  have hin : k ∈ s.part.doorZones d := by
    have hmem : d ∈ s.part.zoneDoors k := by simp [hd]
    simpa [Part.zoneDoors] using hmem
  have hlevel : z.level = .fire := by
    rw [h.fire]
    rfl
  have hdoor : (q.setZone k { z with state := .shutting }).door d = s.part.door d := by
    rw [h.eq_lines]
    rfl
  have hwork := shuttingActs_opened (p := q.setZone k { z with state := .shutting }) (k := k) (d := d)
    (lead := (s.part.planDoor d).fireLead) h.agenda (by rw [hzone]; exact hn) (by rw [h.eq_lines]; exact hd)
    (by rw [hdoor]; exact hopen) (by rw [h.eq_lines]; exact hm) (by rw [h.eq_lines]; exact hshut)
    (fun l => by rw [h.eq_lines]; exact hnest l)
    (by
      rw [if_pos (.inr ⟨k, by rw [h.eq_lines]; exact hin, by rw [hzone]; exact hlevel⟩), h.eq_lines]
      rfl) hne
  rw [hdoor] at hwork
  refine h.leads (enterFire_shutting h.fire h.deck hauto hmsg hs) hwork ?_
    (((h.deckChange.setZone ..).setDoor ..).syncWarn d)
  have hm8 := zoneMovers_length (q.setZone k { z with state := .shutting }) k
  omega

/-- R10, R90: the zone's fire message, handed over to Call Control, which makes `r` of it. -/
theorem leads_calls (h : s.AtConfirmEnd k z q) (hmsg : (s.part.planZone k).fireMessage ≠ 0)
    (hnest : ∀ l, s.part.nestEntries l = []) (hauto : (s.part.planZone k).autoShut = false) (hs : z.state = .secure)
    {r : Part} (hcall : zoneCall k .emergency (s.part.planZone k).fireMessage
      (lineBit (zoneLine k) ||| s.part.inForce.header.muster)
      s.part.inForce.header.fireRepeats s.part.inForce.header.fireChime q = r)
    (hr : s.part.DeckChange r) (hclaims : r.claims = s.part.claims) : s.Leads (.confirmTimerExpiry k) r := by
  refine h.leads (enterFire_secure h.fire h.deck hauto hs) (a := 1 + 1) ?_ (by omega) hr
  rw [zoneCallActs, if_neg hmsg]
  refine Part.Does.append (.one h.agenda (by simp) fun _ => hcall.trans (emit_nil _).symm)
    (zoneAborts_does (hr.agenda.trans h.quiet.agenda) fun l => ?_)
  rw [← hnest l]
  simp only [Part.nestEntries, Part.claim, hclaims]

end State.AtConfirmEnd

end Sys2Proof.Machine
end

section
/-! The abort of a HALT group at rest by its zone (R13, R163, R164, R167), and entry to FIRE. -/

namespace Sys2Proof.Machine

theorem actuatorOf_doorEntry (d : DoorId) : actuatorOf (doorEntry d) = .door d := by
  unfold actuatorOf doorEntry
  rw [dif_neg (by simp)]
  simp

theorem mem_nestEntries {p : Part} {n : Lane} {e : EntryId} : e ∈ p.nestEntries n ↔ (p.claim e).inNest n = true := by
  simp [Part.nestEntries]

/-- R13: of the lanes one alone claims an actuator, and its nest claims a door of the zone. -/
theorem zoneAborts_one {p : Part} {n : Lane} {k : ZoneId} {d : DoorId} (hk : k ∈ p.doorZones d)
    (hc : (p.claim (doorEntry d)).inNest n = true) (ho : ∀ i, i ≠ n → p.nestEntries i = []) :
    zoneAborts k p = p.emit [.nestAbort n .zone 0 none none] := by
  have hany : ∀ i ∈ List.finRange 4, (p.nestEntries i).any (fun e => p.entryInZone e k) = (i == n) := by
    intro i _
    by_cases e : i = n
    · subst e
      rw [beq_self_eq_true, List.any_eq_true]
      refine ⟨doorEntry d, mem_nestEntries.2 hc, ?_⟩
      simp [Part.entryInZone, actuatorOf_doorEntry, hk]
    · rw [ho i e, beq_eq_false_iff_ne.2 e]
      rfl
  have hone : ∀ i : Fin 4, (List.finRange 4).filter (· == i) = [i] := by decide
  have hlanes : (List.finRange 4).filter (fun i => (p.nestEntries i).any (fun e => p.entryInZone e k)) = [n] :=
    (List.filter_congr hany).trans (hone n)
  rw [zoneAborts, hlanes]
  rfl

/-- The abort of a nest of one HALT level, by no further cause (R163, R164). -/
def haltAbort (cause : AbortCause) (link : Half) : AbortRecord :=
  { cause := cause, code := 0, depth := 1, link := link, returnIncomplete := false, furtherCause := false, stopCause := none,
    badLink := none, returns := false }

/-- A lane's context in ABORTING. -/
def LaneContext.aborting (c : LaneContext) (a : AbortRecord) : LaneContext :=
  { c with state := .aborting, link := none, abort := some a }

/-- R163, R164: a cause reaches a lane of one HALT level with no record in hand, all its actuators at rest. -/
theorem nestAbort_atRest {p : Part} {n : Lane} {top : Level} {cause : AbortCause} (hnest : (p.lane n).nest = [top])
    (hret : top.returns = false) (hstate : (p.lane n).state ≠ .aborting) (hcur : (p.lane n).current = none)
    (hw : p.waiters = []) (hu : p.Unwaited n) (hsteady : ∀ e, (p.claim e).inNest n = true → p.steady e = true) :
    nestAbort n cause 0 none none p =
      (p.setLane n ((p.lane n).aborting (haltAbort cause (p.lane n).anchor.link))).emit [.abortTest n] := by
  have hend : endCurrent n .aborted p = p := by
    unfold endCurrent retireCurrent
    rw [hcur]
    exact forgetLane_unwaited hu.movers hu.doors hu.calls hw
  have hhalt : ∀ c, forEach ((p.setLane n c).nestEntries n) haltEntry (p.setLane n c) = p.setLane n c := fun c =>
    forEach_id _ fun e he => haltEntry_steady (hsteady e (mem_nestEntries.1 he))
  unfold nestAbort
  simp only [hnest, List.getLast?_singleton, if_neg hstate, hend, hret, Bool.false_and, Bool.false_eq_true, if_false]
  refine congrArg (Part.emit [.abortTest n]) ((hhalt _).trans ?_)
  simp [LaneContext.aborting, haltAbort, hnest]

/-- R167: with every actuator of a HALT group of one level at rest, its claims are given back, its record retires and the
lane goes on by the group's fallback link, or stops. -/
theorem abortTest_atRest {p : Part} {n : Lane} {c : LaneContext} {top : Level} {a : AbortRecord} (hnest : c.nest = [top])
    (hstop : a.stopCause = none) (hcause : a.cause ≠ .depth)
    (hdone : ∀ e, (p.claim e).inNest n = true → p.steady e = true ∧ (p.claim e).status ≠ .pending) :
    ∃ d f g ov oc fs,
      abortTest n (p.setLane n (c.aborting a)) =
        ({ p with lanes := setAt p.lanes n (haltAborted c top),
                  claims := mapAll (fun x => if x.inNest n then Claim.free else x) p.claims,
                  writes := p.writes ++ retireCells top.record a.result d f g p.now,
                  forced := fs, openValues := ov, openCount := oc } : Part).emit [.arbitrate] ∧
      (∀ h, a.result.detail = some h → d = h) ∧ (∀ w, a.result.first = some w → f = w) ∧
      (∀ w, a.result.second = some w → g = w) := by
  obtain ⟨q, hq⟩ : ∃ q, q = releaseWhere (fun x => x.inNest n) (p.setLane n (c.aborting a)) := ⟨_, rfl⟩
  obtain ⟨d, f, g, ov, oc, fs, hret, h1, h2, h3⟩ := laneRetires_eq n top.record a.result q
  refine ⟨d, f, g, ov, oc, fs, ?_, h1, h2, h3⟩
  have hlane : (p.setLane n (c.aborting a)).lane n = c.aborting a := by simp [Part.lane, Part.setLane]
  have habort : (p.setLane n (c.aborting a)).abortDone n = true := by
    unfold Part.abortDone
    rw [List.all_eq_true]
    intro e he
    obtain ⟨hsteady, hpending⟩ := hdone e (mem_nestEntries.1 he)
    rw [Bool.and_eq_true]
    exact ⟨hsteady, bne_iff_ne.2 hpending⟩
  have hqlane : q.lane n = c.aborting a := by rw [hq]; exact hlane
  have hfollow : ∀ r : Part, r.lane n = { c.aborting a with retired := c.retired + 1, anchor := .record top.record.link } →
      afterAbort n a top.record.alternate (r.setLane n { r.lane n with
        nest := [], abort := none, returnAnchor := if top.inDetour then (r.lane n).returnAnchor else none }) =
      r.setLane n (haltAborted c top) := by
    intro r hr
    unfold afterAbort haltAborted
    rw [hstop, hr]
    dsimp only
    by_cases h0 : top.record.alternate = 0
    · rw [if_neg (by simpa using h0), if_pos h0, if_neg hcause]
      simp [stopLane, Part.setLane, Part.lane, LaneContext.stopped, LaneContext.retiredAt, LaneContext.aborting]
    · rw [if_pos h0, if_neg h0]
      simp [followLink_eq, Part.setLane, Part.lane, LaneContext.follows, LaneContext.retiredAt, LaneContext.aborting]
  have htest : abortTest n (p.setLane n (c.aborting a)) =
      (afterAbort n a top.record.alternate ((laneRetires n top.record a.result q).setLane n
        { (laneRetires n top.record a.result q).lane n with
          nest := [], abort := none,
          returnAnchor := if top.inDetour then ((laneRetires n top.record a.result q).lane n).returnAnchor else none })).emit
        [.arbitrate] := by
    have hab : ((p.setLane n (c.aborting a)).lane n).abort = some a := by rw [hlane]; rfl
    have hn : ((p.setLane n (c.aborting a)).lane n).nest = [top] := by rw [hlane]; exact hnest
    have hst : (((p.setLane n (c.aborting a)).lane n).state == .aborting) = true := by rw [hlane]; rfl
    unfold abortTest
    dsimp only
    rw [hab, hn, List.getLast?_singleton]
    dsimp only
    rw [hst, habort, if_pos (by rfl), forEach_cons, forEach_nil, ← hq]
  rw [htest, hfollow, hret, hq]
  · simp only [Part.setLane, releaseWhere, setAt_setAt]
    rfl
  · rw [hret]
    exact (getAt_setAt_same ..).trans (by rw [hqlane]; rfl)

theorem haltAborted_waitKind {c : LaneContext} (h : c.waitKind = none) (top : Level) :
    (haltAborted c top).waitKind = none := by
  unfold haltAborted
  split
  · rfl
  · exact h

/-- R13, R163, R167: at the entry to FIRE of a SECURE zone, the nest of a lane that claims a door of the zone aborts: a HALT
group at rest ends in the event. -/
theorem State.AtConfirmEnd.retires_nest {s : State} {k : ZoneId} {z : Zone} {q : Part} {n : Lane} {top : Level} {l : Half}
    {d : DoorId} (h : s.AtConfirmEnd k z q) (hauto : (s.part.planZone k).autoShut = false) (hs : z.state = .secure)
    (hmsg : (s.part.planZone k).fireMessage = 0)
    (hstate : (s.part.lane n).state ≠ .aborting) (hcur : (s.part.lane n).current = none)
    (hwait : (s.part.lane n).waitKind = none) (hnest : (s.part.lane n).nest = [top])
    (hanchor : (s.part.lane n).anchor = .record l) (hret : top.returns = false) (hv : linkValid top.record.link = true)
    (hclamped : top.record.clamped = false) (hk : k ∈ s.part.doorZones d)
    (hclaim : (s.part.claim (doorEntry d)).inNest n = true)
    (hsteady : ∀ e, (s.part.claim e).inNest n = true → s.part.steady e = true ∧ (s.part.claim e).status ≠ .pending)
    (ho : ∀ i, i ≠ n → s.part.nestEntries i = []) (hw : s.part.waiters = []) (hu : s.part.Unwaited n) :
    ∃ t, exec (.confirmTimerExpiry k) s = .next t ∧
      s.Retires t n top.record.link (if top.record.standing then readByte s.mem (slotBase top.record.link) else ownerRetired)
        (Result.of .aborted 1 1 (l.setWidth 32))
        (Part.setLane n (haltAborted (s.part.lane n) top)
          { q with claims := mapAll (fun c => if c.inNest n then Claim.free else c) s.part.claims }) := by
  have hlane : ∀ i, q.lane i = s.part.lane i := fun i => by rw [h.eq_lines]; rfl
  have hq : q.claims = s.part.claims := by rw [h.eq_lines]; rfl
  have hqsteady : ∀ e, (q.claim e).inNest n = true → q.steady e = true ∧ (q.claim e).status ≠ .pending := by
    rw [h.eq_lines]
    exact hsteady
  have hzone : zoneAborts k q = q.emit [.nestAbort n .zone 0 none none] :=
    zoneAborts_one (d := d) (by rw [h.eq_lines]; exact hk) (by rw [h.eq_lines]; exact hclaim)
      (fun i hi => (h.nestEntries i).trans (ho i hi))
  have habort := nestAbort_atRest (p := q) (cause := .zone) (by rw [hlane]; exact hnest) hret (by rw [hlane]; exact hstate)
    (by rw [hlane]; exact hcur) (by rw [h.eq_lines]; exact hw) (by rw [h.eq_lines]; exact ⟨hu.movers, hu.doors, hu.calls⟩)
    (fun e he => (hqsteady e he).1)
  have hres : (haltAbort .zone (s.part.lane n).anchor.link).result = Result.of .aborted 1 1 (l.setWidth 32) := by
    rw [hanchor]
    simp [haltAbort, AbortRecord.result, AbortCause.num, Anchor.link, word]
  obtain ⟨dt, f, g, ov, oc, fs, htest, h1, h2, h3⟩ := abortTest_atRest (p := q) (c := s.part.lane n) (top := top) (n := n)
    (a := haltAbort .zone (s.part.lane n).anchor.link) hnest rfl (by simp [haltAbort]) hqsteady
  obtain ⟨r, hr⟩ : ∃ r : Part, r = { q with
      lanes := setAt q.lanes n (haltAborted (s.part.lane n) top),
      claims := mapAll (fun x => if x.inNest n then Claim.free else x) q.claims,
      writes := q.writes ++ retireCells top.record (haltAbort .zone (s.part.lane n).anchor.link).result dt f g q.now,
      forced := fs, openValues := ov, openCount := oc } := ⟨_, rfl⟩
  rw [← hr] at htest
  rw [hlane] at habort
  have hra : r.agenda = [] := by rw [hr]; exact h.agenda
  have hcause : q.Does [.zoneAborts k] 1 q [.nestAbort n .zone 0 none none] := .one h.agenda (by simp) fun _ => hzone
  have hhalt : q.Does [.nestAbort n .zone 0 none none] 1
      (q.setLane n ((s.part.lane n).aborting (haltAbort .zone (s.part.lane n).anchor.link))) [.abortTest n] :=
    .one h.agenda (by simp) fun _ => habort
  have hends : (q.setLane n ((s.part.lane n).aborting (haltAbort .zone (s.part.lane n).anchor.link))).Does [.abortTest n] 1 r
      [.arbitrate] := .one h.agenda (by simp) fun _ => htest
  have hdoes := hcause.andThen (hhalt.andThen hends)
  have hdrain : drain s.mem Config.agendaBound (confirmTimerExpiry k s.part) = r := by
    have hfire : confirmTimerExpiry k s.part = q.emit ([.zoneAborts k] ++ []) := by
      refine (enterFire_secure h.fire h.deck hauto hs).trans ?_
      rw [zoneCallActs, if_pos hmsg]
      rfl
    rw [hfire, show Config.agendaBound = 65532 + 1 + (1 + (1 + 1)) from rfl, hdoes,
      drain_arbitrate (by simp [Part.emit, hra]) (by rw [hr, h.eq_lines]; exact hw)]
    cases r
    simp_all [Part.emit]
  have hother : ∀ i, i ≠ n → r.lane i = s.part.lane i := fun i hi => by
    rw [hr]
    exact (getAt_setAt_ne _ _ (Ne.symm hi)).trans (hlane i)
  have hown : r.lane n = haltAborted (s.part.lane n) top := by
    rw [hr]
    exact getAt_setAt_same ..
  have hretires := event_retires (fn := fun _ => confirmTimerExpiry k) (n := n) (held := top.record) (at' := q.now)
    h.quiet.mem hv hdrain hra
    (metHolds_none fun i => by
      by_cases e : i = n
      · rw [e, hown, haltAborted_waitKind hwait]
        simp
      · rw [hother i e]
        exact h.quiet.noHold i (by simp))
    (by rw [hr, h.deckChange.writes.trans h.quiet.settled.1]; rfl) h1 h2 h3 hother
    (by rw [hr]; exact h.deckChange.generation) (by rw [hr]; exact congrArg _ h.deckChange.port)
  refine ⟨_, exec_confirmTimerExpiry h.quiet h.timer, Part.Follows.trans ?_ hretires.follows, hretires.owner, ?_,
    hretires.keeps, hretires.queue, hretires.done⟩
  · rw [hr, ← hq]
    exact ⟨rfl, rfl, rfl, rfl, rfl, rfl, rfl, rfl, rfl, rfl, rfl, rfl, rfl, rfl, rfl⟩
  · have hshows := hretires.result
    rw [hclamped, hres] at hshows
    exact hshows

/-- Settles O19: the deck in FIRE with its demands, and what the entry asks for beyond it, case by case: stops, the entry to
SHUTTING, the fire message, the zone's abort. -/
theorem confirmExpiryEntersFire : Obligations.ConfirmExpiryEntersFire := by
  intro s k z q hquiet htimer hz hq
  have h : s.AtConfirmEnd k z q := ⟨hquiet, htimer, hz, hq⟩
  have hstop : ∀ m, (s.part.mover m).motion.state = .idle ∨ ((s.part.mover m).motion.state = .moving ∧
      (s.part.mover m).motion.waiting = none ∧ (s.part.claim (s.part.entryOfMover m)).status ≠ .underWay) →
      s.part.StopsAlone m := by
    rintro m (hi | ⟨hm, hw, hc⟩)
    · exact ⟨fun e => absurd (hi.symm.trans e) (by decide), fun e => absurd (hi.symm.trans e) (by decide)⟩
    · exact ⟨fun e => absurd (hm.symm.trans e) (by decide), fun _ => ⟨hw, hc⟩⟩
  refine ⟨?_, ?_, ?_⟩
  · intro l
    have hlevel : ((s.part.setZone k z).zone k).level = .fire := by
      rw [Part.setZone_same, h.fire]
      rfl
    rw [hq, syncFire_fire]
    exact fireWanted_of_fire hlevel l
  · intro hmsg hnest
    refine ⟨h.leads_quiet hmsg hnest,
      fun hauto hs hm => h.leads_stops hmsg hnest hauto hs fun m hm' => hstop m (hm m hm'), ?_⟩
    intro hauto hs hshut hm
    exact ⟨h.leads_shut hmsg hnest hauto hs hshut hm, fun d => h.leads_warns hmsg hnest hauto hs hshut hm⟩
  · intro hauto hs
    constructor
    · rintro message lines c rfl hmsg hnest rfl rfl
      have hlength : q.messageLength (s.part.planZone k).fireMessage =
          s.part.messageLength (s.part.planZone k).fireMessage := by
        rw [h.eq_lines]
        rfl
      have hcalls : q.calls = s.part.calls := by
        rw [h.eq_lines]
        rfl
      constructor
      · intro hlen
        refine h.leads_calls hmsg hnest hauto hs ?_ (h.deckChange.setZone ..) (by rw [h.eq_lines]; rfl)
        rw [zoneCall_noMessage (hlength.trans hlen), h.zone]
      · intro active hlen ha hpr hroom hnew hid
        refine h.leads_calls hmsg hnest hauto hs ?_ ⟨h.deckChange.agenda, h.deckChange.writes, h.deckChange.lanes,
          h.deckChange.generation, h.deckChange.port⟩ (by rw [h.eq_lines]; rfl)
        rw [← hcalls] at ha hroom hnew hid ⊢
        exact zoneCall_queues (by rwa [hlength]) ha hpr hroom hnew hid
    · intro n top l d hmsg hstate hcur hwait hnest hanchor hret hv hclamped hk hclaim hsteady ho hw hu
      refine h.retires_nest hauto hs hmsg ?_ hcur hwait hnest hanchor hret hv hclamped hk hclaim hsteady ho hw hu
      rcases hstate with e | e <;> simp [e]

end Sys2Proof.Machine
end

section
/-! The tests of a MOVE on an IDLE mover (R30, R31, Table 2-5). -/

namespace Sys2Proof.Machine

/-! ### A mover that is no end of a pair -/

section
variable {p : Part} {m : MoverId}

theorem leader_single (h : p.partner m = none) : p.leader m = m := by
  have h' : p.inForce.partner m = none := h
  simp [Part.leader, Plan.leader, h']

theorem ends_single (h : p.partner m = none) : p.ends m = [m] := by simp [Part.ends, h]

theorem profilePlan_single (h : p.partner m = none) : p.profilePlan m = p.planMover m := by
  rw [Part.profilePlan, leader_single h]

theorem moverZone_single (h : p.partner m = none) : p.moverZone m = (p.planMover m).zone := by
  rw [Part.moverZone, leader_single h]

theorem insideLimits_single (h : p.partner m = none) :
    p.insideLimits m = true ↔ (p.planMover m).lower ≤ (p.mover m).position ∧ (p.mover m).position ≤ (p.planMover m).upper := by
  simp [Part.insideLimits, ends_single h, profilePlan_single h]

end

/-! ### The prerequisite and the dependents (tests 3 and 4) -/

/-- An entry of a table by its number. -/
theorem toList_getD {α : Type} {n : Nat} (t : Vector α n) (i : Fin n) (d : α) : t.toList.getD i.val d = getAt t i := by
  simp [getAt, List.getD]

theorem standsAt_iff (p : Part) (q : MoverId) (i : Fin 8) (tolerance : Nat) :
    p.standsAt q (i.val + 1) tolerance = true ↔ standsAtPreset p q i tolerance := by
  simp only [Part.standsAt, Part.motion, within, standsAtPreset, Part.profilePlan, Nat.add_sub_cancel, toList_getD,
    Bool.and_eq_true, beq_iff_eq, decide_eq_true_eq]

theorem failedPrerequisite_some {p : Part} {m q : MoverId} {i : Fin 8} {pm : PlanMover} (hpm : p.profilePlan m = pm)
    (hq : pm.prerequisite = some q) (hi : pm.prePreset = i.val + 1) (h : ¬ standsAtPreset p q i pm.preTolerance) :
    p.failedPrerequisite m = some q := by
  simp [Part.failedPrerequisite, hpm, hq, hi, mt (standsAt_iff ..).1 h]

theorem failedPrerequisite_stands {p : Part} {m q : MoverId} {i : Fin 8} {pm : PlanMover} (hpm : p.profilePlan m = pm)
    (hq : pm.prerequisite = some q) (hi : pm.prePreset = i.val + 1) (h : standsAtPreset p q i pm.preTolerance) :
    p.failedPrerequisite m = none := by
  simp [Part.failedPrerequisite, hpm, hq, hi, (standsAt_iff ..).2 h]

theorem failedPrerequisite_none {p : Part} {m : MoverId} (h : (p.profilePlan m).prerequisite = none) :
    p.failedPrerequisite m = none := by
  simp [Part.failedPrerequisite, h]

/-- The first index that a test picks. -/
theorem find_finRange_eq_some {n : Nat} {test : Fin n → Bool} {e : Fin n} (he : test e = true)
    (hmin : ∀ x : Fin n, x.val < e.val → test x = false) : (List.finRange n).find? test = some e := by
  rw [List.find?_eq_some_iff_getElem]
  refine ⟨he, e.val, by simp, by simp, fun j hj => ?_⟩
  rw [List.getElem_finRange, hmin _ hj]
  rfl

theorem dependentTest_iff {p : Part} {m : MoverId} (h : p.partner m = none) (e : MoverId) :
    ((p.planMover e).enabled && (p.leader e == e) && ((p.planMover e).prerequisite.map p.leader == some (p.leader m)) &&
      !p.standsAt e 1 (p.planMover e).preTolerance) = true ↔ dependentFails p m e := by
  have hstands := standsAt_iff p e 0 (p.planMover e).preTolerance
  simp only [Fin.isValue, Fin.val_zero, Nat.zero_add] at hstands
  rw [leader_single h]
  simp only [dependentFails, Bool.and_eq_true, Bool.not_eq_true', beq_iff_eq, Option.map_eq_some_iff, ← hstands,
    Bool.not_eq_true, and_assoc]

theorem failedDependent_some {p : Part} {m e : MoverId} (h : p.partner m = none) (he : dependentFails p m e)
    (hmin : ∀ x : MoverId, x.val < e.val → ¬ dependentFails p m x) : p.failedDependent m = some e :=
  find_finRange_eq_some ((dependentTest_iff h e).2 he)
    fun x hx => Bool.eq_false_iff.2 fun hx' => hmin x hx ((dependentTest_iff h x).1 hx')

theorem failedDependent_none {p : Part} {m : MoverId} (h : p.partner m = none) (hnone : ∀ e, ¬ dependentFails p m e) :
    p.failedDependent m = none :=
  List.find?_eq_none.2 fun e _ he => hnone e ((dependentTest_iff h e).1 he)

theorem doorClosingIn_iff (p : Part) (k : ZoneId) :
    p.doorClosingIn k = true ↔ ∃ d ∈ p.zoneDoors k, (p.door d).state = .closing := by
  simp [Part.doorClosingIn]

/-! ### The target (R31) -/

theorem rawTarget_asked {pm : PlanMover} {mode : Nat} {value setpoint asked : Int}
    (h : askedTarget pm mode value setpoint asked) : pm.rawTarget mode value setpoint = asked := by
  rcases h with ⟨rfl, rfl⟩ | ⟨rfl, rfl⟩ | ⟨rfl, i, rfl, rfl⟩
  · rfl
  · rfl
  · show ((pm.presets.toList.getD ((i.val : Int) + 1).toNat.pred 0 : Nat) : Int) = _
    rw [show ((i.val : Int) + 1).toNat.pred = i.val by simp, toList_getD]

theorem clampPos_eq {pm : PlanMover} {target : Nat} {x : Int}
    (h : (target : Int) = max (pm.lower : Int) (min (pm.upper : Int) x)) : pm.clampPos x = target := by
  simp [PlanMover.clampPos, clampInt, ← h]

/-! ### The rows of Table 2-5, from a mover in IDLE -/

section
variable {p : Part} {m : MoverId} {mode : Nat} {value : Int}

theorem judgeMove_idle (h : (p.mover m).motion.state = .idle) : p.judgeMove m mode value = p.judgeFromRest m false mode value := by
  have h' : (p.motion m).state = .idle := h
  simp [Part.judgeMove, h']

theorem judgeFromRest_zoneState (h : (p.zone (p.moverZone m)).state ≠ .loading) :
    p.judgeFromRest m false mode value = { verdict := .refused .zoneState none, clamped := false } := by
  simp [Part.judgeFromRest, h]

theorem judgeFromRest_outOfLimits (hz : (p.zone (p.moverZone m)).state = .loading) (h : p.insideLimits m = false) :
    p.judgeFromRest m false mode value = { verdict := .refused .outOfLimits none, clamped := false } := by
  simp [Part.judgeFromRest, hz, h]

theorem judgeFromRest_prerequisite {q : MoverId} (hz : (p.zone (p.moverZone m)).state = .loading)
    (hl : p.insideLimits m = true) (h : p.failedPrerequisite m = some q) :
    p.judgeFromRest m false mode value = { verdict := .refused .prerequisite (some q.val), clamped := false } := by
  simp [Part.judgeFromRest, hz, hl, h]

theorem judgeFromRest_dependent {e : MoverId} (hz : (p.zone (p.moverZone m)).state = .loading)
    (hl : p.insideLimits m = true) (hp : p.failedPrerequisite m = none) (h : p.failedDependent m = some e) :
    p.judgeFromRest m false mode value = { verdict := .refused .dependent (some e.val), clamped := false } := by
  simp [Part.judgeFromRest, hz, hl, hp, h]

theorem judgeFromRest_busy (hz : (p.zone (p.moverZone m)).state = .loading) (hl : p.insideLimits m = true)
    (hp : p.failedPrerequisite m = none) (hd : p.failedDependent m = none) (h : p.doorClosingIn (p.moverZone m) = true) :
    p.judgeFromRest m false mode value = { verdict := .refused .busy none, clamped := false } := by
  simp [Part.judgeFromRest, hz, hl, hp, hd, h]

/-- The target and the distance, once the first five tests have passed. -/
theorem judgeFromRest_target {setpoint asked : Int} {target : Nat} {pm : PlanMover}
    (hz : (p.zone (p.moverZone m)).state = .loading) (hl : p.insideLimits m = true)
    (hp : p.failedPrerequisite m = none) (hd : p.failedDependent m = none) (hb : p.doorClosingIn (p.moverZone m) = false)
    (hpm : p.profilePlan m = pm) (hs : (p.motion m).setpoint = some setpoint)
    (ha : pm.rawTarget mode value setpoint = asked) (ht : pm.clampPos asked = target) :
    p.judgeFromRest m false mode value =
      { verdict := if pm.kind ≠ .panelEnd ∧ 256 * (target : Int) < setpoint ∧ (p.mover m).toeBroken = true then
            .refused .blocked none
          else if 256 * (target : Int) = setpoint then .zero else .starts target,
        clamped := decide ((target : Int) ≠ asked) } := by
  simp only [Part.judgeFromRest, hz, hl, hp, hd, hb, hpm, hs, ne_eq, not_true, if_false, Bool.not_false, Bool.not_true,
    Bool.and_false, Bool.false_eq_true, Option.getD_some, ha, ht, Bool.and_eq_true, bne_iff_ne, decide_eq_true_eq, and_assoc]
  split
  · rfl
  · split <;> rfl

end

/-- Settles O48: the first five tests of Table 2-5 each refuse where those before have passed; then the distance to the clamped
target decides. -/
theorem moveTestsInOrder : Obligations.MoveTestsInOrder := by
  intro p m mode value setpoint asked pm target clamped hpartner hidle hset hpm hasked htarget hclamped
  have hplan : p.profilePlan m = pm := (profilePlan_single hpartner).trans hpm.symm
  have hzone : p.moverZone m = pm.zone := (moverZone_single hpartner).trans (congrArg _ hpm.symm)
  have hlimits : p.insideLimits m = true ↔ pm.lower ≤ (p.mover m).position ∧ (p.mover m).position ≤ pm.upper := by
    rw [insideLimits_single hpartner, hpm]
  rw [judgeMove_idle hidle]
  refine ⟨fun hz => judgeFromRest_zoneState (by rwa [hzone]), fun hz => ?_⟩
  have hz' : (p.zone (p.moverZone m)).state = .loading := by rwa [hzone]
  refine ⟨fun h => judgeFromRest_outOfLimits hz' (Bool.eq_false_iff.2 fun h' => ?_), fun hlow hup => ?_⟩
  · have := hlimits.1 h'
    omega
  have hl := hlimits.2 ⟨hlow, hup⟩
  refine ⟨fun q i hq hi hstands => judgeFromRest_prerequisite hz' hl
    (failedPrerequisite_some hplan hq hi hstands), fun hpre => ?_⟩
  have hp : p.failedPrerequisite m = none := by
    rcases hpre with h | ⟨q, i, hq, hi, hstands⟩
    · exact failedPrerequisite_none (by rwa [hplan])
    · exact failedPrerequisite_stands hplan hq hi hstands
  refine ⟨fun e he hmin => judgeFromRest_dependent hz' hl hp (failedDependent_some hpartner he hmin), fun hdep => ?_⟩
  have hd := failedDependent_none hpartner hdep
  refine ⟨fun h => judgeFromRest_busy hz' hl hp hd ((doorClosingIn_iff ..).2 (by rwa [hzone])), fun hopen => ?_⟩
  have hb : p.doorClosingIn (p.moverZone m) = false := by
    rw [Bool.eq_false_iff, Ne, doorClosingIn_iff, hzone]
    exact fun ⟨d, hmem, hclosing⟩ => hopen d hmem hclosing
  rw [judgeFromRest_target hz' hl hp hd hb hplan hset (rawTarget_asked hasked) (clampPos_eq htarget), hclamped]
  refine ⟨fun hk hdown htoe => ?_, fun hzero => ?_, fun hfar => ?_⟩
  · rw [if_pos ⟨hk, hdown, htoe⟩]
  · rw [if_neg (fun h => by omega), if_pos hzero.symm]
  · have hne : 256 * (target : Int) ≠ setpoint := by omega
    rw [if_neg, if_neg hne]
    rintro ⟨hk, hdown, htoe⟩
    rcases hfar with h | ⟨-, h | h⟩
    · omega
    · simp [h] at htoe
    · exact hk h

end Sys2Proof.Machine
end

section
/-! The profile of a control step (R35, R39 to R41, R47). -/

namespace Sys2Proof.Machine

/-! ### The new speed (R39, R40) -/

theorem nearLimit_iff (pm : PlanMover) (up : Bool) (s : Int) :
    pm.nearLimit up s = true ↔ (up = true ∧ 256 * (pm.upper : Int) - s ≤ 256 * (pm.dapp : Int)) ∨
      (up = false ∧ s - 256 * (pm.lower : Int) ≤ 256 * (pm.dapp : Int)) := by
  cases up <;> simp [PlanMover.nearLimit]

theorem limitByApproach_holds : limitByApproach := by
  rintro pm share vshare up near s rfl hnear
  have h : pm.nearLimit up s = near := Bool.eq_iff_iff.2 ((nearLimit_iff pm up s).trans hnear.symm)
  rw [PlanMover.vlim, h]
  rfl

/-- The creep floor is no more than the speed limit. -/
theorem vc_le_vlim {pm : PlanMover} (h : pm.vc ≤ pm.vapp) (share : Nat) (up : Bool) (s : Int) :
    pm.vc ≤ pm.vlim share up s := by
  have hshare : pm.vc ≤ pm.vshare share := Nat.le_max_left ..
  unfold PlanMover.vlim
  split
  · exact Nat.le_min.2 ⟨hshare, h⟩
  · exact hshare

section
variable (pm : PlanMover) {phase : Phase} {v vlim : Nat}

theorem newSpeed_brakes : pm.newSpeed true phase v vlim = (v - pm.accel, phase) := rfl

theorem newSpeed_decel : pm.newSpeed false .decel v vlim = (max (v - pm.accel) pm.vc, .decel) := rfl

theorem newSpeed_above (hp : phase ≠ .decel) (h : vlim < v) :
    pm.newSpeed false phase v vlim = (max (v - pm.accel) vlim, .cruise) := by
  simp [PlanMover.newSpeed, hp, h]

theorem newSpeed_below (hp : phase ≠ .decel) (h : v < vlim) : pm.newSpeed false phase v vlim =
    (min (v + pm.accel) vlim, if min (v + pm.accel) vlim = vlim then .cruise else .accel) := by
  simp [PlanMover.newSpeed, hp, h, Nat.lt_asymm h]

theorem newSpeed_at (hp : phase ≠ .decel) : pm.newSpeed false phase v v = (v, .cruise) := by
  simp [PlanMover.newSpeed, hp]

/-- With a creep floor and an acceleration a mover under way never stands still. -/
theorem newSpeed_pos {pm : PlanMover} (hvc : 1 ≤ pm.vc) (ha : 1 ≤ pm.accel) (hv : 1 ≤ vlim) :
    1 ≤ (pm.newSpeed false phase v vlim).1 := by
  by_cases hp : phase = .decel
  · subst hp
    exact Nat.le_trans hvc (Nat.le_max_right ..)
  · rcases Nat.lt_trichotomy v vlim with h | rfl | h
    · rw [newSpeed_below pm hp h]
      exact Nat.le_min.2 ⟨by omega, hv⟩
    · rwa [newSpeed_at pm hp]
    · rw [newSpeed_above pm hp h]
      exact Nat.le_trans hv (Nat.le_max_right ..)

end

theorem speedByCases_holds : speedByCases := by
  intro pm brakes phase v vlim
  refine ⟨?_, ?_, ?_, ?_, ?_, ?_⟩
  · rintro rfl
    exact newSpeed_brakes pm
  · rintro rfl rfl
    exact newSpeed_decel pm
  · rintro rfl hp h
    exact newSpeed_above pm hp h
  · rintro rfl hp h
    exact newSpeed_below pm hp h
  · rintro rfl hp rfl
    exact newSpeed_at pm hp
  · intro hvc hvapp hv share up s hshare
    have hlim := vlim_le_vmax pm share up s hvc hvapp hshare
    exact ⟨hlim, newSpeed_le_vmax pm brakes phase v _ (by omega) hlim hv⟩

/-! ### One run of the profile, by what the motion does (R35, R39 to R41) -/

/-- The entry to DECEL (R39). -/
def PlanMover.phaseAt (pm : PlanMover) (phase : Phase) (v r : Nat) : Phase :=
  if phase ≠ .decel ∧ r ≤ pm.braking v + v then .decel else phase

/-- Where a step of speed `v` leads, within the limits (R41). -/
def PlanMover.steps (pm : PlanMover) (s : Int) (up : Bool) (v : Nat) : Int := pm.clampQ8 (s + dirOf up * v)

/-- The speed after such a step: a limit stops the mover (R41). -/
def PlanMover.stepSpeed (pm : PlanMover) (s : Int) (up : Bool) (v : Nat) : Nat :=
  if pm.steps s up v = s + dirOf up * v then v else 0

/-- The target that a run heads for: with none, the rounded setpoint. -/
def Motion.heads (mo : Motion) (s : Int) : Nat := mo.takeLatch.target.getD (roundQ8 s).toNat

section
variable {pm : PlanMover} {mo : Motion} {s : Int}

@[simp] theorem takeLatch_state : mo.takeLatch.state = mo.state := by unfold Motion.takeLatch; split <;> rfl
@[simp] theorem takeLatch_setpoint : mo.takeLatch.setpoint = mo.setpoint := by unfold Motion.takeLatch; split <;> rfl
@[simp] theorem takeLatch_speed : mo.takeLatch.speed = mo.speed := by unfold Motion.takeLatch; split <;> rfl
@[simp] theorem takeLatch_up : mo.takeLatch.up = mo.up := by unfold Motion.takeLatch; split <;> rfl
@[simp] theorem takeLatch_share : mo.takeLatch.share = mo.share := by unfold Motion.takeLatch; split <;> rfl
@[simp] theorem takeLatch_phase : mo.takeLatch.phase = mo.phase := by unfold Motion.takeLatch; split <;> rfl

theorem takeLatch_of_set (h : mo.stopLatch = true) :
    mo.takeLatch = { mo with target := none, reversal := false, stopLatch := false } := if_pos h

theorem takeLatch_of_clear (h : mo.stopLatch = false) : mo.takeLatch = mo := by simp [Motion.takeLatch, h]

/-- STOPPING: the speed falls, and at 0 the mover settles where it stands. -/
theorem profile_stopping (hst : mo.state = .stopping) (hs : mo.setpoint.getD 0 = s) :
    pm.profile mo =
      { motion := { mo.takeLatch with
          setpoint := some (pm.steps s mo.up (mo.speed - pm.accel)), speed := pm.stepSpeed s mo.up (mo.speed - pm.accel) },
        speed := pm.stepSpeed s mo.up (mo.speed - pm.accel),
        settles := if pm.stepSpeed s mo.up (mo.speed - pm.accel) = 0 then
          some (roundQ8 (pm.steps s mo.up (mo.speed - pm.accel))).toNat else none } := by
  unfold PlanMover.profile
  simp only [takeLatch_state, takeLatch_setpoint, takeLatch_speed, takeLatch_up, takeLatch_phase, hst, hs,
    beq_self_eq_true, Bool.true_or, if_true, newSpeed_brakes]
  change (if pm.stepSpeed s mo.up (mo.speed - pm.accel) = 0 then _ else _) = _
  split
  · next h => rw [h]; rfl
  · rfl

/-- A reversal pending: the speed falls, and at 0 the mover settles at its target or turns toward it. -/
theorem profile_reversal (hst : mo.state ≠ .stopping) (hrev : mo.takeLatch.reversal = true) (hs : mo.setpoint.getD 0 = s) :
    pm.profile mo =
      if pm.stepSpeed s mo.up (mo.speed - pm.accel) = 0 then
        (if remaining (mo.heads s) (pm.steps s mo.up (mo.speed - pm.accel)) = 0 then
          { motion := { mo.takeLatch with
              setpoint := some (pm.steps s mo.up (mo.speed - pm.accel)), speed := 0, reversal := false },
            speed := 0, settles := some (mo.heads s) }
        else
          { motion := { mo.takeLatch with
              setpoint := some (pm.steps s mo.up (mo.speed - pm.accel)), speed := 0, reversal := false, phase := .accel,
              up := decide (pm.steps s mo.up (mo.speed - pm.accel) < 256 * (mo.heads s : Int)) },
            speed := 0, settles := none })
      else
        { motion := { mo.takeLatch with
            setpoint := some (pm.steps s mo.up (mo.speed - pm.accel)), speed := pm.stepSpeed s mo.up (mo.speed - pm.accel) },
          speed := pm.stepSpeed s mo.up (mo.speed - pm.accel), settles := none } := by
  have hb : (mo.state == .stopping) = false := by simpa using hst
  unfold PlanMover.profile
  simp only [takeLatch_state, takeLatch_setpoint, takeLatch_speed, takeLatch_up, takeLatch_phase, hb, hrev, hs,
    Bool.or_true, Bool.false_eq_true, if_false, if_true, newSpeed_brakes]
  rfl

/-- Neither: the mover settles at its target where the step's speed covers the rest of the way. -/
theorem profile_runs {v : Nat} {ph : Phase} (hst : mo.state ≠ .stopping) (hrev : mo.takeLatch.reversal = false)
    (hs : mo.setpoint.getD 0 = s)
    (hv : pm.newSpeed false (pm.phaseAt mo.phase mo.speed (remaining (mo.heads s) s)) mo.speed
      (pm.vlim mo.share mo.up s) = (v, ph)) :
    pm.profile mo =
      if remaining (mo.heads s) s ≤ v then
        { motion := { mo.takeLatch with setpoint := some (256 * (mo.heads s : Int)), speed := 0, phase := ph }, speed := v,
          settles := some (mo.heads s) }
      else
        { motion := { mo.takeLatch with setpoint := some (pm.steps s mo.up v), speed := pm.stepSpeed s mo.up v, phase := ph },
          speed := pm.stepSpeed s mo.up v, settles := none } := by
  have hb : (mo.state == .stopping) = false := by simpa using hst
  have hph : (if (!false && (mo.phase != .decel) && decide (remaining (mo.heads s) s ≤ pm.braking mo.speed + mo.speed)) = true
      then Phase.decel else mo.phase) = pm.phaseAt mo.phase mo.speed (remaining (mo.heads s) s) := by
    simp [PlanMover.phaseAt]
  unfold PlanMover.profile
  simp only [takeLatch_state, takeLatch_setpoint, takeLatch_speed, takeLatch_up, takeLatch_phase, takeLatch_share, hb, hrev,
    hs, Bool.or_false, Bool.false_eq_true, if_false]
  rw [show mo.takeLatch.target.getD (roundQ8 s).toNat = mo.heads s from rfl, hph, hv]
  rfl

end

/-! ### Within the limits (R41) -/

section
variable {pm : PlanMover} {mo : Motion} {s : Int} {t : Nat}

theorem steps_within (h : pm.lower ≤ pm.upper) (up : Bool) (v : Nat) :
    256 * (pm.lower : Int) ≤ pm.steps s up v ∧ pm.steps s up v ≤ 256 * (pm.upper : Int) := clampQ8_within pm _ h

theorem stepSpeed_le (up : Bool) (v : Nat) : pm.stepSpeed s up v ≤ v := by
  unfold PlanMover.stepSpeed
  split <;> omega

/-- The count at a setpoint within the limits lies within them. -/
theorem roundQ8_within (hlow : 256 * (pm.lower : Int) ≤ s) (hup : s ≤ 256 * (pm.upper : Int)) :
    ((roundQ8 s).toNat : Int) = (s + 128) / 256 ∧ pm.lower ≤ (roundQ8 s).toNat ∧ (roundQ8 s).toNat ≤ pm.upper := by
  unfold roundQ8
  omega

theorem heads_within (hlow : 256 * (pm.lower : Int) ≤ s) (hup : s ≤ 256 * (pm.upper : Int))
    (ht : ∀ t, mo.target = some t → pm.lower ≤ t ∧ t ≤ pm.upper) : pm.lower ≤ mo.heads s ∧ mo.heads s ≤ pm.upper := by
  have hround := (roundQ8_within hlow hup).2
  unfold Motion.heads Motion.takeLatch
  split
  · exact hround
  · cases e : mo.target with
    | none => exact hround
    | some t => exact ht t e

/-- What is left of every run of the profile, whatever the motion does: `s'` is the new setpoint. -/
structure PlanMover.KeepsWithin (pm : PlanMover) (run : ProfileRun) (s' : Int) : Prop where
  setpoint : run.motion.setpoint = some s'
  low      : 256 * (pm.lower : Int) ≤ s'
  high     : s' ≤ 256 * (pm.upper : Int)
  speed    : run.motion.speed ≤ pm.vmax
  settles  : ∀ c, run.settles = some c → pm.lower ≤ c ∧ c ≤ pm.upper ∧ run.motion.speed = 0

theorem profile_keepsWithin (hvc : pm.vc ≤ pm.vapp) (hvapp : pm.vapp ≤ pm.vmax) (hs : mo.setpoint = some s)
    (hlow : 256 * (pm.lower : Int) ≤ s) (hup : s ≤ 256 * (pm.upper : Int)) (hv : mo.speed ≤ pm.vmax) (hshare : mo.share ≤ 100)
    (ht : ∀ t, mo.target = some t → pm.lower ≤ t ∧ t ≤ pm.upper) : ∃ s', pm.KeepsWithin (pm.profile mo) s' := by
  have hs' : mo.setpoint.getD 0 = s := by rw [hs]; rfl
  have hlu : pm.lower ≤ pm.upper := by omega
  obtain ⟨hheads, hheads'⟩ := heads_within (mo := mo) hlow hup ht
  have hsteps := fun v => steps_within (s := s) hlu mo.up v
  have hbrake : pm.stepSpeed s mo.up (mo.speed - pm.accel) ≤ pm.vmax := by
    have := stepSpeed_le (pm := pm) (s := s) mo.up (mo.speed - pm.accel)
    omega
  by_cases hst : mo.state = .stopping
  · rw [profile_stopping hst hs']
    refine ⟨_, rfl, (hsteps _).1, (hsteps _).2, hbrake, fun c hc => ?_⟩
    dsimp only at hc ⊢
    split at hc
    · next h0 =>
      obtain ⟨-, h1, h2⟩ := roundQ8_within (hsteps _).1 (hsteps _).2
      rw [← Option.some.inj hc]
      exact ⟨h1, h2, h0⟩
    · exact absurd hc (by simp)
  cases hrev : mo.takeLatch.reversal
  · obtain ⟨v, ph, hnew⟩ : ∃ v ph, pm.newSpeed false (pm.phaseAt mo.phase mo.speed (remaining (mo.heads s) s)) mo.speed
        (pm.vlim mo.share mo.up s) = (v, ph) := ⟨_, _, rfl⟩
    have hvmax : v ≤ pm.vmax := by
      have := newSpeed_le_vmax pm false (pm.phaseAt mo.phase mo.speed (remaining (mo.heads s) s)) mo.speed _ (by omega)
        (vlim_le_vmax pm mo.share mo.up s hvc hvapp hshare) hv
      rwa [hnew] at this
    rw [profile_runs hst hrev hs' hnew]
    split
    · refine ⟨_, rfl, by omega, by omega, Nat.zero_le _, fun c hc => ?_⟩
      rw [← Option.some.inj hc]
      exact ⟨hheads, hheads', rfl⟩
    · refine ⟨_, rfl, (hsteps v).1, (hsteps v).2, ?_, by simp⟩
      have := stepSpeed_le (pm := pm) (s := s) mo.up v
      dsimp only
      omega
  · rw [profile_reversal hst hrev hs']
    split
    · split
      · refine ⟨_, rfl, (hsteps _).1, (hsteps _).2, Nat.zero_le _, fun c hc => ?_⟩
        rw [← Option.some.inj hc]
        exact ⟨hheads, hheads', rfl⟩
      · exact ⟨_, rfl, (hsteps _).1, (hsteps _).2, Nat.zero_le _, by simp⟩
    · exact ⟨_, rfl, (hsteps _).1, (hsteps _).2, hbrake, by simp⟩

/-! ### On the way to the target (R39 to R41) -/

/-- A MOVING mover, no reversal pending, goes from the setpoint `s` to its target `t`, both within the limits. -/
structure Motion.OnWay (pm : PlanMover) (mo : Motion) (s : Int) (t : Nat) : Prop where
  state    : mo.state = .moving
  latch    : mo.stopLatch = false
  reversal : mo.reversal = false
  target   : mo.target = some t
  low      : pm.lower ≤ t
  high     : t ≤ pm.upper
  setpoint : mo.setpoint = some s
  slow     : 256 * (pm.lower : Int) ≤ s
  shigh    : s ≤ 256 * (pm.upper : Int)
  up       : mo.up = decide (s < 256 * (t : Int))

/-- A step short of the target stays on this side of it, so that no limit stops it. -/
theorem Motion.OnWay.steps (h : mo.OnWay pm s t) {v : Nat} (hv : v < remaining t s) :
    pm.steps s mo.up v = s + dirOf mo.up * v ∧ remaining t (s + dirOf mo.up * v) + v = remaining t s ∧
      256 * (pm.lower : Int) ≤ s + dirOf mo.up * v ∧ s + dirOf mo.up * v ≤ 256 * (pm.upper : Int) ∧
      mo.up = decide (s + dirOf mo.up * v < 256 * (t : Int)) := by
  have hlow := h.low
  have hhigh := h.high
  have hslow := h.slow
  have hshigh := h.shigh
  have hup := h.up
  unfold remaining at *
  have hbounds : 256 * (pm.lower : Int) ≤ s + dirOf mo.up * v ∧ s + dirOf mo.up * v ≤ 256 * (pm.upper : Int) ∧
      (256 * (t : Int) - (s + dirOf mo.up * v)).natAbs + v = (256 * (t : Int) - s).natAbs ∧
      mo.up = decide (s + dirOf mo.up * v < 256 * (t : Int)) := by
    cases hdir : mo.up
    · have hdown : ¬ s < 256 * (t : Int) := of_decide_eq_false (hup.symm.trans hdir)
      rw [show dirOf false = -1 from rfl, eq_comm (a := false), decide_eq_false_iff_not]
      omega
    · have hrise : s < 256 * (t : Int) := of_decide_eq_true (hup.symm.trans hdir)
      rw [show dirOf true = 1 from rfl, eq_comm (a := true), decide_eq_true_eq]
      omega
  exact ⟨clampQ8_of_within pm _ hbounds.1 hbounds.2.1, hbounds.2.2.1, hbounds.1, hbounds.2.1, hbounds.2.2.2⟩

/-- A run of the profile on the way: the mover settles at its target where the step's speed covers the rest of the way, and goes
on at that speed otherwise. -/
theorem Motion.OnWay.profile (h : mo.OnWay pm s t) {v : Nat} {ph : Phase}
    (hv : pm.newSpeed false (pm.phaseAt mo.phase mo.speed (remaining t s)) mo.speed (pm.vlim mo.share mo.up s) = (v, ph)) :
    pm.profile mo =
      if remaining t s ≤ v then
        { motion := { mo with setpoint := some (256 * (t : Int)), speed := 0, phase := ph }, speed := v, settles := some t }
      else
        { motion := { mo with setpoint := some (s + dirOf mo.up * v), speed := v, phase := ph }, speed := v,
          settles := none } := by
  have hlatch := takeLatch_of_clear h.latch
  have hheads : mo.heads s = t := by rw [Motion.heads, hlatch, h.target]; rfl
  have hs : mo.setpoint.getD 0 = s := by rw [h.setpoint]; rfl
  rw [profile_runs (v := v) (ph := ph) (by simp [h.state]) (by rw [hlatch, h.reversal]) hs (by rwa [hheads]), hheads, hlatch]
  split
  · rfl
  · next hfar =>
    have hsteps := (h.steps (Nat.lt_of_not_le hfar)).1
    rw [PlanMover.stepSpeed, hsteps, if_pos rfl]

/-- Short of the target the mover is on its way after the run too, nearer by the step's speed. -/
theorem Motion.OnWay.next (h : mo.OnWay pm s t) {v : Nat} (hv : v < remaining t s) (ph : Phase) :
    Motion.OnWay pm { mo with setpoint := some (s + dirOf mo.up * v), speed := v, phase := ph } (s + dirOf mo.up * v) t := by
  obtain ⟨-, -, hlow, hhigh, hup⟩ := h.steps hv
  exact ⟨h.state, h.latch, h.reversal, h.target, h.low, h.high, rfl, hlow, hhigh, hup⟩

theorem phaseAt_near {phase : Phase} {v r : Nat} (h : phase = .decel ∨ r ≤ pm.braking v + v) :
    pm.phaseAt phase v r = .decel := by
  unfold PlanMover.phaseAt
  split
  · rfl
  · next hn =>
    by_contra hp
    exact hn ⟨hp, h.resolve_left hp⟩

theorem phaseAt_far {phase : Phase} {v r : Nat} (h : pm.braking v + v < r) : pm.phaseAt phase v r = phase :=
  if_neg fun hn => by omega

end

theorem decelByDistance_holds : decelByDistance := by
  refine ⟨fun pm mo s t hst hlatch hrev ht hlow hhigh hs hslow hshigh hup => ?_, fun pm mo hst => ?_⟩
  · have hway : mo.OnWay pm s t := ⟨hst, hlatch, hrev, ht, hlow, hhigh, hs, hslow, hshigh, hup⟩
    refine ⟨fun hnear => ?_, fun _ hfar => ?_⟩
    · rw [hway.profile (by rw [phaseAt_near (r := remaining t s) hnear, newSpeed_decel])]
      split <;> exact ⟨rfl, rfl⟩
    · obtain ⟨v, ph, hnew⟩ : ∃ v ph, pm.newSpeed false mo.phase mo.speed (pm.vlim mo.share mo.up s) = (v, ph) := ⟨_, _, rfl⟩
      rw [hway.profile (by rw [phaseAt_far (r := remaining t s) hfar, hnew]), hnew]
      split <;> rfl
  · rw [profile_stopping hst rfl]
    exact takeLatch_phase

/-! ### The target is reached (R40) -/

theorem afterRuns_succ (pm : PlanMover) (i : Nat) (mo : Motion) :
    afterRuns pm (i + 1) mo = afterRuns pm i (pm.profile mo).motion := by
  induction i with
  | zero => rfl
  | succ i ih => exact congrArg (fun x => (pm.profile x).motion) ih

/-- Each run that does not settle takes the mover nearer, so that as many runs as there are units to go are enough. -/
theorem settles_within {pm : PlanMover} {t : Nat} (hvc : 1 ≤ pm.vc) (hvapp : pm.vc ≤ pm.vapp) (ha : 1 ≤ pm.accel) :
    ∀ (r : Nat) (mo : Motion) (s : Int), remaining t s = r → mo.OnWay pm s t →
      ∃ i, i ≤ r ∧ (pm.profile (afterRuns pm i mo)).settles = some t := by
  intro r
  induction r using Nat.strong_induction_on with
  | _ r ih =>
    intro mo s hr hway
    obtain ⟨v, ph, hnew⟩ : ∃ v ph, pm.newSpeed false (pm.phaseAt mo.phase mo.speed (remaining t s)) mo.speed
        (pm.vlim mo.share mo.up s) = (v, ph) := ⟨_, _, rfl⟩
    have hrun := hway.profile hnew
    by_cases hnear : remaining t s ≤ v
    · exact ⟨0, Nat.zero_le _, by rw [afterRuns, hrun, if_pos hnear]⟩
    · have hpos : 1 ≤ v := by
        have := newSpeed_pos (phase := pm.phaseAt mo.phase mo.speed (remaining t s)) (v := mo.speed) hvc ha
          (Nat.le_trans hvc (vc_le_vlim hvapp mo.share mo.up s))
        rwa [hnew] at this
      have hless := (hway.steps (Nat.lt_of_not_le hnear)).2.1
      obtain ⟨i, hi, hsettles⟩ := ih _ (by omega) _ _ rfl (hway.next (Nat.lt_of_not_le hnear) ph)
      refine ⟨i + 1, by omega, ?_⟩
      rw [afterRuns_succ, hrun, if_neg hnear]
      exact hsettles

theorem targetIsReached_holds : targetIsReached := by
  refine ⟨fun pm mo s t hvc hvapp _ ha hst hlatch hrev ht hlow hhigh hs hslow hshigh hup => ?_, fun a m hon => ?_⟩
  · exact settles_within hvc hvapp ha _ mo s rfl ⟨hst, hlatch, hrev, ht, hlow, hhigh, hs, hslow, hshigh, hup⟩
  · have hfit : ∀ hi x, fitted (a.bit (moverBase m)) 1 hi x = max 1 (min hi x) := by
      intro hi x
      rw [fitted, if_pos (show a.bit (moverBase m) = true from hon)]
      rfl
    simp only [Area.planMover, hfit]
    omega

theorem profileInBounds_holds : profileInBounds := by
  intro pm mo s hlu hvc hvapp hs hlow hhigh hspeed hshare ht
  have hs' : mo.setpoint.getD 0 = s := by rw [hs]; rfl
  obtain ⟨s', hkeeps⟩ := profile_keepsWithin hvc hvapp hs hlow hhigh hspeed hshare ht
  refine ⟨⟨s', hkeeps.setpoint, hkeeps.low, hkeeps.high, fun hst => ?_⟩, hkeeps.speed, hkeeps.settles,
    fun t hlatch htarget hst hrev hup => ?_, fun hst => ?_, fun hset => ?_, ?_⟩
  · have hsteps : s' = pm.steps s mo.up (mo.speed - pm.accel) := by
      have := hkeeps.setpoint
      rw [profile_stopping hst hs'] at this
      exact (Option.some.inj this).symm
    refine ⟨hsteps, fun c hc => ?_⟩
    rw [profile_stopping hst hs', ← hsteps] at hc
    dsimp only at hc
    split at hc
    · rw [← Option.some.inj hc]
      exact (roundQ8_within hkeeps.low hkeeps.high).1
    · exact absurd hc (by simp)
  · obtain ⟨htlow, hthigh⟩ := ht t htarget
    have hway : mo.OnWay pm s t := ⟨hst, hlatch, hrev, htarget, htlow, hthigh, hs, hlow, hhigh, hup⟩
    obtain ⟨v, ph, hnew⟩ : ∃ v ph, pm.newSpeed false (pm.phaseAt mo.phase mo.speed (remaining t s)) mo.speed
        (pm.vlim mo.share mo.up s) = (v, ph) := ⟨_, _, rfl⟩
    rw [hway.profile hnew]
    by_cases hnear : remaining t s ≤ v
    · rw [if_pos hnear]
      split
      · exact ⟨rfl, rfl, rfl⟩
      · next hfar => exact absurd hnear hfar
    · rw [if_neg hnear]
      split
      · next hnear' => exact absurd hnear' hnear
      · exact ⟨rfl, rfl, rfl⟩
  · rw [profile_stopping hst hs']
    refine ⟨stepSpeed_le .., ?_⟩
    dsimp only
    split
    · next h => simp [h]
    · next h => simp [h]
  · have hlatch := takeLatch_of_set hset
    have hcleared : ∀ x : Motion, x.target = mo.takeLatch.target → x.stopLatch = mo.takeLatch.stopLatch →
        x.reversal = mo.takeLatch.reversal → x.target = none ∧ x.stopLatch = false ∧ x.reversal = false := by
      rw [hlatch]
      exact fun x h1 h2 h3 => ⟨h1, h2, h3⟩
    by_cases hst : mo.state = .stopping
    · rw [profile_stopping hst hs']
      exact hcleared _ rfl rfl rfl
    · obtain ⟨v, ph, hnew⟩ : ∃ v ph, pm.newSpeed false (pm.phaseAt mo.phase mo.speed (remaining (mo.heads s) s)) mo.speed
          (pm.vlim mo.share mo.up s) = (v, ph) := ⟨_, _, rfl⟩
      rw [profile_runs hst (by rw [hlatch]) hs' hnew]
      split <;> exact hcleared _ rfl rfl rfl
  · simp [Motion.hold, hs]

/-- Settles O18: the equations of a run of the profile, by what the motion does, and the bounds of each. -/
theorem profileKeepsItsBounds : Obligations.ProfileKeepsItsBounds :=
  ⟨limitByApproach_holds, decelByDistance_holds, speedByCases_holds, targetIsReached_holds, profileInBounds_holds⟩

end Sys2Proof.Machine
end

section
/-! Mover orders (R29 to R36, R49, R53): what a change of a mover's state reports, and the end of the order's event. -/

namespace Sys2Proof.Machine

/-! ### The reports of a change of state (R54, R64) -/

section
variable {p : Part} {m : MoverId} {mo : Motion}

theorem moverTo_none : moverTo m mo none p =
    (setMotion m mo p).emit (moverReports m (p.motion m).state mo.state (setMotion m mo p)) := rfl

/-- With no waiting record no ending is told. -/
theorem moverTo_unwaited (hw : (p.motion m).waiting = none) (hmo : mo.waiting = none) (ending : Option Ending) :
    moverTo m mo ending p = (setMotion m mo p).emit (moverReports m (p.motion m).state mo.state (setMotion m mo p)) := by
  unfold moverTo
  dsimp only
  rw [hw, show (if ending.isSome = true then { mo with waiting := none } else mo) = mo by rw [← hmo]; split <;> rfl]
  cases ending <;> rfl

theorem moverReports_faulted_idle : moverReports m .faulted .idle p = [.steadyReport (p.entryOfMover m)] := rfl

end

/-! ### A mover order at its block -/

/-- The orders of a mover that need its claim (R154). -/
def OrderKind.claimsMover : OrderKind → Bool
  | .move | .stopMover | .floatRamp => true
  | _ => false

/-- What Mover Control does for such an order. -/
def OrderKind.moverWork : OrderKind → Lane → Part → Part
  | .move => orderMove
  | .stopMover => orderStopMover
  | .floatRamp => orderFloatRamp
  | _ => fun _ p => p

/-- The record image of an order of mover `m` with these further parameters. -/
abbrev moverImage (head : OrderHead) (kind : OrderKind) (m : MoverId) (params : List Byte) : List Byte :=
  orderImage head kind (BitVec.ofNat 8 m.val :: params)

section
variable {n : Lane} {q : Part} {head : OrderHead} {kind : OrderKind} {m : MoverId} {params : List Byte}

theorem blockOrder_mover (hk : kind.claimsMover = true) (hb : q.currentBytes n = moverImage head kind m params)
    (mm : List Host.Cell) : blockOrder n mm q = kind.moverWork n q := by
  unfold blockOrder
  rw [hb, imageKind_orderImage]
  cases kind <;> first | rfl | cases hk

theorem moverImage_claimEntry (p : Part) (hk : kind.claimsMover = true) :
    p.claimEntry (moverImage head kind m params) = some (p.entryOfMover m) := by
  unfold Part.claimEntry
  rw [imageKind_orderImage, paramMover_orderImage]
  cases kind <;> first | rfl | cases hk

theorem moverImage_needsBridge (hk : kind.claimsMover = true) (b : List Byte) : needsBridge b kind = false := by
  cases kind <;> first | rfl | cases hk

end

section
variable {s : State} {n : Lane} {link : Half} {head : OrderHead} {kind : OrderKind} {m : MoverId} {params : List Byte}
  {p : Part} {r : Result} {rest : List Act} {claims : Vector Claim 32} {c : LaneContext} {held : HeldRecord}

/-- What an order of mover `m` that lane `n` takes starts from: its parameters are in their ranges, a plan is present. -/
structure State.TakesMover (s : State) (n : Lane) (link : Half) (head : OrderHead) (kind : OrderKind) (m : MoverId)
    (params : List Byte) : Prop where
  takes  : s.TakesOrder n link head
  claims : kind.claimsMover = true
  short  : params.length ≤ 23
  plan   : s.part.plan.isSome = true
  fits   : ∀ c ∈ s.part.paramChecks (moverImage head kind m params) kind, c.2 = true

theorem State.TakesMover.length (h : s.TakesMover n link head kind m params) :
    (BitVec.ofNat 8 m.val :: params).length ≤ 24 := Nat.succ_le_succ h.short

/-- The lane's context while its order of the mover is at the block. -/
abbrev State.atBlock (s : State) (n : Lane) (link : Half) (head : OrderHead) (kind : OrderKind) (m : MoverId)
    (params : List Byte) : LaneContext := (s.part.lane n).holding (heldBy link head (moverImage head kind m params))

/-- The writes that the event has asked for by then. -/
abbrev State.takenWrites (s : State) (link : Half) (head : OrderHead) : List Host.Cell :=
  takenCells link head.standing s.part.now

/-- The deck at the block: the lane holds the mover's claim. -/
abbrev State.claimed (s : State) (n : Lane) (m : MoverId) : Part := s.part.setClaim (s.part.entryOfMover m) (implicitOf n)

theorem State.TakesMover.blockOrder (h : s.TakesMover n link head kind m params) (mm : List Host.Cell) :
    blockOrder n mm (midOrder n (s.atBlock n link head kind m params) (s.takenWrites link head) (s.claimed n m)) =
      kind.moverWork n
        (midOrder n (s.atBlock n link head kind m params) (s.takenWrites link head) (s.claimed n m)) :=
  blockOrder_mover h.claims (midOrder_currentBytes n _ _ _ (heldBy link head (moverImage head kind m params)) rfl) mm

theorem moverOrder_ends (h : s.TakesMover n link head kind m params) (hf : s.part.ClaimOpen n (s.part.entryOfMover m))
    (hB : kind.moverWork n (midOrder n (s.atBlock n link head kind m params) (s.takenWrites link head) (s.claimed n m)) =
      (midOrder n c (s.takenWrites link head) p).emit (.orderEnds n r :: rest))
    (hcur : c.current = some held) (hk : held.link = link) (hs : held.standing = head.standing)
    (hbytes : held.bytes = moverImage head kind m params)
    (hgo : ∀ l, c.goesOn link l = (s.part.lane n).taken.goesOn link l)
    (hrest : ClaimSettles n (rest ++ [.steadyReport (s.part.entryOfMover m)]) p claims)
    (ha : r.code.failure = true → head.alternate ≠ 0) (hdeck : s.part.DeckChange p) :
    s.OrderEnds (runOrder n (moverImage head kind m params) s) n link head
      { r with flags := if held.clamped then r.flags ||| flagClamped else r.flags } { p with claims := claims } :=
  claim_ends h.takes h.length h.fits (.inl h.plan)
    (fun hb => absurd hb (by simp [moverImage_needsBridge h.claims])) (moverImage_claimEntry _ h.claims) hf
    (fun mm => (h.blockOrder mm).trans hB) hcur hk hs hbytes hgo hrest ha
    hdeck.lanes (hdeck.agenda.trans h.takes.takes.quiet.agenda) hdeck.generation (by rw [hdeck.port])

theorem moverOrder_waits (h : s.TakesMover n link head kind m params) (hf : s.part.ClaimOpen n (s.part.entryOfMover m))
    (hB : kind.moverWork n (midOrder n (s.atBlock n link head kind m params) (s.takenWrites link head) (s.claimed n m)) =
      (midOrder n { s.atBlock n link head kind m params with state := .waiting, waitKind := some .action }
        (s.takenWrites link head) p).emit rest)
    (hrest : ClaimSettles n (rest ++ [.steadyReport (s.part.entryOfMover m)]) p claims) (hdeck : s.part.DeckChange p) :
    s.OrderWaits (runOrder n (moverImage head kind m params) s) n link head (moverImage head kind m params) .action
      { p with claims := claims } :=
  claim_waits h.takes h.length h.fits (.inl h.plan)
    (fun hb => absurd hb (by simp [moverImage_needsBridge h.claims])) (moverImage_claimEntry _ h.claims) hf
    (fun mm => (h.blockOrder mm).trans hB) (by simp) hrest
    hdeck.lanes (hdeck.agenda.trans h.takes.takes.quiet.agenda) hdeck.generation (by rw [hdeck.port])

/-- The order ends with nothing changed and the mover steady: the claim that it has taken is given back. -/
theorem moverOrder_endsAtOnce (h : s.TakesMover n link head kind m params)
    (hf : s.part.ClaimFree n (s.part.entryOfMover m)) (hidle : ∀ e ∈ s.part.ends m, (s.part.mover e).motion.state = .idle)
    (hB : kind.moverWork n (midOrder n (s.atBlock n link head kind m params) (s.takenWrites link head) (s.claimed n m)) =
      (midOrder n (s.atBlock n link head kind m params) (s.takenWrites link head) (s.claimed n m)).emit [.orderEnds n r])
    (ha : r.code.failure = true → head.alternate ≠ 0) :
    s.OrderEnds (runOrder n (moverImage head kind m params) s) n link head r s.part := by
  have hsteady : (s.claimed n m).steady (s.part.entryOfMover m) = true :=
    (steady_entryOfMover s.part m).trans (by rw [hidle _ (leader_mem_ends ..)]; rfl)
  have := moverOrder_ends h hf.isOpen hB rfl rfl rfl rfl (fun _ => rfl)
    (settles_steady (n := n) (p := s.claimed n m) h.takes.takes.quiet.agenda hsteady (by simp) hf.waiters) ha
    ⟨rfl, rfl, rfl, rfl, rfl⟩
  rwa [claims_freed_again rfl hf.free] at this

end

end Sys2Proof.Machine
end

section
/-! MOVE, STOP MOVER and FLOAT RAMP at Mover Control, in the middle of the order (R31, R32, R35, R36, R49). -/

namespace Sys2Proof.Machine

section
variable {p : Part} {m : MoverId} {mo : Motion} {f : Mover → Mover} {e : EntryId} {cl : Claim}

theorem setMotion_deckChange {s : Part} (h : s.DeckChange p) : s.DeckChange (setMotion m mo p) := by
  rw [setMotion_eq]
  exact ⟨h.agenda, h.writes, h.lanes, h.generation, h.port⟩

theorem setClaim_deckChange {s : Part} (h : s.DeckChange p) : s.DeckChange (p.setClaim e cl) :=
  ⟨h.agenda, h.writes, h.lanes, h.generation, h.port⟩

/-- Both ends of a mover with a new motion and a change of what each end holds. -/
def moved (m : MoverId) (mo : Motion) (f : Mover → Mover) (p : Part) : Part := setMotion m mo (mapEnds m f p)

theorem moved_setClaim : moved m mo f (p.setClaim e cl) = (moved m mo f p).setClaim e cl := by
  rw [moved, mapEnds_setClaim, setMotion_setClaim]
  rfl

theorem moved_midOrder (n : Lane) (c : LaneContext) (w : List Host.Cell) :
    moved m mo f (midOrder n c w p) = midOrder n c w (moved m mo f p) := by
  rw [moved, midOrder_mapEnds, midOrder_setMotion]
  rfl

theorem moved_emit (acts : List Act) : moved m mo f (p.emit acts) = (moved m mo f p).emit acts := by
  rw [moved, mapEnds_emit, setMotion_emit]
  rfl

theorem moved_eq : moved m mo f p = { p with movers := (moved m mo f p).movers } := by
  unfold moved
  rw [setMotion_eq, mapEnds_eq]

theorem moved_deckChange {s : Part} (h : s.DeckChange p) : s.DeckChange (moved m mo f p) := by
  rw [moved_eq]
  exact ⟨h.agenda, h.writes, h.lanes, h.generation, h.port⟩

theorem moved_door (d : DoorId) : (moved m mo f p).door d = p.door d := by rw [moved_eq]; rfl

theorem moved_claim (i : EntryId) : (moved m mo f p).claim i = p.claim i := by rw [moved_eq]; rfl

theorem moved_steady : (moved m mo f p).steady (p.entryOfMover m) = mo.state.steady := by
  rw [moved, ← mapEnds_entryOfMover p m f m, setMotion_steady]

theorem moved_reports (before after : MoverState) :
    moverReports m before after (moved m mo f p) = moverReports m before after p := by
  rw [moved_eq]
  rfl

/-- A change of state of a mover without a waiting record, or with one that goes on waiting. -/
theorem moverTo_moved (hf : ∀ x, (f x).motion = x.motion) (ending : Option Ending)
    (hw : ending = none ∨ ((p.motion m).waiting = none ∧ mo.waiting = none)) :
    moverTo m mo ending (mapEnds m f p) = (moved m mo f p).emit (moverReports m (p.motion m).state mo.state p) := by
  have hmotion : (mapEnds m f p).motion m = p.motion m := mapEnds_motion p m f hf m
  have hreports := moved_reports (p := p) (m := m) (mo := mo) (f := f) (p.motion m).state mo.state
  rcases hw with rfl | ⟨hw, hmo⟩
  · rw [moverTo_none, hmotion, ← hreports]
    rfl
  · rw [moverTo_unwaited (by rw [hmotion, hw]) hmo, hmotion, ← hreports]
    rfl

theorem moved_mover (hf : ∀ x, f (f x) = f x) (i : MoverId) :
    (moved m mo f p).mover i = if i ∈ p.ends m then { f (p.mover i) with motion := mo } else p.mover i := by
  rw [moved, setMotion_mover, mapEnds_ends, mapEnds_mover _ _ _ _ hf]
  split <;> rfl

/-- The deck with the mover IDLE at count `c` (R28). -/
abbrev idled (m : MoverId) (c : Nat) (p : Part) : Part := moved m ((p.motion m).atRest c) (Mover.atRest c) p

theorem idled_mover (c : Nat) (i : MoverId) : (idled m c p).mover i =
    if i ∈ p.ends m then { (p.mover i).atRest c with motion := (p.motion m).atRest c } else p.mover i :=
  moved_mover (f := Mover.atRest c) (fun _ => rfl) i

/-- Entry to IDLE of a mover without a waiting record. -/
theorem enterIdle_eq (ending : Option Ending) (hw : ending = none ∨ (p.motion m).waiting = none) :
    enterIdle m ending p =
      (idled m (p.restCount m) p).emit (moverReports m (p.motion m).state .idle p) :=
  moverTo_moved (f := Mover.atRest (p.restCount m)) (fun _ => rfl) ending (hw.imp_right fun h => ⟨h, h⟩)

end

/-! ### A report that no door waits for -/

theorem moversClear_midOrder {n : Lane} {p : Part} {k : ZoneId} (hd : ∀ d, (p.door d).state ≠ .waitClear)
    (m : List Host.Cell) (c : LaneContext) (w : List Host.Cell) (fs : List SlotId) (ov : List Word) (oc : Nat) :
    Act.moversClear k ≠ .arbitrate ∧
      perform m (.moversClear k) { midOrder n c w p with forced := fs, openValues := ov, openCount := oc } =
        { midOrder n c w p with forced := fs, openValues := ov, openCount := oc } :=
  ⟨by simp, moversClear_noWaitClear k hd⟩

/-! ### MOVE (R30 to R34) -/

section
variable {n : Lane} {c : LaneContext} {w : List Host.Cell} {p : Part} {link : Half} {head : OrderHead} {m : MoverId}
  {mode share : Byte} {value : Word} {e : EntryId} {cl : Claim}

/-- The record in hand, with the mark that its order has clamped a value (R31). -/
def LaneContext.clampedBy (c : LaneContext) (clamped : Bool) (held : HeldRecord) : LaneContext :=
  { c with current := some { held with clamped := clamped } }

theorem whenTrue_markClamped {held : HeldRecord} (hc : c.current = some held) (hh : held.clamped = false) (clamped : Bool) :
    whenTrue clamped (markClamped n) (midOrder n c w p) = midOrder n (c.clampedBy clamped held) w p := by
  cases clamped
  · rw [whenTrue_false]
    congr 1
    unfold LaneContext.clampedBy
    rw [← hh, ← hc]
  · rw [whenTrue_true, markClamped_midOrder, hc]
    rfl

theorem orderMove_refused (hc : c.current = some (heldBy link head (moveImage head m mode share value))) {code : ResultCode}
    (hj : p.judgeMove m mode.toNat value.toInt = { verdict := .refused code none, clamped := false })
    (ht : (p.mover m).motion.target = none) :
    orderMove n (midOrder n c w p) =
      (midOrder n c w p).emit [.orderEnds n (moverShown code m (p.mover m).position (p.mover m).sent)] := by
  have hj' : (midOrder n c w p).judgeMove m mode.toNat value.toInt = _ := hj
  unfold orderMove
  simp only [midOrder_currentBytes n c w p _ hc, moveImage_mover, moveImage_mode, moveImage_value, hj', whenTrue_false,
    moverRefusal]
  rw [show ((midOrder n c w p).motion m).target = none from ht, moverResult_midOrder hc rfl]
  rfl

theorem orderMove_zero (hc : c.current = some (heldBy link head (moveImage head m mode share value)))
    (hj : p.judgeMove m mode.toNat value.toInt = { verdict := .zero, clamped := false }) :
    orderMove n (midOrder n c w p) =
      (midOrder n c w p).emit [.orderEnds n (moverShown .done m (p.mover m).position (p.mover m).sent)] := by
  have hj' : (midOrder n c w p).judgeMove m mode.toNat value.toInt = _ := hj
  unfold orderMove
  simp only [midOrder_currentBytes n c w p _ hc, moveImage_mover, moveImage_mode, moveImage_value, hj', whenTrue_false]
  rw [moverResult_midOrder hc rfl]
  rfl

/-- The IDLE mover's motion in RELEASING toward `target` (R31, R32). -/
abbrev releasedTo (p : Part) (m : MoverId) (target : Nat) (share : Byte) (waiting : Option Lane) : Motion :=
  (p.motion m).released target (if share = 0 then 100 else share.toNat) (p.profilePlan m).brakeTime waiting

/-- What each end of a mover forgets when it is released (R32, R44). -/
def Mover.forgetsRuns (x : Mover) : Mover := { x with followRun := 0, endJudged := false }

theorem applyVerdict_starts (target sh : Nat) (waiting : Option Lane) (hidle : (p.motion m).state = .idle) :
    applyVerdict m (.starts target) sh waiting p =
      (moved m ((p.motion m).released target sh (p.profilePlan m).brakeTime waiting) Mover.forgetsRuns p).emit
        [.moversClear (p.moverZone m)] := by
  have h := moverTo_moved (p := p) (m := m) (mo := (p.motion m).released target sh (p.profilePlan m).brakeTime waiting)
    (f := Mover.forgetsRuns) (fun _ => rfl) none (.inl rfl)
  rw [hidle] at h
  exact h

theorem orderMove_starts {target : Nat} {clamped : Bool}
    (hc : c.current = some (heldBy link head (moveImage head m mode share value)))
    (hj : p.judgeMove m mode.toNat value.toInt = { verdict := .starts target, clamped := clamped })
    (hidle : (p.mover m).motion.state = .idle) :
    (headWaits head = false → orderMove n (midOrder n c w (p.setClaim e cl)) =
      (midOrder n (c.clampedBy clamped (heldBy link head (moveImage head m mode share value))) w
        ((moved m (releasedTo p m target share none) Mover.forgetsRuns p).setClaim e cl)).emit
        [.orderEnds n (moverShown .started m (p.mover m).position target), .moversClear (p.moverZone m)]) ∧
    (headWaits head = true → clamped = false → orderMove n (midOrder n c w (p.setClaim e cl)) =
      (midOrder n { c with state := .waiting, waitKind := some .action } w
        ((moved m (releasedTo p m target share (some n)) Mover.forgetsRuns p).setClaim e cl)).emit
        [.moversClear (p.moverZone m)]) := by
  have hj' : (midOrder n c w (p.setClaim e cl)).judgeMove m mode.toNat value.toInt =
    { verdict := .starts target, clamped := clamped } := hj
  unfold orderMove
  simp only [midOrder_currentBytes n c w (p.setClaim e cl) _ hc, moveImage_mover, moveImage_mode, moveImage_value,
    moveImage_share, imageWait_orderImage, hj', whenTrue_markClamped hc rfl]
  rw [moverResult_midOrder (c := c.clampedBy clamped (heldBy link head (moveImage head m mode share value))) rfl rfl]
  constructor
  · intro hh
    rw [startedOrWaits_ends (c := c.clampedBy clamped (heldBy link head (moveImage head m mode share value))) rfl rfl hh, hh]
    refine (applyVerdict_starts (p := Part.emit _ (midOrder n _ w (p.setClaim e cl))) target _ none hidle).trans ?_
    rw [moved_emit, moved_midOrder, moved_setClaim, emit_emit]
    rfl
  · rintro hh rfl
    rw [show c.clampedBy false (heldBy link head (moveImage head m mode share value)) = c by
      unfold LaneContext.clampedBy; rw [← hc], startedOrWaits_waits hc rfl hh, hh]
    refine (applyVerdict_starts (p := midOrder n _ w (p.setClaim e cl)) target _ (some n) hidle).trans ?_
    rw [moved_midOrder, moved_setClaim]
    rfl

end

end Sys2Proof.Machine
end

section
/-! The mover orders that need a claim, as commands: MOVE, STOP MOVER and FLOAT RAMP (R31, R32, R34 to R36, R49, R154). -/

namespace Sys2Proof.Machine

section
variable {s : State} {n : Lane} {link : Half} {head : OrderHead} {m : MoverId} {mode share : Byte} {value : Word}

theorem takesMove (h : s.TakesOrder n link head) (hplan : s.part.plan.isSome = true) (hfits : moveFits mode share value) :
    s.TakesMover n link head .move m (mode :: share :: 0 :: wordBytes value) :=
  ⟨h, rfl, by simp [wordBytes], hplan, moveImage_paramChecks head m mode share value s.part hfits⟩

theorem takesOfMover {kind : OrderKind} (h : s.TakesOrder n link head) (hplan : s.part.plan.isSome = true)
    (hk : kind = .stopMover ∨ kind = .floatRamp) : s.TakesMover n link head kind m [] :=
  ⟨h, by rcases hk with rfl | rfl <;> rfl, by simp, hplan,
    moverOrder_paramChecks s.part head (by rcases hk with rfl | rfl <;> simp) m⟩

/-- The deck with mover `m` on its way and its claim held is not steady at the mover's entry, and no door waits for it. -/
theorem settles_moved {p : Part} {mo : Motion} {f : Mover → Mover} {cl : Claim} (ha : p.agenda = [])
    (hs : mo.state.steady = false) (hd : ∀ d, (p.door d).state ≠ .waitClear) (k : ZoneId) :
    ClaimSettles n ([.moversClear k] ++ [.steadyReport (p.entryOfMover m)])
      ((moved m mo f p).setClaim (p.entryOfMover m) cl) ((moved m mo f p).setClaim (p.entryOfMover m) cl).claims := by
  have ha' : (moved m mo f p).agenda = [] := by rw [moved_eq]; exact ha
  have hd' : ∀ d, ((moved m mo f p).door d).state ≠ .waitClear := fun d => by rw [moved_door]; exact hd d
  refine settles_unsteady ha' (moved_steady.trans hs) (by simp) fun mm a c w fs ov oc hmem => ?_
  rw [List.mem_singleton.1 hmem]
  exact moversClear_midOrder (p := (moved m mo f p).setClaim _ cl) hd' mm c w fs ov oc

end

@[simp] theorem moverShown_code (code : ResultCode) (m : MoverId) (position second : Nat) :
    (moverShown code m position second).code = code := rfl

/-- Settles O49: a start is the entry to RELEASING with the claim kept; a refusal and a zero distance end the order at once. -/
theorem moveReleasesMover : Obligations.MoveReleasesMover := by
  intro s n link head m mode share value j q ht hplan hfits hidle hw hf hj
  have hm := hidle m (self_mem_ends ..)
  have hT := takesMove (m := m) ht hplan hfits
  have hexec : exec (.move n head (BitVec.ofNat 8 m.val) mode share value) s =
      .next (runOrder n (moveImage head m mode share value) s) := exec_order ht rfl
  refine ⟨fun target hv hd hq => ?_, fun code hv hc hfail ha htarget => ⟨_, hexec, ?_⟩, fun hv hc => ⟨_, hexec, ?_⟩⟩
  · obtain ⟨hends, hwaits⟩ := orderMove_starts (n := n) (w := s.takenWrites link head) (p := s.part) (head := head)
      (link := link) (c := s.atBlock n link head .move m (mode :: share :: 0 :: wordBytes value))
      (e := s.part.entryOfMover m) (cl := implicitOf n) rfl (hj.trans (show j = ⟨.starts target, j.clamped⟩ by rw [← hv])) hm
    have hsettles := fun waiting => settles_moved (n := n) (m := m) (mo := releasedTo s.part m target share waiting)
      (f := Mover.forgetsRuns) (cl := implicitOf n) ht.takes.quiet.agenda rfl hd (s.part.moverZone m)
    refine ⟨fun hh => ⟨_, hexec, ?_⟩, fun hh hc => ⟨_, hexec, ?_⟩⟩
    · rw [hh] at hq
      have := moverOrder_ends hT hf.isOpen (hends hh) rfl rfl rfl rfl (fun _ => rfl) (hsettles none) (by simp)
        (setClaim_deckChange (moved_deckChange (.refl _)))
      rw [hq, ← show (if j.clamped then (0 : Byte) ||| flagClamped else 0) = if j.clamped then flagClamped else 0 from rfl]
      exact this
    · rw [hh] at hq
      have := moverOrder_waits hT hf.isOpen (hwaits hh hc) (hsettles (some n))
        (setClaim_deckChange (moved_deckChange (.refl _)))
      rw [hq]
      exact this
  · exact moverOrder_endsAtOnce hT hf hidle
      (orderMove_refused rfl (hj.trans (show j = _ by rw [← hv, ← hc])) htarget) (fun _ => ha)
  · exact moverOrder_endsAtOnce hT hf hidle (orderMove_zero rfl (hj.trans (show j = _ by rw [← hv, ← hc])))
      (by simp)

/-! ### STOP MOVER (R35, R36) -/

section
variable {p : Part} {m : MoverId}

theorem Motion.with_waiting_none {mo : Motion} (h : mo.waiting = none) : { mo with waiting := none } = mo := by
  cases mo
  cases h
  rfl

/-- The motion of a MOVING mover that a stop request reaches (R35). -/
abbrev Motion.stopping (mo : Motion) : Motion := { mo with state := .stopping, stopLatch := true, pending := none }

theorem endReturn_idle {e : EntryId} (status : ReturnStatus) (h : (p.claim e).status ≠ .underWay) :
    endReturn e status p = p := if_neg h

theorem moverStop_moving (byZone : Bool) (hs : (p.motion m).state = .moving) (hw : (p.motion m).waiting = none)
    (hst : (p.claim (p.entryOfMover m)).status ≠ .underWay) :
    moverStop m byZone p = setMotion m (p.motion m).stopping p := by
  unfold moverStop
  simp only [hs, endReturn_idle _ hst]
  rw [moverTo_unwaited (mo := (p.motion m).stopping) hw hw, hs]
  exact emit_nil _

theorem moverStop_releasing (byZone : Bool) (hs : (p.motion m).state = .releasing) (hw : (p.motion m).waiting = none)
    (hst : (p.claim (p.entryOfMover m)).status ≠ .underWay) :
    moverStop m byZone p =
      (idled m (p.restCount m) p).emit
        [.moversClear (p.moverZone m), .steadyReport (p.entryOfMover m)] := by
  unfold moverStop
  simp only [hs, endReturn_idle _ hst]
  rw [enterIdle_eq _ (.inr hw), hs]
  rfl

end

section
variable {n : Lane} {c : LaneContext} {w : List Host.Cell} {p : Part} {link : Half} {head : OrderHead} {m : MoverId}

theorem orderStopMover_idle (hc : c.current = some (heldBy link head (moverImage head .stopMover m [])))
    (hs : (p.mover m).motion.state = .idle) :
    orderStopMover n (midOrder n c w p) =
      (midOrder n c w p).emit [.orderEnds n (moverShown .done m (p.mover m).position (p.mover m).sent)] := by
  unfold orderStopMover
  simp only [midOrder_currentBytes n c w p _ hc, paramMover_orderImage]
  rw [show ((midOrder n c w p).motion m).state = .idle from hs]
  dsimp only
  rw [moverResult_midOrder hc rfl]
  rfl

theorem orderStopMover_moving (hc : c.current = some (heldBy link head (moverImage head .stopMover m [])))
    {target : Nat} (hs : (p.mover m).motion.state = .moving) (hw : (p.mover m).motion.waiting = none)
    (hst : (p.claim (p.entryOfMover m)).status ≠ .underWay) (ht : (p.mover m).motion.target = some target) :
    (headWaits head = false → orderStopMover n (midOrder n c w p) =
      (midOrder n c w (setMotion m (p.motion m).stopping p)).emit
        [.orderEnds n (moverShown .started m (p.mover m).position target)]) ∧
    (headWaits head = true → orderStopMover n (midOrder n c w p) =
      midOrder n { c with state := .waiting, waitKind := some .action } w
        (setMotion m { (p.motion m).stopping with waiting := some n } p)) := by
  have hstop : moverStop m false (midOrder n c w p) = midOrder n c w (setMotion m (p.motion m).stopping p) :=
    (moverStop_moving (p := midOrder n c w p) false hs hw hst).trans (midOrder_setMotion n c w p m _)
  have hstate : ((midOrder n c w p).motion m).state = .moving := hs
  have htarget : ((midOrder n c w p).motion m).target = some target := ht
  unfold orderStopMover
  simp only [midOrder_currentBytes n c w p _ hc, paramMover_orderImage, imageWait_orderImage, hstate, htarget, hstop,
    moverResult_midOrder hc rfl, setMotion_position]
  refine ⟨fun hh => ?_, fun hh => ?_⟩
  · rw [hh, whenTrue_false, startedOrWaits_ends hc rfl hh]
    rfl
  · have hset : setWaiting m (some n) (midOrder n c w (setMotion m (p.motion m).stopping p)) =
        midOrder n c w (setMotion m { (p.motion m).stopping with waiting := some n } p) := by
      unfold setWaiting
      rw [midOrder_setMotion, show (midOrder n c w (setMotion m (p.motion m).stopping p)).motion m = _ from
        setMotion_motion_self p m _, setMotion_setMotion]
    rw [hh, whenTrue_true, hset, startedOrWaits_waits hc rfl hh]

theorem orderStopMover_releasing (hc : c.current = some (heldBy link head (moverImage head .stopMover m [])))
    {target : Nat} (hs : (p.mover m).motion.state = .releasing) (hw : (p.mover m).motion.waiting = none)
    (hst : (p.claim (p.entryOfMover m)).status ≠ .underWay) (ht : (p.mover m).motion.target = some target) :
    orderStopMover n (midOrder n c w p) =
      (midOrder n c w (idled m (p.restCount m) p)).emit
        [.moversClear (p.moverZone m), .steadyReport (p.entryOfMover m),
          .orderEnds n (moverShown (if headWaits head then .done else .started) m (p.mover m).position target)] := by
  have hstop : moverStop m false (midOrder n c w p) =
      (midOrder n c w (idled m (p.restCount m) p)).emit
        [.moversClear (p.moverZone m), .steadyReport (p.entryOfMover m)] :=
    (moverStop_releasing (p := midOrder n c w p) false hs hw hst).trans (congrArg (Part.emit _) (moved_midOrder n c w))
  have hstate : ((midOrder n c w p).motion m).state = .releasing := hs
  have htarget : ((midOrder n c w p).motion m).target = some target := ht
  have hposition : ((idled m (p.restCount m) p).mover m).position =
      (p.mover m).position := by
    rw [idled_mover, if_pos (self_mem_ends ..)]
    rfl
  have hres : ∀ code, moverResult n code 0 (some target)
      ((midOrder n c w (idled m (p.restCount m) p)).emit
        [.moversClear (p.moverZone m), .steadyReport (p.entryOfMover m)]) =
      moverShown code m (p.mover m).position target := by
    intro code
    refine (moverResult_midOrder (n := n) (c := c) (w := w) (q := Part.emit _ _) hc rfl code 0 (some target)).trans ?_
    rw [← hposition]
    rfl
  unfold orderStopMover
  simp only [midOrder_currentBytes n c w p _ hc, paramMover_orderImage, imageWait_orderImage, hstate, htarget, hstop, hres,
    emit_emit]
  rfl

end

/-! ### The order's event (R154, R157) -/

section
variable {s : State} {n : Lane} {link : Half} {head : OrderHead} {kind : OrderKind} {m : MoverId} {params : List Byte}
  {p : Part} {r : Result} {claims : Vector Claim 32}

/-- Arbitration waits until the rest of the event is done (R156). -/
theorem drain_arbitrate_last {mm : List Host.Cell} {b : Nat} {a : Act} {rest : List Act} (hp : p.agenda = [])
    (ha : a ≠ .arbitrate) (hrest : ∀ x ∈ rest, x ≠ .arbitrate) :
    drain mm (b + 1) (p.emit (.arbitrate :: a :: rest)) = drain mm b (p.emit (a :: rest ++ [.arbitrate])) := by
  have hfilter : (a :: rest).filter (fun x => x != .arbitrate) = a :: rest := by
    rw [List.filter_eq_self]
    intro x hx
    rcases List.mem_cons.1 hx with rfl | hx
    · simpa using ha
    · simpa using hrest x hx
  rw [drain_next (by simp [Part.emit])]
  congr 1
  unfold performNext
  simp only [Part.emit_agenda, hp, List.nil_append, hfilter]
  simp [Part.emit, hp]

theorem drain_arbitrate_alone {mm : List Host.Cell} {b : Nat} (hp : p.agenda = []) (hw : p.waiters = []) :
    drain mm (b + 1) (p.emit [.arbitrate]) = p := by
  rw [drain_arbitrate (p := p.emit [.arbitrate]) (by simp [hp]) hw]
  simp [Part.emit, ← hp]

/-- A mover that has come to rest gives its implicit claim back before the order that stopped it ends, and is not asked for it
again. -/
theorem drain_rests_ends {c : LaneContext} {w : List Host.Cell} {k : ZoneId} {e : EntryId}
    (hp : p.agenda = []) (hd : ∀ d, (p.door d).state ≠ .waitClear) (hcl : p.claim e = implicitOf n)
    (hs : p.steady e = true) (hw : p.waiters = []) {held : HeldRecord} (hc : c.current = some held)
    (hb : held.bytes = orderImage head kind params) (ha : r.code.failure = true → head.alternate ≠ 0)
    (mm : List Host.Cell) :
    drain mm 65534 ((midOrder n c w p).emit [.moversClear k, .steadyReport e, .orderEnds n r, .steadyReport e]) =
      orderEnds n r (midOrder n c w (p.setClaim e Claim.free)) := by
  obtain ⟨c', ws, ov, oc, fs, hends⟩ := midOrder_orderEnds (r := r) (head := head) (k := kind) (params := params) (n := n)
    (p := p.setClaim e Claim.free) (w := w) hc hb ha
  obtain ⟨x, hx⟩ : ∃ x, x = midOrder n c w p := ⟨_, rfl⟩
  obtain ⟨y, hy⟩ : ∃ y, y = orderEnds n r (midOrder n c w (p.setClaim e Claim.free)) := ⟨_, rfl⟩
  have hxa : x.agenda = [] := by rw [hx]; exact hp
  have hya : y.agenda = [] := by rw [hy, hends]; exact hp
  have hclear : perform mm (.moversClear k) x = x := by rw [hx]; exact moversClear_noWaitClear k hd
  have hsteady : perform mm (.steadyReport e) x = (x.setClaim e Claim.free).emit [.arbitrate] := by
    rw [hx]
    exact steadyReport_releases (n := n) hcl hs
  have hend : perform mm (.orderEnds n r) (x.setClaim e Claim.free) = y := by rw [hx, hy]; rfl
  have hagain : perform mm (.steadyReport e) y = y := by
    refine steadyReport_free y ?_
    rw [hy, hends]
    exact congrArg Claim.holder (Part.setClaim_same p e Claim.free)
  have hyw : y.waiters = [] := by rw [hy, hends]; exact hw
  rw [← hx, ← hy, drain_emit hxa (by simp), hclear, drain_emit hxa (by simp), hsteady, emit_emit, List.singleton_append,
    drain_arbitrate_last (by exact hxa) (by simp) (by simp), List.cons_append, drain_emit (by exact hxa) (by simp), hend,
    List.cons_append, drain_emit hya (by simp), hagain]
  exact drain_arbitrate_alone hya hyw

/-- An order of a mover whose claim the lane's own group holds goes straight to its block (R157). -/
theorem moverOrder_endsInNest (h : s.TakesMover n link head kind m params) (hnest : (s.part.lane n).nest ≠ [])
    (hin : (s.part.claim (s.part.entryOfMover m)).inNest n = true)
    (hB : kind.moverWork n (midOrder n (s.atBlock n link head kind m params) (s.takenWrites link head) s.part) =
      (midOrder n (s.atBlock n link head kind m params) (s.takenWrites link head) s.part).emit [.orderEnds n r])
    (ha : r.code.failure = true → head.alternate ≠ 0) :
    s.OrderEnds (runOrder n (moverImage head kind m params) s) n link head r s.part := by
  obtain ⟨q, hq⟩ : ∃ q, q = midOrder n (s.atBlock n link head kind m params) (s.takenWrites link head) s.part := ⟨_, rfl⟩
  have hqa : q.agenda = [] := by rw [hq]; exact h.takes.takes.quiet.agenda
  have hcur : (q.lane n).current = some (heldBy link head (moverImage head kind m params)) := by rw [hq, midOrder_lane]; rfl
  have hqn : (q.lane n).nest ≠ [] := by rw [hq, midOrder_lane]; exact hnest
  have htaken : takenPart n link head.standing (moverImage head kind m params) s.part = q := by
    rw [hq]
    exact takenPart_mid h.takes.takes _ _ rfl rfl rfl
  have hbytes : q.currentBytes n = moverImage head kind m params := by rw [← htaken, takenPart_currentBytes]
  have hlt := linkTake_placed (params := BitVec.ofNat 8 m.val :: params) (k := kind) h.takes.takes h.length
    (refusal_none h.length (headPasses_taken h.takes.passes) (by rw [takenPart_paramChecks]; exact h.fits)
      (by simpa using .inl h.plan) (fun hb => absurd hb (by simp [moverImage_needsBridge h.claims])))
  have hpass : ∀ mm, perform mm (.passOrder n) q = q.emit [.blockOrder n] := by
    intro mm
    have hentry : q.claimEntry (moverImage head kind m params) = some (s.part.entryOfMover m) := by
      rw [moverImage_claimEntry _ h.claims, hq]
      rfl
    have hin' : (q.claim (s.part.entryOfMover m)).inNest n = true := by rw [hq]; exact hin
    show passOrder n q = _
    unfold passOrder
    simp [hbytes, hentry, hqn, hin']
  have hblock : ∀ mm, perform mm (.blockOrder n) q = q.emit [.orderEnds n r] := by
    intro mm
    refine (blockOrder_mover h.claims hbytes mm).trans ?_
    rw [hq]
    exact hB
  refine midOrder_ends (p := s.part) (claims := s.part.claims) (c := s.atBlock n link head kind m params)
    (held := heldBy link head (moverImage head kind m params)) h.takes.takes h.length hlt ?_
    rfl rfl rfl rfl (fun _ => rfl) ha rfl h.takes.takes.quiet.agenda rfl rfl
  obtain ⟨ws, ov, oc, fs, hends⟩ := orderEnds_leaves (r := r) (head := head) (k := kind)
    (params := BitVec.ofNat 8 m.val :: params) hcur rfl ha
  have hdrain := fun mm => drain_ends_among (m := mm) (pre := []) (rest := []) hqa hcur rfl ha (by simp) (by simp) (by simp)
  rw [htaken, ← hq, show Config.agendaBound = 65534 + 1 + 1 from rfl, drain_emit hqa (by simp), hpass, emit_nil,
    drain_emit hqa (by simp), hblock, emit_nil]
  refine (hdrain _).trans ?_
  rw [hends, hq]
  rfl

/-- An order of the lane's own mover that stops it where it stands: the claim is given back before the order ends. -/
theorem moverOrder_endsAtRest (h : s.TakesMover n link head kind m params)
    (hf : s.part.ClaimOpen n (s.part.entryOfMover m)) {k : ZoneId}
    (hB : kind.moverWork n (midOrder n (s.atBlock n link head kind m params) (s.takenWrites link head) (s.claimed n m)) =
      (midOrder n (s.atBlock n link head kind m params) (s.takenWrites link head) p).emit
        [.moversClear k, .steadyReport (s.part.entryOfMover m), .orderEnds n r])
    (hd : ∀ d, (p.door d).state ≠ .waitClear) (hcl : p.claim (s.part.entryOfMover m) = implicitOf n)
    (hs : p.steady (s.part.entryOfMover m) = true) (hw : p.waiters = []) (ha : r.code.failure = true → head.alternate ≠ 0)
    (hdeck : s.part.DeckChange p) :
    s.OrderEnds (runOrder n (moverImage head kind m params) s) n link head r
      (p.setClaim (s.part.entryOfMover m) Claim.free) := by
  have hpa : p.agenda = [] := hdeck.agenda.trans h.takes.takes.quiet.agenda
  obtain ⟨hlt, hdrain⟩ := order_to_claim h.takes h.length h.fits (.inl h.plan)
    (fun hb => absurd hb (by simp [moverImage_needsBridge h.claims])) (moverImage_claimEntry _ h.claims) hf (by
      rw [takenPart_setClaim, takenPart_mid (p := s.claimed n m) h.takes.takes _ _ rfl rfl rfl]
      exact (h.blockOrder _).trans hB)
  exact midOrder_ends (p := p.setClaim (s.part.entryOfMover m) Claim.free)
    (claims := (p.setClaim (s.part.entryOfMover m) Claim.free).claims) (c := s.atBlock n link head kind m params)
    (held := heldBy link head (moverImage head kind m params)) h.takes.takes h.length hlt
    ((hdrain.trans (drain_rests_ends hpa hd hcl hs hw rfl rfl ha _)).trans (by
      obtain ⟨c', ws, ov, oc, fs, hends⟩ := midOrder_orderEnds (r := r) (head := head) (k := kind)
        (params := BitVec.ofNat 8 m.val :: params) (n := n) (c := s.atBlock n link head kind m params)
        (p := p.setClaim (s.part.entryOfMover m) Claim.free) (w := s.takenWrites link head)
        (held := heldBy link head (moverImage head kind m params)) rfl rfl ha
      rw [hends]
      rfl)) rfl rfl rfl rfl (fun _ => rfl) ha hdeck.lanes hpa hdeck.generation (by
        show p.port.partState = _
        rw [hdeck.port])

end

/-- Settles O50: on an IDLE mover the order ends at once, by either way to the block; in MOVING it stops the motion and its claim
stays; in RELEASING the mover is at rest again and gives the claim back before the order ends. -/
theorem stopMoverStopsMotion : Obligations.StopMoverStopsMotion := by
  intro s n link head m target q ht hplan
  have hT := takesOfMover (kind := .stopMover) (m := m) ht hplan (.inl rfl)
  have hexec : exec (.stopMover n head (BitVec.ofNat 8 m.val)) s =
      .next (runOrder n (moverImage head .stopMover m []) s) := exec_order ht rfl
  refine ⟨fun hidle hcl => ⟨_, hexec, ?_⟩, fun hnest hcl hw hwait htarget => ?_⟩
  · have hm := hidle m (self_mem_ends ..)
    rcases hcl with hfree | ⟨hnest, hin⟩
    · exact moverOrder_endsAtOnce hT hfree hidle (orderStopMover_idle rfl hm) (by simp)
    · exact moverOrder_endsInNest hT hnest hin (orderStopMover_idle rfl hm) (by simp)
  · have hopen : s.part.ClaimOpen n (s.part.entryOfMover m) := ⟨hnest, .inr hcl, hw⟩
    have hclaimed : s.claimed n m = s.part := by rw [State.claimed, ← hcl, Part.setClaim_self]
    have hst : (s.part.claim (s.part.entryOfMover m)).status ≠ .underWay := by
      rw [hcl]
      exact fun h => by cases h
    refine ⟨fun hs hq => ?_, fun code hs hd hcode hq => ⟨_, hexec, ?_⟩⟩
    · obtain ⟨hends, hwaits⟩ := orderStopMover_moving (n := n) (p := s.part) (head := head) (link := link)
        (c := s.atBlock n link head .stopMover m []) (w := s.takenWrites link head) rfl hs hwait hst htarget
      have hdeck := fun mo => setMotion_deckChange (m := m) (mo := mo) (Part.DeckChange.refl s.part)
      have hsettles : ∀ mo : Motion, mo.state = .stopping → ClaimSettles n [.steadyReport (s.part.entryOfMover m)]
          (setMotion m mo s.part) (setMotion m mo s.part).claims := fun mo hmo =>
        settles_unsteady (rest := []) ((hdeck mo).agenda.trans ht.takes.quiet.agenda)
          ((setMotion_steady ..).trans (by rw [hmo]; rfl)) (by simp) (by simp)
      refine ⟨fun hh => ⟨_, hexec, ?_⟩, fun hh => ⟨_, hexec, ?_⟩⟩
      · have hmo : { (s.part.mover m).motion.stopping with waiting := none } = (s.part.mover m).motion.stopping :=
          Motion.with_waiting_none hwait
        rw [hh] at hq
        rw [hq.trans (congrArg (setMotion m · s.part) hmo)]
        exact moverOrder_ends (rest := []) (c := s.atBlock n link head .stopMover m []) hT hopen
          (by rw [hclaimed]; exact hends hh) rfl rfl rfl rfl (fun _ => rfl) (hsettles _ rfl) (by simp) (hdeck _)
      · rw [hh] at hq
        rw [hq]
        exact moverOrder_waits (rest := []) hT hopen (by rw [hclaimed, emit_nil]; exact hwaits hh) (hsettles _ rfl) (hdeck _)
    · rw [hcode, hq]
      refine moverOrder_endsAtRest hT hopen (k := s.part.moverZone m) (p := idled m (s.part.restCount m) s.part) ?_ (fun d => ?_)
        ((moved_claim _).trans hcl) moved_steady ?_ ?_ (moved_deckChange (.refl _))
      · rw [hclaimed]
        exact orderStopMover_releasing rfl hs hwait hst htarget
      · rw [moved_door]
        exact hd d
      · rw [idled, moved_eq]
        exact hw
      · cases headWaits head <;> simp

end Sys2Proof.Machine
end

section
/-! FLOAT RAMP and CLEAR MOVER FAULT (R49, R53). -/

namespace Sys2Proof.Machine

/-! ### FLOAT RAMP (R49) -/

section
variable {n : Lane} {c : LaneContext} {w : List Host.Cell} {p : Part} {link : Half} {head : OrderHead} {m : MoverId}
  {e : EntryId} {cl : Claim}

/-- The motion of a ramp that enters FLOATING (R49). -/
abbrev floatingFrom (p : Part) (m : MoverId) (waiting : Option Lane) : Motion :=
  { p.motion m with
    state := .floating, setpoint := none, brakeJudged := false,
    brakeTimer := startTimer (p.planMover m).brakeTime, waiting := waiting }

/-- An end whose brake is to be judged anew. -/
def Mover.unjudged (x : Mover) : Mover := { x with endJudged := false }

theorem moverTo_floating (waiting : Option Lane) (hidle : (p.motion m).state = .idle) :
    moverTo m (floatingFrom p m waiting) none (mapEnds m Mover.unjudged p) =
      (moved m (floatingFrom p m waiting) Mover.unjudged p).emit [.steadyReport (p.entryOfMover m)] := by
  have h := moverTo_moved (p := p) (m := m) (mo := floatingFrom p m waiting) (f := Mover.unjudged) (fun _ => rfl) none
    (.inl rfl)
  rw [hidle] at h
  exact h

theorem orderFloatRamp_floats (hc : c.current = some (heldBy link head (moverImage head .floatRamp m [])))
    (hkind : (p.planMover m).kind = .ramp) (hidle : (p.mover m).motion.state = .idle)
    (hzone : (p.zone (p.moverZone m)).state = .loading)
    (hpos : (p.mover m).position ≤ (p.planMover m).lower + (p.planMover m).floatWindow) :
    (headWaits head = false → orderFloatRamp n (midOrder n c w (p.setClaim e cl)) =
      (midOrder n c w ((moved m (floatingFrom p m none) Mover.unjudged p).setClaim e cl)).emit
        [.orderEnds n (moverShown .started m (p.mover m).position (p.mover m).sent), .steadyReport (p.entryOfMover m)]) ∧
    (headWaits head = true → orderFloatRamp n (midOrder n c w (p.setClaim e cl)) =
      (midOrder n { c with state := .waiting, waitKind := some .action } w
        ((moved m (floatingFrom p m (some n)) Mover.unjudged p).setClaim e cl)).emit
        [.steadyReport (p.entryOfMover m)]) := by
  have hkind' : ((midOrder n c w (p.setClaim e cl)).planMover m).kind = .ramp := hkind
  have hidle' : ((midOrder n c w (p.setClaim e cl)).motion m).state = .idle := hidle
  have hzone' : ((midOrder n c w (p.setClaim e cl)).zone ((midOrder n c w (p.setClaim e cl)).moverZone m)).state =
    .loading := hzone
  have hpos' : ¬ ((midOrder n c w (p.setClaim e cl)).planMover m).lower +
      ((midOrder n c w (p.setClaim e cl)).planMover m).floatWindow <
    ((midOrder n c w (p.setClaim e cl)).mover m).position := Nat.not_lt.2 hpos
  have hfloats := fun (c' : LaneContext) (acts : List Act) (waiting : Option Lane) =>
    (moverTo_floating (p := (midOrder n c' w (p.setClaim e cl)).emit acts) waiting hidle).trans
      (show _ = (midOrder n c' w ((moved m (floatingFrom p m waiting) Mover.unjudged p).setClaim e cl)).emit
          (acts ++ [.steadyReport (p.entryOfMover m)]) by
        rw [moved_emit, moved_midOrder, moved_setClaim, emit_emit]
        rfl)
  unfold orderFloatRamp
  simp only [midOrder_currentBytes n c w (p.setClaim e cl) _ hc, paramMover_orderImage, imageWait_orderImage, hkind',
    hidle', hzone', hpos', moverResult_midOrder (q := p.setClaim e cl) hc rfl, ne_eq, not_true_eq_false, if_false]
  refine ⟨fun hh => ?_, fun hh => ?_⟩
  · rw [startedOrWaits_ends hc rfl hh, hh]
    exact hfloats c [_] none
  · rw [startedOrWaits_waits hc rfl hh, hh]
    have := hfloats { c with state := .waiting, waitKind := some .action } [] (some n)
    rw [emit_nil] at this
    exact this

end

/-! ### CLEAR MOVER FAULT (R53) -/

section
variable {p : Part} {m : MoverId}

theorem mem_ends_iff (e : MoverId) : e ∈ p.ends m ↔ e = m ∨ p.partner m = some e := by
  unfold Part.ends
  cases p.partner m with
  | none => simp
  | some q => by_cases h : q.val < m.val <;> simp [h, eq_comm, or_comm]

theorem faultClears_iff : p.faultClears m = true ↔ faultCanClear p m := by
  unfold Part.faultClears faultCanClear
  have hskew : ((p.partner m).isNone || decide (p.skew m ≤ (p.profilePlan m).sfault)) = true ↔
      ∀ e, p.partner m = some e →
        (((p.mover m).position : Int) - (p.mover e).position).natAbs ≤ (p.planMover (p.leader m)).sfault := by
    unfold Part.skew Part.profilePlan
    cases p.partner m <;> simp
  simp only [Bool.and_eq_true, hskew, List.all_eq_true, mem_ends_iff, beq_iff_eq, Bool.not_eq_true']

end

section
variable {n : Lane} {p : Part} {link : Half} {st : Bool} {head : OrderHead} {m : MoverId}

/-- The record image of CLEAR MOVER FAULT. -/
abbrev clearImage (head : OrderHead) (m : MoverId) : List Byte := moverImage head .clearMoverFault m []

theorem clearMoverFault_other (hs : (p.mover m).motion.state ≠ .faulted) :
    orderClearMoverFault n (takenPart n link head.standing (clearImage head m) p) =
      (takenPart n link head.standing (clearImage head m) p).emit
        [.orderEnds n (moverShown .done m (p.mover m).position ((p.mover m).motion.target.getD (p.mover m).sent))] := by
  unfold orderClearMoverFault
  simp only [takenPart_currentBytes, paramMover_orderImage, takenPart_motion, moverResult_takenPart]
  exact if_pos hs

theorem clearMoverFault_refused {cause : MoverCause} (hs : (p.mover m).motion.state = .faulted)
    (hcause : (p.mover m).motion.cause = some cause) (hno : p.faultClears m = false) :
    orderClearMoverFault n (takenPart n link head.standing (clearImage head m) p) =
      (takenPart n link head.standing (clearImage head m) p).emit
        [.orderEnds n (moverShown .faulted m (p.mover m).position (cause.num + 1))] := by
  have hno' : (takenPart n link head.standing (clearImage head m) p).faultClears m = false := by
    rw [takenPart_eq]
    exact hno
  have hs' : (p.motion m).state = .faulted := hs
  have hcause' : (p.motion m).cause = some cause := hcause
  unfold orderClearMoverFault moverRefusal
  simp [takenPart_currentBytes, paramMover_orderImage, moverResult_takenPart, hs', hcause', hno', moverShown]
  rfl

theorem moved_takenPart {mo : Motion} {f : Mover → Mover} {im : List Byte} :
    moved m mo f (takenPart n link st im p) = takenPart n link st im (moved m mo f p) := by
  rw [moved, takenPart_mapEnds, takenPart_setMotion]
  rfl

theorem restCount_takenPart {im : List Byte} : (takenPart n link st im p).restCount m = p.restCount m := by
  rw [takenPart_eq]
  rfl

theorem clearMoverFault_clears (ha : p.agenda = []) (hs : (p.mover m).motion.state = .faulted)
    (hyes : p.faultClears m = true) (hl : ∀ e ∈ p.ends m, (p.mover e).localReported = false) :
    orderClearMoverFault n (takenPart n link head.standing (clearImage head m) p) =
      (takenPart n link head.standing (clearImage head m) (idled m (p.restCount m) p)).emit
        [.orderEnds n (moverShown .done m (p.mover m).position (p.restCount m)), .steadyReport (p.entryOfMover m)] := by
  have hyes' : (takenPart n link head.standing (clearImage head m) p).faultClears m = true := by
    rw [takenPart_eq]
    exact hyes
  have hs' : (p.motion m).state = .faulted := hs
  have hnotLocal : (p.ends m).any (fun e => (p.mover e).localReported) = false := by
    rw [List.any_eq_false]
    exact fun e he => by simp [hl e he]
  have hmover : (idled m (p.restCount m) p).mover m =
      { (p.mover m).atRest (p.restCount m) with motion := (p.motion m).atRest (p.restCount m) } := by
    rw [idled_mover, if_pos (self_mem_ends ..)]
  have hagenda : (idled m (p.restCount m) p).agenda = [] := by
    rw [idled, moved_eq]
    exact ha
  have hidles : enterIdle m none (takenPart n link head.standing (clearImage head m) p) =
      (takenPart n link head.standing (clearImage head m) (idled m (p.restCount m) p)).emit
        [.steadyReport (p.entryOfMover m)] := by
    rw [enterIdle_eq none (.inl rfl), idled, takenPart_motion, hs', moverReports_faulted_idle, takenPart_entryOfMover,
      restCount_takenPart, moved_takenPart]
  have hresult : moverResult n .done 0 none
      ((takenPart n link head.standing (clearImage head m) (idled m (p.restCount m) p)).emit
        [.steadyReport (p.entryOfMover m)]) = moverShown .done m (p.mover m).position (p.restCount m) := by
    refine (moverResult_takenPart .done 0 none).trans ?_
    rw [hmover]
    rfl
  unfold orderClearMoverFault
  simp only [takenPart_currentBytes, paramMover_orderImage, takenPart_motion, hs', hyes', takenPart_ends, takenPart_mover,
    hnotLocal, hidles, ne_eq, not_true_eq_false, Bool.not_true, Bool.false_eq_true, if_false, hresult]
  simp [Part.retireFirst, Part.emit, hagenda]

end

/-- Settles O51: FLOATING gives the claim back in the order's event; CLEAR MOVER FAULT needs no claim and ends at once. -/
theorem floatAndClearFault : Obligations.FloatAndClearFault := by
  intro s n link head m q ht hplan
  have hexec : exec (.clearMoverFault n head (BitVec.ofNat 8 m.val)) s = .next (runOrder n (clearImage head m) s) :=
    exec_order ht rfl
  have hentry : s.part.claimEntry (clearImage head m) = none := by
    unfold Part.claimEntry
    rw [imageKind_orderImage]
  have hparams := moverOrder_paramChecks s.part head (kind := .clearMoverFault) (by simp) m
  have hblock : ∀ mm, blockOrder n mm (takenPart n link head.standing (clearImage head m) s.part) =
      orderClearMoverFault n (takenPart n link head.standing (clearImage head m) s.part) := fun mm => by
    unfold blockOrder
    rw [takenPart_currentBytes, imageKind_orderImage]
  have hbridge : needsBridge (clearImage head m) .clearMoverFault = true → (s.part.lane n).bridge = true :=
    fun h => absurd h (by simp [needsBridge])
  refine ⟨fun hf hkind hidle hwait hzone hpos hq => ?_, fun hs => ⟨_, hexec, ?_⟩,
    fun cause hs hcause hno ha => ⟨_, hexec, ?_⟩, fun hs _ hyes hl hfree hq => ⟨_, hexec, ?_⟩⟩
  · have hT := takesOfMover (kind := .floatRamp) (m := m) ht hplan (.inr rfl)
    have hexec : exec (.floatRamp n head (BitVec.ofNat 8 m.val)) s =
        .next (runOrder n (moverImage head .floatRamp m []) s) := exec_order ht rfl
    obtain ⟨hends, hwaits⟩ := orderFloatRamp_floats (n := n) (w := s.takenWrites link head) (p := s.part) (head := head)
      (link := link) (c := s.atBlock n link head .floatRamp m []) (e := s.part.entryOfMover m) (cl := implicitOf n)
      rfl hkind hidle hzone hpos
    have hdeck := fun waiting => setClaim_deckChange (e := s.part.entryOfMover m) (cl := implicitOf n)
      (moved_deckChange (m := m) (mo := floatingFrom s.part m waiting) (f := Mover.unjudged) (.refl s.part))
    have hsettles := fun waiting => settles_twice (n := n) (e := s.part.entryOfMover m)
      (p := (moved m (floatingFrom s.part m waiting) Mover.unjudged s.part).setClaim (s.part.entryOfMover m) (implicitOf n))
      ((hdeck waiting).agenda.trans ht.takes.quiet.agenda) moved_steady (by simp) (by
        rw [moved_eq]
        exact hf.waiters)
    have hback := fun waiting => claims_freed_again (e := s.part.entryOfMover m)
      (q := moved m (floatingFrom s.part m waiting) Mover.unjudged s.part) (by rw [moved_eq]) hf.free (implicitOf n)
    refine ⟨fun hh => ⟨_, hexec, ?_⟩, fun hh => ⟨_, hexec, ?_⟩⟩
    · rw [hh] at hq
      have := moverOrder_ends hT hf.isOpen (hends hh) rfl rfl rfl rfl (fun _ => rfl) (hsettles none) (by simp) (hdeck none)
      rw [hback] at this
      rw [hq]
      exact this
    · rw [hh] at hq
      have := moverOrder_waits hT hf.isOpen (hwaits hh) (hsettles (some n)) (hdeck (some n))
      rw [hback] at this
      rw [hq]
      exact this
  · exact order_done_taken ht (by simp) hparams (.inl hplan) hbridge hentry
      (fun mm => (hblock mm).trans (clearMoverFault_other hs)) (by simp) rfl rfl rfl rfl rfl rfl
  · exact order_done_taken ht (by simp) hparams (.inl hplan) hbridge hentry
      (fun mm => (hblock mm).trans (clearMoverFault_refused hs hcause (by
        rw [← Bool.not_eq_true, faultClears_iff]
        exact hno))) (fun _ => ha) rfl rfl rfl rfl rfl rfl
  · have hclears := clearMoverFault_clears (n := n) (link := link) (head := head) ht.takes.quiet.agenda hs
      (faultClears_iff.2 hyes) hl
    have hdeck := moved_deckChange (m := m) (mo := (s.part.motion m).atRest (s.part.restCount m))
      (f := Mover.atRest (s.part.restCount m)) (.refl s.part)
    have hclaim : ((idled m (s.part.restCount m) s.part).claim (s.part.entryOfMover m)).holder = none := by
      rw [idled, moved_claim]
      exact hfree
    rw [show q = idled m (s.part.restCount m) s.part from hq]
    refine order_done_among (pre := []) ht (by simp) hparams (.inl hplan) hbridge hentry
      (fun mm => (hblock mm).trans hclears) (by simp) (by simp) (fun mm a hmem => ?_) (by simp) hdeck.lanes hdeck.writes
      ?_ hdeck.agenda hdeck.generation (by rw [hdeck.port])
    · rw [List.mem_singleton.1 hmem]
      obtain ⟨ws, ov, oc, fs, hends⟩ := orderEnds_leaves (n := n) (head := head) (k := .clearMoverFault)
        (params := [BitVec.ofNat 8 m.val])
        (r := moverShown .done m (s.part.mover m).position (s.part.restCount m))
        (q := takenPart n link head.standing (clearImage head m) (idled m (s.part.restCount m) s.part))
        (by rw [takenPart_lane_same]) rfl (by simp)
      refine ⟨by simp, steadyReport_free _ ?_⟩
      rw [hends]
      exact (congrArg Claim.holder (takenPart_claim ..)).trans hclaim
    · rw [idled, moved_eq]
      rfl

end Sys2Proof.Machine
end

section
/-! The control step of a mover that is no end of a pair (R38): the step's parts as changes of the one mover record. -/

namespace Sys2Proof.Machine

/-! ### The part with one mover's record and the reports made so far -/

/-- The part `p` with record `x` for mover `m`, where the event has asked for `acts` more. -/
def Part.withMover (p : Part) (m : MoverId) (x : Mover) (acts : List Act) : Part := (p.setMover m x).emit acts

section
variable {p : Part} {m : MoverId} {x y : Mover} {acts acts' : List Act}

@[simp] theorem withMover_mover : (p.withMover m x acts).mover m = x := Part.setMover_same p m x
@[simp] theorem withMover_motion : (p.withMover m x acts).motion m = x.motion := congrArg Mover.motion withMover_mover
@[simp] theorem withMover_partner (i : MoverId) : (p.withMover m x acts).partner i = p.partner i := rfl
@[simp] theorem withMover_ends (i : MoverId) : (p.withMover m x acts).ends i = p.ends i := rfl
@[simp] theorem withMover_profilePlan (i : MoverId) : (p.withMover m x acts).profilePlan i = p.profilePlan i := rfl
@[simp] theorem withMover_planMover (i : MoverId) : (p.withMover m x acts).planMover i = p.planMover i := rfl
@[simp] theorem withMover_entryOfMover (i : MoverId) : (p.withMover m x acts).entryOfMover i = p.entryOfMover i := rfl
@[simp] theorem withMover_station (i : StationId) : (p.withMover m x acts).station i = p.station i := rfl
@[simp] theorem withMover_reports (before after : MoverState) :
    moverReports m before after (p.withMover m x acts) = moverReports m before after p := rfl

@[simp] theorem withMover_setMover : (p.withMover m x acts).setMover m y = p.withMover m y acts := by
  simp [Part.withMover, Part.setMover, Part.emit]

@[simp] theorem withMover_emit : (p.withMover m x acts).emit acts' = p.withMover m x (acts ++ acts') := emit_emit ..

theorem setMover_withMover : (p.setMover m y).withMover m x acts = p.withMover m x acts := by
  rw [Part.withMover, Part.setMover_setMover]
  rfl

theorem withMover_nil : p.withMover m x [] = p.setMover m x := emit_nil _

variable (hp : p.partner m = none)
include hp

theorem withMover_setMotion (mo : Motion) :
    setMotion m mo (p.withMover m x acts) = p.withMover m { x with motion := mo } acts := by
  simp [setMotion, ends_single hp, forEach]

theorem withMover_mapEnds (f : Mover → Mover) : mapEnds m f (p.withMover m x acts) = p.withMover m (f x) acts := by
  simp [mapEnds, ends_single hp, forEach]

theorem withMover_restCount : (p.withMover m x acts).restCount m = (p.planMover m).clampPos x.position := by
  simp [Part.restCount, Part.restPosition, hp, profilePlan_single hp]

/-! ### Changes of state (R54, Table 2-6) -/

theorem withMover_moverTo {mo : Motion} (ending : Option Ending) (hw : x.motion.waiting = none) (hmo : mo.waiting = none) :
    moverTo m mo ending (p.withMover m x acts) =
      p.withMover m { x with motion := mo } (acts ++ moverReports m x.motion.state mo.state p) := by
  rw [moverTo_unwaited (by rw [withMover_motion, hw]) hmo, withMover_setMotion hp]
  simp

/-- The mover's record in LOCAL or FAULTED (R51, R52). -/
abbrev Mover.endsIn (state : MoverState) (cause : Option MoverCause) (x : Mover) : Mover :=
  { x with motion := endedIn state cause x.motion, valve := 0, endJudged := false }

theorem withMover_enterFault (cause : MoverCause) (hw : x.motion.waiting = none) (hs : x.motion.state ≠ .faulted) :
    enterFault m cause (p.withMover m x acts) =
      p.withMover m (x.endsIn .faulted (some cause)) (acts ++ moverReports m x.motion.state .faulted p) := by
  unfold enterFault
  simp only [withMover_motion, if_neg hs, withMover_mapEnds hp]
  exact withMover_moverTo hp (mo := x.motion.ended .faulted (some cause)) _ hw hw

theorem withMover_enterLocal (hw : x.motion.waiting = none) :
    enterLocal m (p.withMover m x acts) =
      p.withMover m (x.endsIn .localMode none) (acts ++ moverReports m x.motion.state .localMode p) := by
  unfold enterLocal
  simp only [withMover_motion, withMover_mapEnds hp]
  exact withMover_moverTo hp (mo := x.motion.ended .localMode none) _ hw hw

theorem withMover_enterIdle (ending : Option Ending) (hw : x.motion.waiting = none) :
    enterIdle m ending (p.withMover m x acts) =
      p.withMover m (idleAt ((p.planMover m).clampPos x.position) x) (acts ++ moverReports m x.motion.state .idle p) := by
  unfold enterIdle
  simp only [withMover_motion, withMover_mapEnds hp, withMover_restCount hp]
  exact withMover_moverTo hp _ hw hw

theorem withMover_enterSettling {mo : Motion} (t : Nat) (hw : x.motion.waiting = none) (hmo : mo.waiting = none)
    (hlimit : (p.planMover m).settleLimit ≠ 0) :
    enterSettling m mo t (p.withMover m x acts) =
      p.withMover m { x with motion := mo.settlingAt t (p.planMover m).settleLimit, sent := t, settleRun := 0 }
        (acts ++ moverReports m x.motion.state .settling p) := by
  unfold enterSettling
  simp only [withMover_profilePlan, profilePlan_single hp, if_neg hlimit, withMover_mapEnds hp]
  exact withMover_moverTo hp _ hw hmo

end

end Sys2Proof.Machine
end

section
/-! The steps of the control step of a mover that is no end of a pair, one by one (R38). -/

namespace Sys2Proof.Machine

/-- The mover's record keeps the reply `r`, whose poll had the brake released as `released` says, for its control step. -/
structure Mover.Hears (x : Mover) (r : MoverReply) (released : Bool) : Prop where
  step    : x.step = some { reply := some r, released := released }
  isLocal : x.localReported = r.localMode
  fault   : x.faultReported = r.stationFault

/-- The record of a mover whose station's reply is `r` (R38, step 1). -/
abbrev Mover.stores (x : Mover) (r : MoverReply) : Mover :=
  { x with position := r.position, brakeReleased := r.brakeReleased, toeBroken := r.toeBroken,
           localReported := r.localMode, faultReported := r.stationFault }

section
variable {p : Part} {m : MoverId} {x : Mover} {acts : List Act} {i : StepInput} {r : MoverReply} {released : Bool}

/-! ### The reply (step 1) -/

theorem storeReply_reply (hs : x.step = some { reply := some r, released := released }) :
    storeReply m (p.withMover m x acts) = p.withMover m (x.stores r) acts := by
  simp [storeReply, hs, Mover.stores]

theorem storeReply_miss (hs : x.step = some { reply := none, released := released }) :
    storeReply m (p.withMover m x acts) =
      p.withMover m { x with position := (p.station (moverStation m)).position } acts := by
  simp [storeReply, hs]

variable (hp : p.partner m = none)
include hp

theorem stepReplies_single (hs : x.step = some i) : (p.withMover m x acts).stepReplies m = i.reply.toList := by
  cases h : i.reply <;> simp [Part.stepReplies, ends_single hp, hs, h]

theorem anyLocal_single : (p.withMover m x acts).anyLocal m = x.localReported := by
  simp [Part.anyLocal, ends_single hp]

theorem anyStationFault_single : (p.withMover m x acts).anyStationFault m = x.faultReported := by
  simp [Part.anyStationFault, ends_single hp]

/-! ### Local mode and the station fault (step 2) -/

theorem stepLocal_stays (hs : x.step = some i)
    (h : x.motion.state = .faulted ∨ (x.motion.state = .localMode ∧ (i.reply = none ∨ x.localReported = true)) ∨
      (x.motion.state = .offline ∧ i.reply = none)) :
    stepLocal m (p.withMover m x acts) = (p.withMover m x acts, false) := by
  unfold stepLocal
  simp only [withMover_motion, stepReplies_single hp hs, anyLocal_single hp]
  rcases h with h | ⟨h, hi | hl⟩ | ⟨h, hi⟩
  · simp [h]
  · simp [h, hi]
  · simp [h, hl]
  · simp [h, hi]

theorem stepLocal_local (hr : x.Hears r released) (hw : x.motion.waiting = none) (hl : r.localMode = true)
    (hs : x.motion.state ≠ .faulted ∧ x.motion.state ≠ .localMode) (hst : (p.station (moverStation m)).state ≠ .unknown) :
    stepLocal m (p.withMover m x acts) =
      (p.withMover m (x.endsIn .localMode none) (acts ++ moverReports m x.motion.state .localMode p), false) := by
  unfold stepLocal
  rw [← withMover_enterLocal hp hw]
  simp only [withMover_motion, stepReplies_single hp hr.step, anyLocal_single hp, Part.allAnswered, withMover_ends,
    ends_single hp, hr.isLocal, hl]
  cases h : x.motion.state <;> simp_all

theorem stepLocal_fault (hr : x.Hears r released) (hw : x.motion.waiting = none) (hl : r.localMode = false)
    (hf : r.stationFault = true) (hs : x.motion.state ≠ .faulted) (hst : (p.station (moverStation m)).state ≠ .unknown) :
    stepLocal m (p.withMover m x acts) =
      (p.withMover m (x.endsIn .faulted (some .station)) (acts ++ moverReports m x.motion.state .faulted p), false) := by
  unfold stepLocal
  rw [← withMover_enterFault hp .station hw hs]
  simp only [withMover_motion, stepReplies_single hp hr.step, anyLocal_single hp, anyStationFault_single hp,
    Part.allAnswered, withMover_ends, ends_single hp, hr.isLocal, hr.fault, hl, hf]
  cases h : x.motion.state <;> simp_all

theorem stepLocal_clears (hr : x.Hears r released) (hw : x.motion.waiting = none) (hl : r.localMode = false)
    (hf : r.stationFault = false) (hs : x.motion.state = .offline ∨ x.motion.state = .localMode)
    (hst : (p.station (moverStation m)).state ≠ .unknown) :
    stepLocal m (p.withMover m x acts) =
      (p.withMover m (idleAt ((p.planMover m).clampPos x.position) x) (acts ++ moverReports m x.motion.state .idle p),
        true) := by
  unfold stepLocal
  rw [← withMover_enterIdle hp none hw]
  simp only [withMover_motion, stepReplies_single hp hr.step, anyLocal_single hp, anyStationFault_single hp,
    Part.allAnswered, withMover_ends, ends_single hp, hr.isLocal, hr.fault, hl, hf]
  rcases hs with h | h <;> simp [h, hst]

theorem stepLocal_goesOn (hs : x.step = some i) (hi : ∀ r, i.reply = some r → r.localMode = false ∧ r.stationFault = false)
    (h : x.motion.state ≠ .faulted ∧ x.motion.state ≠ .localMode ∧ x.motion.state ≠ .offline) :
    stepLocal m (p.withMover m x acts) = (p.withMover m x acts, true) := by
  have hnone : ∀ f : MoverReply → Bool, (∀ r, i.reply = some r → f r = false) → i.reply.toList.any f = false := by
    intro f hf
    cases hr : i.reply with
    | none => rfl
    | some r => simp [hf r hr]
  unfold stepLocal
  simp only [withMover_motion, stepReplies_single hp hs, hnone _ fun r hr => (hi r hr).1, hnone _ fun r hr => (hi r hr).2]
  cases hst : x.motion.state <;> simp_all

omit hp in
theorem stepPending_none (h : x.motion.state = .moving → x.motion.pending = none) :
    stepPending m (p.withMover m x acts) = p.withMover m x acts := by
  unfold stepPending
  simp only [withMover_motion]
  cases hst : x.motion.state <;> simp_all

/-! ### The brake (step 3) -/

/-- The brake of a mover in this motion is to be judged (R32, R49). -/
def Motion.judging (mo : Motion) : Bool := (mo.state == .releasing) || ((mo.state == .floating) && !mo.brakeJudged)

/-- The brake of a mover in this motion has to stay released (R52). -/
def Motion.holding (mo : Motion) : Bool :=
  (mo.state == .moving) || (mo.state == .stopping) || (mo.state == .settling) ||
    ((mo.state == .floating) && mo.brakeJudged)

/-- The reply in `i` judges the brake of a mover in motion `mo` (R32). -/
def StepInput.judges (i : StepInput) (mo : Motion) : Option Bool :=
  if mo.brakeTimer.isSome || !i.released then none else i.reply.map (fun r => r.brakeReleased)

omit hp in
theorem brakeJudgement_self (hs : x.step = some i) :
    (p.withMover m x acts).brakeJudgement m m = i.judges x.motion := by
  obtain ⟨reply, released⟩ := i
  unfold Part.brakeJudgement StepInput.judges
  rw [withMover_motion, withMover_mover, hs]
  cases x.motion.brakeTimer <;> cases reply <;> cases released <;> rfl

theorem stepBrake_engaged (hs : x.step = some i) (hw : x.motion.waiting = none)
    (h : (x.motion.judging = true ∧ i.judges x.motion = some false) ∨
      (x.motion.judging = false ∧ x.motion.holding = true ∧ ∃ r, i.reply = some r ∧ r.brakeReleased = false))
    (hst : x.motion.state ≠ .faulted) :
    stepBrake m (p.withMover m x acts) =
      p.withMover m (x.endsIn .faulted (some .brake)) (acts ++ moverReports m x.motion.state .faulted p) := by
  rw [← withMover_enterFault hp .brake hw hst]
  unfold stepBrake
  simp only [withMover_motion, withMover_ends, ends_single hp, stepReplies_single hp hs, List.any_cons, List.any_nil,
    brakeJudgement_self hs]
  change (if x.motion.judging = true then _ else if (x.motion.holding && _) = true then _ else _) = _
  rcases h with ⟨hj, hb⟩ | ⟨hj, hh, r, hr, hb⟩
  · simp [hj, hb]
  · simp [hj, hh, hr, hb]

theorem stepBrake_waits (hs : x.step = some i) (hj : x.motion.judging = true) (hb : i.judges x.motion = none)
    (he : x.endJudged = false) : stepBrake m (p.withMover m x acts) = p.withMover m x acts := by
  unfold stepBrake
  simp only [withMover_motion, withMover_ends, ends_single hp, stepReplies_single hp hs, List.any_cons, List.any_nil,
    brakeJudgement_self hs]
  change (if x.motion.judging = true then _ else _) = _
  simp [hj, hb, forEach, brakeJudgement_self hs, ends_single hp, he]

theorem stepBrake_judged (hs : x.step = some i) (hst : x.motion.state = .releasing) (hw : x.motion.waiting = none)
    (hb : i.judges x.motion = some true) :
    stepBrake m (p.withMover m x acts) = p.withMover m { x with
      endJudged := true,
      motion := { x.motion with state := .moving, phase := .accel, speed := 0, reversal := false, brakeJudged := true } }
        acts := by
  have hj : x.motion.judging = true := by simp [Motion.judging, hst]
  have hmoves := withMover_moverTo (x := { x with endJudged := true }) (acts := acts) hp none hw
    (mo := { x.motion with state := .moving, phase := .accel, speed := 0, reversal := false, brakeJudged := true }) hw
  rw [hst, show moverReports m .releasing .moving p = [] from rfl, List.append_nil] at hmoves
  unfold stepBrake
  simp only [withMover_motion, withMover_ends, ends_single hp, stepReplies_single hp hs, List.any_cons, List.any_nil,
    brakeJudgement_self hs]
  change (if x.motion.judging = true then _ else _) = _
  simp [hj, hb, forEach, brakeJudgement_self hs, ends_single hp, hst, hmoves]

theorem stepBrake_holds (hs : x.step = some i) (hj : x.motion.judging = false)
    (h : x.motion.holding = true → ∀ r, i.reply = some r → r.brakeReleased = true) :
    stepBrake m (p.withMover m x acts) = p.withMover m x acts := by
  unfold stepBrake
  simp only [withMover_motion, withMover_ends, ends_single hp, stepReplies_single hp hs]
  change (if x.motion.judging = true then _ else if (x.motion.holding && _) = true then _ else _) = _
  cases hh : x.motion.holding
  · simp [hj]
  · cases hr : i.reply with
    | none => simp [hj]
    | some r => simp [hj, h hh r hr]

/-! ### The toe beam (step 4) -/

/-- A mover in this motion is on its way down, or is about to be (R37). -/
def Motion.downward (mo : Motion) : Bool :=
  match mo.state, mo.target with
  | .releasing, some t => decide (256 * (t : Int) < mo.setpoint.getD 0)
  | .moving, _ => !mo.up
  | _, _ => false

/-- The reply in `i` shows the toe beam of a mover of this kind broken (R37). -/
def StepInput.breaksBeam (i : StepInput) (pm : PlanMover) : Bool :=
  i.reply.any (fun r => r.toeBroken) && (pm.kind != .panelEnd)

theorem stepToeBeam_eq (hs : x.step = some i) :
    stepToeBeam m (p.withMover m x acts) =
      if i.breaksBeam (p.planMover m) && x.motion.downward then moverStop m false (p.withMover m x acts)
      else p.withMover m x acts := by
  have hany : i.reply.toList.any (fun r => r.toeBroken) = i.reply.any (fun r => r.toeBroken) := by
    cases i.reply <;> simp
  unfold stepToeBeam
  simp only [withMover_motion, stepReplies_single hp hs, withMover_planMover, hany]
  rfl

/-! ### IDLE tracking and the float range (step 5) -/

theorem stepTrack_idle (h : x.motion.state = .idle) :
    stepTrack m (p.withMover m x acts) = p.withMover m (idleAt ((p.planMover m).clampPos x.position) x) acts := by
  unfold stepTrack
  simp only [withMover_motion, h, withMover_mapEnds hp, withMover_restCount hp, withMover_setMotion hp]
  rfl

theorem stepTrack_floats (hs : x.step = some i) (h : x.motion.state = .floating) (hr : i.reply = some r) :
    stepTrack m (p.withMover m x acts) = p.withMover m { x with motion := { x.motion with
      floatAlarm := decide (x.position < (p.planMover m).floatMin ∨ (p.planMover m).floatMax < x.position) } } acts := by
  unfold stepTrack
  simp only [withMover_motion, h, stepReplies_single hp hs, hr, withMover_setMotion hp]
  simp

theorem stepTrack_other (hs : x.step = some i) (h : x.motion.state ≠ .idle)
    (hf : x.motion.state = .floating → i.reply = none) : stepTrack m (p.withMover m x acts) = p.withMover m x acts := by
  unfold stepTrack
  simp only [withMover_motion, stepReplies_single hp hs]
  cases hst : x.motion.state <;> simp_all

/-! ### The profile (step 6) -/

/-- The mover runs its profile in this motion (R39). -/
def Motion.running (mo : Motion) : Bool := (mo.state == .moving) || (mo.state == .stopping)

theorem stepProfile_rests (h : x.motion.running = false) :
    stepProfile m (p.withMover m x acts) = (p.withMover m x acts, 0) := by
  have h' : ((x.motion.state == .moving) || (x.motion.state == .stopping)) = false := h
  unfold stepProfile
  simp [hp, h']

theorem stepProfile_runs (h : x.motion.running = true) (hset : ((p.planMover m).profile x.motion).settles = none) :
    stepProfile m (p.withMover m x acts) =
      (p.withMover m { x with
        motion := ((p.planMover m).profile x.motion).motion,
        sent := (roundQ8 (((p.planMover m).profile x.motion).motion.setpoint.getD 0)).toNat } acts,
      ((p.planMover m).profile x.motion).speed) := by
  have h' : ((x.motion.state == .moving) || (x.motion.state == .stopping)) = true := h
  unfold stepProfile
  simp [hp, h', profilePlan_single hp, hset, withMover_mapEnds hp, withMover_setMotion hp]

omit hp in
/-- The profile changes neither the state nor the waiting record. -/
theorem profile_keeps (pm : PlanMover) (mo : Motion) :
    (pm.profile mo).motion.state = mo.state ∧ (pm.profile mo).motion.waiting = mo.waiting := by
  have hw : mo.takeLatch.waiting = mo.waiting := by unfold Motion.takeLatch; split <;> rfl
  unfold PlanMover.profile
  dsimp only
  split_ifs <;> exact ⟨takeLatch_state, hw⟩

theorem stepProfile_settles {t : Nat} (h : x.motion.running = true) (hw : x.motion.waiting = none)
    (hset : ((p.planMover m).profile x.motion).settles = some t) (hlimit : (p.planMover m).settleLimit ≠ 0) :
    stepProfile m (p.withMover m x acts) =
      (p.withMover m { x with
        motion := ((p.planMover m).profile x.motion).motion.settlingAt t (p.planMover m).settleLimit,
        sent := t, settleRun := 0 } (acts ++ moverReports m x.motion.state .settling p), 0) := by
  have h' : ((x.motion.state == .moving) || (x.motion.state == .stopping)) = true := h
  have hsettles := withMover_enterSettling (acts := acts) hp (mo := ((p.planMover m).profile x.motion).motion) t hw
    ((profile_keeps ..).2.trans hw) hlimit
  unfold stepProfile
  simp [hp, h', profilePlan_single hp, hset, hsettles]

/-! ### The following and the settle test (step 7) -/

omit hp in
theorem stepTests_untested (ws : Bool) (h : x.motion.tested = false) :
    stepTests m ws (p.withMover m x acts) = p.withMover m x acts := by
  simp [stepTests, h]

/-- The settle run after a step with this error (R45). -/
def settleAfter (pm : PlanMover) (x : Mover) : Nat :=
  if ((x.sent : Int) - x.position).natAbs ≤ pm.etol then Nat.min 4 (x.settleRun + 1) else 0

/-- A tested mover: the eighth following error faults it; one that was SETTLING when the step began counts its settle run, and
the fourth ends its motion. -/
theorem stepTests_tested {ws : Bool} {follow settle : Nat} (h : x.motion.tested = true)
    (hfollow : followAfter (p.planMover m) x x.sent = follow) (hsettle : settleAfter (p.planMover m) x = settle) :
    stepTests m ws (p.withMover m x acts) =
      if follow = 8 then enterFault m .following (p.withMover m { x with followRun := follow } acts)
      else if (ws && (x.motion.state == .settling)) = true then
        (if settle = 4 then
          enterIdle m (some { code := .done, flags := 0, target := x.motion.target })
            (p.withMover m { x with followRun := follow, settleRun := settle } acts)
        else p.withMover m { x with followRun := follow, settleRun := settle } acts)
      else p.withMover m { x with followRun := follow } acts := by
  have hfollow' : (if decide ((p.planMover m).efollow < x.error.natAbs) then Nat.min 8 (x.followRun + 1) else 0) = follow := by
    simp only [decide_eq_true_eq]
    exact hfollow
  have hsettle' : (if decide (x.error.natAbs ≤ (p.planMover m).etol) then Nat.min 4 (x.settleRun + 1) else 0) = settle := by
    simp only [decide_eq_true_eq]
    exact hsettle
  have herror : ∀ n, Mover.error { x with followRun := n } = x.error := fun _ => rfl
  unfold stepTests
  simp only [withMover_motion, h, withMover_ends, ends_single hp, forEach, List.foldl_cons, List.foldl_nil,
    withMover_mover, withMover_planMover, withMover_setMover, hfollow', herror, hsettle', List.any_cons, List.any_nil,
    List.all_cons, List.all_nil, Bool.or_false, Bool.and_true, beq_iff_eq, Bool.not_true, Bool.false_eq_true, if_false]

theorem stepTests_within {ws : Bool} (h : x.motion.tested = true) (hf : followAfter (p.planMover m) x x.sent < 8)
    (hn : ws = false ∨ x.motion.state ≠ .settling) :
    stepTests m ws (p.withMover m x acts) =
      p.withMover m { x with followRun := followAfter (p.planMover m) x x.sent } acts := by
  rw [stepTests_tested hp h rfl rfl, if_neg (Nat.ne_of_lt hf), if_neg]
  rcases hn with rfl | hn
  · simp
  · simp [hn]

theorem stepTests_follows {ws : Bool} (h : x.motion.tested = true) (hf : followAfter (p.planMover m) x x.sent = 8)
    (hw : x.motion.waiting = none) :
    stepTests m ws (p.withMover m x acts) =
      p.withMover m (Mover.endsIn .faulted (some .following) { x with followRun := followAfter (p.planMover m) x x.sent })
        (acts ++ moverReports m x.motion.state .faulted p) := by
  have hst : x.motion.state ≠ .faulted := fun e => by simp [Motion.tested, e] at h
  rw [stepTests_tested hp h rfl rfl, if_pos hf]
  exact withMover_enterFault hp .following hw hst

theorem stepTests_settling (h : x.motion.state = .settling) (hf : followAfter (p.planMover m) x x.sent < 8)
    (hw : x.motion.waiting = none) :
    stepTests m true (p.withMover m x acts) =
      if settleAfter (p.planMover m) x = 4 then
        p.withMover m (idleAt ((p.planMover m).clampPos x.position) { x with
          followRun := followAfter (p.planMover m) x x.sent, settleRun := settleAfter (p.planMover m) x })
          (acts ++ moverReports m .settling .idle p)
      else p.withMover m { x with
        followRun := followAfter (p.planMover m) x x.sent, settleRun := settleAfter (p.planMover m) x } acts := by
  have ht : x.motion.tested = true := by simp [Motion.tested, h]
  have hidle := withMover_enterIdle (acts := acts) hp (some { code := .done, flags := 0, target := x.motion.target })
    (x := { x with
      followRun := followAfter (p.planMover m) x x.sent, settleRun := settleAfter (p.planMover m) x }) hw
  rw [stepTests_tested hp ht rfl rfl, if_neg (Nat.ne_of_lt hf), if_pos (by simp [h]), hidle, h]

/-! ### The valve (step 8) -/

theorem stepValve_eq (speed : Nat) : stepValve m speed (p.withMover m x acts) = p.withMover m { x with
    valve := if x.motion.tested then (p.planMover m).valveOf ((x.sent : Int) - x.position) x.motion.up
      (if x.motion.state = .settling then 0 else speed) else 0 } acts := by
  simp [stepValve, ends_single hp, forEach, Mover.error]

end

end Sys2Proof.Machine
end

section
/-! The control step of a mover that is no end of a pair, as a whole, and the end of its event (R38, R54, R154). -/

namespace Sys2Proof.Machine

/-! ### Steps 5 to 8 -/

/-- The control step from the position tracking on (R38, steps 5 to 8). -/
def restOfStep (m : MoverId) (wasSettling : Bool) (p : Part) : Part :=
  stepValve m (stepProfile m (stepTrack m p)).2 (stepTests m wasSettling (stepProfile m (stepTrack m p)).1)

theorem running_of_untested {mo : Motion} (h : mo.tested = false) : mo.running = false := by
  simp only [Motion.tested, Bool.or_eq_false_iff] at h
  simp [Motion.running, h]

theorem tested_of_running {mo : Motion} (h : mo.running = true) : mo.tested = true := by
  cases ht : mo.tested with
  | true => rfl
  | false => rw [running_of_untested ht] at h; cases h

theorem running_states {mo : Motion} (h : mo.running = true) : mo.state = .moving ∨ mo.state = .stopping := by
  simpa [Motion.running] using h

section
variable {p : Part} {m : MoverId} {x : Mover} {acts : List Act} {i : StepInput} {r : MoverReply} {ws : Bool}
variable (hp : p.partner m = none)
include hp

theorem restOfStep_of {p0 : Part} {a b d : Mover} {as bs ds : List Act} {speed : Nat}
    (htrack : stepTrack m p0 = p.withMover m a as)
    (hprofile : stepProfile m (p.withMover m a as) = (p.withMover m b bs, speed))
    (htests : stepTests m ws (p.withMover m b bs) = p.withMover m d ds) :
    restOfStep m ws p0 = p.withMover m { d with
      valve := if d.motion.tested then (p.planMover m).valveOf ((d.sent : Int) - d.position) d.motion.up
        (if d.motion.state = .settling then 0 else speed) else 0 } ds := by
  rw [restOfStep, htrack, hprofile, htests, stepValve_eq hp]

/-- A mover whose error is not tested has the valve command 0. -/
theorem restOfStep_untested {p0 : Part} {a : Mover} {as : List Act} (htrack : stepTrack m p0 = p.withMover m a as)
    (h : a.motion.tested = false) : restOfStep m ws p0 = p.withMover m { a with valve := 0 } as := by
  rw [restOfStep_of hp htrack (stepProfile_rests hp (running_of_untested h)) (stepTests_untested _ h),
    if_neg (by simp [h])]

theorem restOfStep_still (hs : x.step = some i) (h : x.motion.tested = false) (hidle : x.motion.state ≠ .idle)
    (hf : x.motion.state = .floating → i.reply = none) :
    restOfStep m ws (p.withMover m x acts) = p.withMover m { x with valve := 0 } acts :=
  restOfStep_untested hp (stepTrack_other hp hs hidle hf) h

theorem restOfStep_idle (h : x.motion.state = .idle) :
    restOfStep m ws (p.withMover m x acts) =
      p.withMover m (idleAt ((p.planMover m).clampPos x.position) x) acts :=
  restOfStep_untested hp (stepTrack_idle hp h) rfl

theorem restOfStep_floats (hs : x.step = some i) (h : x.motion.state = .floating) (hr : i.reply = some r) :
    restOfStep m ws (p.withMover m x acts) = p.withMover m { x with valve := 0, motion := { x.motion with
      floatAlarm := decide (x.position < (p.planMover m).floatMin ∨ (p.planMover m).floatMax < x.position) } } acts :=
  restOfStep_untested hp (stepTrack_floats hp hs h hr) (by simp [Motion.tested, h])

/-- The mover's record after a run of the profile that goes on (R41, R44). -/
abbrev Mover.runs (pm : PlanMover) (x : Mover) (sent : Nat) : Mover :=
  { x with motion := (pm.profile x.motion).motion, sent := sent, followRun := followAfter pm x sent }

theorem stepTrack_tested (hs : x.step = some i) (h : x.motion.tested = true) :
    stepTrack m (p.withMover m x acts) = p.withMover m x acts := by
  refine stepTrack_other hp hs (fun e => ?_) fun e => ?_
  · simp [Motion.tested, e] at h
  · simp [Motion.tested, e] at h

section
variable {sent : Nat} (hs : x.step = some i) (h : x.motion.running = true)
  (hset : ((p.planMover m).profile x.motion).settles = none)
  (hsent : sent = (roundQ8 (((p.planMover m).profile x.motion).motion.setpoint.getD 0)).toNat)
include hs h hset hsent

theorem restOfStep_runs (hf : followAfter (p.planMover m) x sent < 8) :
    restOfStep m ws (p.withMover m x acts) = p.withMover m { x.runs (p.planMover m) sent with
      valve := (p.planMover m).valveOf ((sent : Int) - x.position) ((p.planMover m).profile x.motion).motion.up
        ((p.planMover m).profile x.motion).speed } acts := by
  have hrun : ((p.planMover m).profile x.motion).motion.running = true := by
    rw [Motion.running, (profile_keeps ..).1]
    exact h
  have hns : ((p.planMover m).profile x.motion).motion.state ≠ .settling := fun e => by simp [Motion.running, e] at hrun
  subst hsent
  rw [restOfStep_of hp (stepTrack_tested hp hs (tested_of_running h)) (stepProfile_runs hp h hset)
    (stepTests_within hp (tested_of_running hrun) hf (.inr hns)), if_pos (tested_of_running hrun), if_neg hns]
  rfl

theorem restOfStep_follows (hw : x.motion.waiting = none) (hf : followAfter (p.planMover m) x sent = 8) :
    restOfStep m ws (p.withMover m x acts) =
      p.withMover m ((x.runs (p.planMover m) sent).endsIn .faulted (some .following))
        (acts ++ moverReports m x.motion.state .faulted p) := by
  obtain ⟨hstate, hwaiting⟩ := profile_keeps (p.planMover m) x.motion
  have hrun : ((p.planMover m).profile x.motion).motion.running = true := by
    rw [Motion.running, hstate]
    exact h
  subst hsent
  rw [restOfStep_of hp (stepTrack_tested hp hs (tested_of_running h)) (stepProfile_runs hp h hset)
    (stepTests_follows hp (tested_of_running hrun) hf (hwaiting.trans hw)), if_neg (by simp [Motion.tested, endedIn]), hstate]
  rfl

end

theorem restOfStep_settles {t : Nat} (hs : x.step = some i) (h : x.motion.running = true) (hw : x.motion.waiting = none)
    (hset : ((p.planMover m).profile x.motion).settles = some t) (hlimit : (p.planMover m).settleLimit ≠ 0)
    (hf : followAfter (p.planMover m) x t < 8) :
    restOfStep m false (p.withMover m x acts) = p.withMover m { x with
      motion := ((p.planMover m).profile x.motion).motion.settlingAt t (p.planMover m).settleLimit,
      sent := t, settleRun := 0, followRun := followAfter (p.planMover m) x t,
      valve := (p.planMover m).valveOf ((t : Int) - x.position) ((p.planMover m).profile x.motion).motion.up 0 }
        (acts ++ moverReports m x.motion.state .settling p) := by
  rw [restOfStep_of hp (stepTrack_tested hp hs (tested_of_running h)) (stepProfile_settles hp h hw hset hlimit)
    (stepTests_within hp rfl hf (.inl rfl))]
  rfl

theorem restOfStep_settling (hs : x.step = some i) (h : x.motion.state = .settling) (hw : x.motion.waiting = none)
    (hf : followAfter (p.planMover m) x x.sent < 8) :
    restOfStep m true (p.withMover m x acts) =
      if settleAfter (p.planMover m) x = 4 then
        p.withMover m (idleAt ((p.planMover m).clampPos x.position) { x with
          followRun := followAfter (p.planMover m) x x.sent, settleRun := settleAfter (p.planMover m) x })
          (acts ++ moverReports m .settling .idle p)
      else p.withMover m { x with
        followRun := followAfter (p.planMover m) x x.sent, settleRun := settleAfter (p.planMover m) x,
        valve := (p.planMover m).valveOf ((x.sent : Int) - x.position) x.motion.up 0 } acts := by
  have ht : x.motion.tested = true := by simp [Motion.tested, h]
  have htests := stepTests_settling (acts := acts) hp h hf hw
  have hprofile := stepProfile_rests (acts := acts) hp (x := x) (by simp [Motion.running, h])
  have htrack := stepTrack_tested (acts := acts) hp hs ht
  split at htests
  · rw [restOfStep_of hp htrack hprofile htests, if_neg (by simp [Motion.tested, idleAt]), if_pos ‹_›]
    rfl
  · rw [restOfStep_of hp htrack hprofile htests, if_pos ht, if_pos h, if_neg ‹_›]

end

/-! ### The step as a whole -/

/-- The control step of a mover that has stored its reply (R38, steps 2 to 8). -/
def controlFrom (m : MoverId) (p : Part) : Part :=
  mapEnds m (fun x => { x with step := none })
    (if (stepLocal m p).2 then
      restOfStep m ((p.motion m).state == .settling)
        (stepToeBeam m (stepBrake m (stepPending m (stepLocal m p).1)))
    else (stepLocal m p).1)

theorem controlStep_eq (m : MoverId) (p : Part) : controlStep m p =
    mapEnds m (fun x => { x with step := none })
      (if (stepLocal m (forEach (p.ends m) storeReply p)).2 then
        restOfStep m ((p.motion m).state == .settling)
          (stepToeBeam m (stepBrake m (stepPending m (stepLocal m (forEach (p.ends m) storeReply p)).1)))
      else (stepLocal m (forEach (p.ends m) storeReply p)).1) := by
  unfold controlStep
  dsimp only
  generalize stepLocal m (forEach (p.ends m) storeReply p) = l
  obtain ⟨p2, goesOn⟩ := l
  dsimp only
  generalize stepToeBeam m (stepBrake m (stepPending m p2)) = p3
  unfold restOfStep
  generalize stepProfile m (stepTrack m p3) = run
  rfl

/-- The mover's record with the input of its control step. -/
abbrev Mover.inStep (x : Mover) (i : StepInput) : Mover := { x with step := some i }

section
variable {p : Part} {m : MoverId} {x y z w : Mover} {i : StepInput} {as bs cs : List Act}
variable (hp : p.partner m = none)
include hp

theorem controlStep_stored {x0 : Mover} (hstore : storeReply m (p.withMover m x0 []) = p.withMover m x [])
    (hmotion : x0.motion = x.motion) : controlStep m (p.withMover m x0 []) = controlFrom m (p.withMover m x []) := by
  rw [controlStep_eq, controlFrom, withMover_ends, ends_single hp, forEach_cons, forEach_nil, hstore, withMover_motion,
    withMover_motion, hmotion]

variable (hstep : x.step = none)
include hstep

theorem controlFrom_ends (hl : stepLocal m (p.withMover m (x.inStep i) []) = (p.withMover m y as, false)) :
    controlFrom m (p.withMover m (x.inStep i) []) = p.withMover m { y with step := x.step } as := by
  rw [controlFrom, hl, if_neg Bool.false_ne_true, withMover_mapEnds hp, hstep]

theorem controlFrom_goesOn (hl : stepLocal m (p.withMover m (x.inStep i) []) = (p.withMover m y as, true))
    (hbrake : stepToeBeam m (stepBrake m (stepPending m (p.withMover m y as))) = p.withMover m z bs)
    (hrest : restOfStep m (x.motion.state == .settling) (p.withMover m z bs) = p.withMover m w cs) :
    controlFrom m (p.withMover m (x.inStep i) []) = p.withMover m { w with step := x.step } cs := by
  rw [controlFrom, hl, if_pos rfl, withMover_motion, hbrake, hrest, withMover_mapEnds hp, hstep]

end

/-! ### The end of the event (R54, R154) -/

section
variable {s : State} {c : Instr} {f : Part → Part} {q : Part} {m : MoverId} {x : Mover} {acts : List Act}

/-- The reports of a change to a steady state: the steady report is the last. -/
theorem moverReports_steady {before after : MoverState} (h : before ≠ after) (hs : after.steady = true) :
    ∃ pre, moverReports m before after q = pre ++ [.steadyReport (q.entryOfMover m)] ∧ pre.length ≤ 2 ∧
      ∀ a ∈ pre, a = .moversClear (q.moverZone m) ∨ a = .faultReport (q.entryOfMover m) := by
  refine ⟨_, by rw [moverReports, if_pos (⟨h, hs⟩ : before ≠ after ∧ _)], ?_, fun a ha => ?_⟩
  · split <;> split <;> simp
  · rcases List.mem_append.1 ha with ha | ha
    · split at ha
      · cases ha
      · exact .inl (List.mem_singleton.1 ha)
    · split at ha
      · exact .inr (List.mem_singleton.1 ha)
      · cases ha

/-- A change to a state that is not steady reports at most that the movers of the zone may be clear. -/
theorem moverReports_unsteady {before after : MoverState} (h : after.steady = false) :
    ∀ a ∈ moverReports m before after q, a = .moversClear (q.moverZone m) := by
  intro a ha
  have hf : ¬ (before ≠ after ∧ (after = .faulted ∨ after = .localMode)) := by
    rintro ⟨-, rfl | rfl⟩ <;> cases h
  have hs : ¬ (before ≠ after ∧ after.steady = true) := fun e => by rw [h] at e; cases e.2
  rw [moverReports, if_neg hf, if_neg hs, List.append_nil, List.append_nil] at ha
  split at ha
  · cases ha
  · exact List.mem_singleton.1 ha

theorem entryOfMover_single (h : q.partner m = none) : q.entryOfMover m = moverEntry m := by
  rw [Part.entryOfMover, leader_single h]

theorem moverReports_length (before after : MoverState) : (moverReports m before after q).length ≤ 3 := by
  unfold moverReports
  split_ifs <;> simp

/-- Command `c` runs `f`, which comes to a change of the mover `m` in the deck `q`, where the mover acts alone. -/
structure State.MovesAlone (s : State) (c : Instr) (f : Part → Part) (q : Part) (m : MoverId) : Prop where
  quiet : s.Quiet
  runs  : exec c s = .next (runLocal f s)
  deck  : s.part.DeckChange q
  alone : actsAlone q m

theorem setMover_deckChange {p : Part} (h : s.part.DeckChange p) : s.part.DeckChange (p.setMover m x) :=
  ⟨h.agenda, h.writes, h.lanes, h.generation, h.port⟩

/-- No report concerns the mover's claim: it stays as it is. -/
theorem State.MovesAlone.stays (h : s.MovesAlone c f q m) (hf : f s.part = q.withMover m x acts)
    (hacts : ∀ a ∈ acts, a = .moversClear (q.moverZone m)) (hlen : acts.length ≤ 3) :
    s.Leads c (q.setMover m x) := by
  refine ⟨_, h.runs, ran_of_idle_acts h.quiet hf (fun mm a ha => ?_) (by omega) (setMover_deckChange h.deck)⟩
  rw [hacts a ha]
  exact ⟨by simp, moversClear_noWaitClear (p := q.setMover m x) _ h.alone.doors⟩

/-- The event in which an actuator comes to rest: a lane's implicit claim of it is given back (R154). -/
theorem ran_of_steady {y : Part} {pre : List Act} {e : EntryId} {n : Lane} (h : s.Quiet)
    (hf : f s.part = y.emit (pre ++ [.steadyReport e])) (hpre : ∀ mm, ∀ a ∈ pre, a ≠ .arbitrate ∧ perform mm a y = y)
    (hlen : pre.length ≤ 60000) (hclaim : y.claim e = implicitOf n) (hsteady : y.steady e = true) (hw : y.waiters = [])
    (hdeck : s.part.DeckChange y) : s.Ran (runLocal f s) (y.setClaim e Claim.free) := by
  have hya : y.agenda = [] := hdeck.agenda.trans h.agenda
  have hlane : ∀ n, (y.setClaim e Claim.free).lane n = s.part.lane n := fun n => by
    rw [Part.lane, Part.setClaim_lanes, hdeck.lanes]
    rfl
  refine ran_of_drain (f := fun _ => f) h ?_ hya (hdeck.writes.trans h.settled.1)
    (fun n => by rw [hlane]; exact ⟨rfl, rfl, rfl⟩) hdeck.generation (by rw [Part.setClaim_port, hdeck.port])
  rw [hf, show Config.agendaBound = 65536 - pre.length - 2 + 2 + pre.length by simp only [Config.agendaBound]; omega,
    drain_idle hya (hpre _), drain_steady hya hclaim hsteady hw]

/-- A mover whose claim no group holds gives it back with its steady report (R154). -/
theorem State.MovesAlone.rests {before : MoverState} (h : s.MovesAlone c f q m)
    (hf : f s.part = q.withMover m x (moverReports m before x.motion.state q)) (hne : before ≠ x.motion.state)
    (hs : x.motion.state.steady = true) : s.Leads c (restsFree q m x) := by
  obtain ⟨pre, hpre, hlen, hmem⟩ := moverReports_steady (m := m) (q := q) hne hs
  have hentry := entryOfMover_single h.alone.partner
  rw [hpre, hentry, Part.withMover] at hf
  rw [hentry] at hmem
  have hidle : faultReport (moverEntry m) (q.setMover m x) = q.setMover m x → ∀ (mm : List Host.Cell), ∀ a ∈ pre,
      a ≠ .arbitrate ∧ perform mm a (q.setMover m x) = q.setMover m x := fun hfault mm a ha => by
    rcases hmem a ha with rfl | rfl
    · exact ⟨by simp, moversClear_noWaitClear (p := q.setMover m x) _ h.alone.doors⟩
    · exact ⟨by simp, hfault⟩
  have hdeck := setMover_deckChange (m := m) (x := x) h.deck
  refine ⟨_, h.runs, ?_⟩
  rcases h.alone.claim with hfree | ⟨n, himplicit⟩
  · have hholder : ((q.setMover m x).claim (moverEntry m)).holder = none := congrArg Claim.holder hfree
    have hsame : restsFree q m x = q.setMover m x := by
      rw [restsFree, ← show (q.setMover m x).claim (moverEntry m) = Claim.free from hfree, Part.setClaim_self]
    rw [hsame]
    refine ran_of_idle_acts h.quiet hf (fun mm a ha => ?_) (by simp; omega) hdeck
    rcases List.mem_append.1 ha with ha | ha
    · exact hidle (faultReport_free _ hholder) mm a ha
    · rw [List.mem_singleton.1 ha]
      exact ⟨by simp, steadyReport_free _ hholder⟩
  · have hclaim : (q.setMover m x).claim (moverEntry m) = implicitOf n := himplicit
    have hfault : faultReport (moverEntry m) (q.setMover m x) = q.setMover m x := by
      unfold faultReport
      simp [hclaim, implicitOf, Claim.inNest]
    refine ran_of_steady h.quiet hf (hidle hfault) (by omega) hclaim ?_ h.alone.waiters hdeck
    rw [← hentry]
    exact (steady_entryOfMover (q.setMover m x) m).trans (by
      rw [Part.setMover_leader', leader_single h.alone.partner, Part.setMover_same]
      exact hs)

end

end Sys2Proof.Machine
end

section
/-! What a control step comes to for a mover that is no end of a pair, by its state (R32, R37, R39 to R45, R49 to R52). -/

namespace Sys2Proof.Machine

/-- Command `c` runs the control step of the mover `m` alone, whose record is `x` and whose input is `i`, in the deck `q`. -/
structure State.StepsAlone (s : State) (c : Instr) (f : Part → Part) (q : Part) (m : MoverId) (x : Mover) (i : StepInput) :
    Prop extends s.MovesAlone c f q m where
  control : f s.part = controlFrom m (q.withMover m (x.inStep i) [])
  step    : x.step = none
  waiting : x.motion.waiting = none

/-! ### Brake and toe beam (steps 2 to 4) where nothing is to be done -/

theorem Motion.downward_other {mo : Motion} (hr : mo.state ≠ .releasing) (hm : mo.state ≠ .moving) : mo.downward = false := by
  unfold Motion.downward
  cases h : mo.state with
  | releasing => exact absurd h hr
  | moving => exact absurd h hm
  | offline | idle | stopping | settling | floating | localMode | faulted => rfl

theorem StepInput.breaksBeam_miss (pm : PlanMover) (released : Bool) :
    StepInput.breaksBeam { reply := none, released := released } pm = false := rfl

theorem StepInput.judges_miss (mo : Motion) (released : Bool) :
    StepInput.judges { reply := none, released := released } mo = none := by
  simp [StepInput.judges]

/-- Only RELEASING, and FLOATING until it is judged, have the brake judged (R32, R49). -/
theorem Motion.judging_other {mo : Motion} (hr : mo.state ≠ .releasing) (hf : mo.state = .floating → mo.brakeJudged = true) :
    mo.judging = false := by
  unfold Motion.judging
  cases h : mo.state with
  | releasing => exact absurd h hr
  | floating => simp [hf h]
  | offline | idle | moving | stopping | settling | localMode | faulted => rfl

section
variable {p : Part} {m : MoverId} {y z : Mover} {i : StepInput} {as bs : List Act}

theorem beforeTrack_of (hp : p.partner m = none) (hpend : y.motion.state = .moving → y.motion.pending = none)
    (hbrake : stepBrake m (p.withMover m y as) = p.withMover m z bs) (hz : z.step = some i)
    (htoe : i.breaksBeam (p.planMover m) = false ∨ z.motion.downward = false) :
    stepToeBeam m (stepBrake m (stepPending m (p.withMover m y as))) = p.withMover m z bs := by
  rw [stepPending_none hpend, hbrake, stepToeBeam_eq hp hz, if_neg]
  rcases htoe with h | h <;> simp [h]

theorem withMover_moverStop_releasing (hp : p.partner m = none) (byZone : Bool) (hs : y.motion.state = .releasing)
    (hw : y.motion.waiting = none) (hst : (p.claim (p.entryOfMover m)).status ≠ .underWay) :
    moverStop m byZone (p.withMover m y as) =
      p.withMover m (idleAt ((p.planMover m).clampPos y.position) y) (as ++ moverReports m .releasing .idle p) := by
  unfold moverStop
  simp only [withMover_motion, hs, withMover_entryOfMover, endReturn_idle (p := p.withMover m y as) _ hst]
  rw [withMover_enterIdle hp _ hw, hs]

theorem withMover_moverStop_moving (hp : p.partner m = none) (byZone : Bool) (hs : y.motion.state = .moving)
    (hw : y.motion.waiting = none) (hst : (p.claim (p.entryOfMover m)).status ≠ .underWay) :
    moverStop m byZone (p.withMover m y as) = p.withMover m { y with motion := y.motion.stopping } as := by
  rw [moverStop_moving (p := p.withMover m y as) byZone (by rw [withMover_motion, hs]) (by rw [withMover_motion, hw]) hst,
    withMover_setMotion hp, withMover_motion]

theorem Motion.stopping_of_pending {mo : Motion} (h : mo.pending = none) :
    mo.stopping = { mo with state := .stopping, stopLatch := true } := by
  cases mo
  cases h
  rfl

end

section
variable {s : State} {c : Instr} {f : Part → Part} {q : Part} {m : MoverId} {x : Mover} {i : StepInput} {mo : Motion}
  {judged : Bool}

/-! ### The profile and the tests (steps 6 and 7) -/

/-- R39 to R42, R44: the rest of a control step that runs the profile. -/
theorem State.StepsAlone.profileActs (h : s.StepsAlone c f q m x i)
    (hlocal : stepLocal m (q.withMover m (x.inStep i) []) = (q.withMover m (x.inStep i) [], true))
    (hbefore : stepToeBeam m (stepBrake m (stepPending m (q.withMover m (x.inStep i) []))) =
      q.withMover m { x.inStep i with motion := mo, endJudged := judged } [])
    (hrun : mo.running = true) (hw : mo.waiting = none) (hns : x.motion.state ≠ .settling) :
    profileStepActs s c q m x (q.planMover m) mo judged := by
  have hp := h.alone.partner
  refine ⟨fun sent y hset hsent hy => ⟨fun hf => ?_, fun hf => ?_⟩, fun count hset hlimit hf => ?_⟩
  · subst hy
    exact h.stays (h.control.trans (controlFrom_goesOn hp h.step hlocal hbefore
      (restOfStep_runs hp rfl hrun hset hsent hf))) (by simp) (by simp)
  · subst hy
    refine h.rests (before := mo.state) (h.control.trans (controlFrom_goesOn hp h.step hlocal hbefore
      (restOfStep_follows hp rfl hrun hset hsent hw hf))) ?_ rfl
    rintro e
    rcases running_states hrun with hs | hs
    · cases hs.symm.trans e
    · cases hs.symm.trans e
  · have hrest := restOfStep_settles (acts := []) hp (x := { x.inStep i with motion := mo, endJudged := judged }) rfl hrun hw
      hset hlimit hf
    rw [← beq_eq_false_iff_ne.2 hns] at hrest
    exact h.stays (h.control.trans (controlFrom_goesOn hp h.step hlocal hbefore hrest)) (moverReports_unsteady rfl)
      (moverReports_length mo.state .settling)

/-- R42, R44, R45: the same in SETTLING. -/
theorem State.StepsAlone.settleActs (h : s.StepsAlone c f q m x i)
    (hlocal : stepLocal m (q.withMover m (x.inStep i) []) = (q.withMover m (x.inStep i) [], true))
    (hbefore : stepToeBeam m (stepBrake m (stepPending m (q.withMover m (x.inStep i) []))) =
      q.withMover m (x.inStep i) []) (hst : x.motion.state = .settling) :
    settleStepActs s c q m x (q.planMover m) := by
  have hp := h.alone.partner
  intro run y hf hrun hy
  subst hy
  have hrest := restOfStep_settling (acts := []) hp (x := x.inStep i) rfl hst h.waiting hf
  rw [show settleAfter (q.planMover m) (x.inStep i) = run from hrun.symm, ← beq_iff_eq.2 hst] at hrest
  refine ⟨fun hlt => ?_, fun heq => ?_⟩
  · rw [if_neg (Nat.ne_of_lt hlt)] at hrest
    exact h.stays (h.control.trans (controlFrom_goesOn hp h.step hlocal hbefore hrest)) (by simp) (by simp)
  · rw [if_pos heq] at hrest
    exact h.rests (before := .settling) (h.control.trans (controlFrom_goesOn hp h.step hlocal hbefore hrest)) (by
      simp [idleAt]) rfl

/-! ### The other states -/

/-- IDLE follows the position (R28). -/
theorem State.StepsAlone.idles (h : s.StepsAlone c f q m x i)
    (hlocal : stepLocal m (q.withMover m (x.inStep i) []) = (q.withMover m (x.inStep i) [], true))
    (hst : x.motion.state = .idle) : s.Leads c (q.setMover m (idleAt ((q.planMover m).clampPos x.position) x)) := by
  have hp := h.alone.partner
  have hother : ∀ st : MoverState, x.motion.state = st → st = .idle := fun st e => by rw [← e, hst]
  refine h.stays (acts := []) (h.control.trans (controlFrom_goesOn hp h.step hlocal
    (beforeTrack_of hp (i := i) (fun e => absurd (hother _ e) (by simp))
      (stepBrake_holds hp rfl (Motion.judging_other (by simp [hst]) (by simp [hst])) (by simp [Motion.holding, hst])) rfl
      (.inr (Motion.downward_other (by simp [hst]) (by simp [hst])))) (restOfStep_idle hp hst))) (by simp) (by simp)

/-- A mover whose brake is still to be judged, with a beam that stops nothing, waits for another step (R32). -/
theorem State.StepsAlone.waits (h : s.StepsAlone c f q m x i)
    (hlocal : stepLocal m (q.withMover m (x.inStep i) []) = (q.withMover m (x.inStep i) [], true))
    (hbefore : stepToeBeam m (stepBrake m (stepPending m (q.withMover m (x.inStep i) []))) =
      q.withMover m (x.inStep i) [])
    (hst : x.motion.state = .releasing ∨ (x.motion.state = .floating ∧ i.reply = none)) :
    s.Leads c (q.setMover m { x with valve := 0 }) := by
  have hp := h.alone.partner
  refine h.stays (acts := []) (h.control.trans (controlFrom_goesOn hp h.step hlocal hbefore
    (restOfStep_still hp rfl ?_ ?_ ?_))) (by simp) (by simp)
  · rcases hst with e | ⟨e, -⟩ <;> simp [Motion.tested, e]
  · rcases hst with e | ⟨e, -⟩ <;> simp [e]
  · rcases hst with e | ⟨e, hi⟩
    · simp [e]
    · exact fun _ => hi

end

end Sys2Proof.Machine
end

section
/-! The exchange of a mover's station (R38, R46, R172, R175, R176) and the mover's timers (R32, R45). -/

namespace Sys2Proof.Machine

theorem ownerOf_moverStation (m : MoverId) : ownerOf (moverStation m) = .mover m := by
  unfold ownerOf moverStation
  rw [dif_pos m.isLt]

theorem replyLength_moverStation (m : MoverId) : replyLength (moverStation m) = 6 := by
  rw [replyLength, ownerOf_moverStation]

theorem missLimit_moverStation (m : MoverId) : missLimit (moverStation m) = 3 := by
  rw [missLimit, ownerOf_moverStation]

section
variable {s : State} {m : MoverId} {released : Bool} {bytes : List Byte}

/-! ### A reply -/

/-- The fields of a mover's reply are in its frame. -/
theorem moverReplyOf_take (bytes : List Byte) :
    byteAt (bytes.take 6) 1 = byteAt bytes 1 ∧ moverReplyOf (bytes.take 6) = moverReplyOf bytes := by
  simp [moverReplyOf, halfAt, byteAt, List.getD]

/-- A whole valid reply of a mover's station reaches the mover. -/
theorem replyBytes_mover (h : s.Answers (moverStation m) released bytes) :
    replyBytes bytes s.part =
      moverInput m { reply := some (moverReplyOf bytes), released := released } (s.part.otherEndDue m)
        (s.part.stationHeard (moverStation m) (byteAt bytes 1) (moverReplyOf bytes).position) := by
  have hwhole := h.whole
  have hvalid := h.valid
  rw [replyLength_moverStation] at hwhole hvalid
  obtain ⟨hbyte, hreply⟩ := moverReplyOf_take bytes
  have hposition : (halfAt (bytes.take 6) 2).toNat = (moverReplyOf bytes).position := by rw [← hreply]; rfl
  unfold replyBytes completeExchange
  rw [h.exchange]
  dsimp only
  rw [replyLength_moverStation, if_neg (by omega), Option.filter_some, hvalid]
  simp only [if_true, ownerOf_moverStation, deliverReply, hbyte, hreply, hposition, Bool.false_eq_true, if_false]
  rfl

/-- R46: the other end's exchange is still to come. -/
theorem pairWaitsForBothEnds_holds : pairWaitsForBothEnds := by
  intro s m e released bytes r ha hr hpartner hdue
  have hother : s.part.otherEndDue m = true := by
    simpa [Part.otherEndDue, hpartner] using hdue
  refine ⟨_, exec_reply ha.quiet bytes, ran_of_deckChange ha.quiet ?_
    (setMover_deckChange (stationHeard_deckChange ..))⟩
  rw [replyBytes_mover ha, hother, hr]
  rfl

theorem otherEndDue_single {p : Part} (hp : p.partner m = none) : p.otherEndDue m = false := by
  simp [Part.otherEndDue, hp]

/-! ### A miss -/

/-- The station's record after a miss (R175, Table 9-4). -/
theorem onMiss_mover (y : Station) : y.onMiss 3 =
    { y with
      state := if y.state = .lost ∨ 3 ≤ y.misses + 1 then .lost else if y.state = .unknown then .unknown else .missing,
      misses := if y.state = .lost ∨ 3 ≤ y.misses + 1 then 3 else y.misses + 1 } := by
  unfold Station.onMiss
  by_cases hl : y.state = .lost
  · simp only [hl, true_or, if_true]
  · by_cases hm : y.misses + 1 < 3
    · simp only [hl, hm, false_or, Nat.not_le.2 hm, if_true, if_false]
    · simp only [hl, hm, false_or, Nat.not_lt.1 hm, if_true, if_false]

/-- The part once the exchange of a mover's station has completed as a miss, and what reaches the mover. -/
theorem replyWindowClose_mover
    (hx : s.part.field.exchange = some { station := moverStation m, released := released, discard := false }) :
    replyWindowClose s.part =
      deliverMiss (moverStation m) (s.part.station (moverStation m)).state
        ((s.part.station (moverStation m)).onMiss 3).state released (stationMissed (moverStation m) 3 s.part) := by
  have hlimit := missLimit_moverStation m
  unfold replyWindowClose completeExchange
  rw [hx]
  simp only [Bool.false_eq_true, if_false, Option.filter_none, hlimit]
  congr 1
  rw [show ({ s.part with field := { s.part.field with exchange := none } } : Part).station (moverStation m) =
    s.part.station (moverStation m) from rfl, onMiss_mover, stationMissed]
  by_cases hl : (s.part.station (moverStation m)).state = .lost
  · simp [hl]
  · by_cases hm : 3 ≤ (s.part.station (moverStation m)).misses + 1
    · simp [hl, hm, countLoss, Part.setStation]
    · have hstate : (if (s.part.station (moverStation m)).state = .unknown then LinkCond.unknown else .missing) ≠ .lost := by
        split <;> simp
      simp [hl, hm, hstate]

end

/-! ### The timers (R32, R45) -/

section
variable {s : State} {m : MoverId}

theorem exec_brakeTimerExpiry (h : s.Quiet) (ht : (s.part.mover m).motion.brakeTimer = some 0) :
    exec (.brakeTimerExpiry m) s = .next (runLocal (brakeTimerExpiry m) s) := by
  show Host.Outcome.next (unlessReset (brakeTick m) s) = _
  rw [unlessReset_quiet h, brakeTick, runWhen_due (by rw [ht]; rfl)]

theorem exec_settleTimerExpiry (h : s.Quiet) (ht : (s.part.mover m).motion.settleTimer = some 0) :
    exec (.settleTimerExpiry m) s = .next (runLocal (settleTimerExpiry m) s) := by
  show Host.Outcome.next (unlessReset (settleTick m) s) = _
  rw [unlessReset_quiet h, settleTick, runWhen_due (by rw [ht]; rfl)]

/-- R45: the motion ends at the measured position. -/
theorem settleTimerExpiry_eq {p : Part} (hs : (p.mover m).motion.state = .settling)
    (hw : (p.mover m).motion.waiting = none) :
    settleTimerExpiry m p = (idled m (p.restCount m) p).emit [.steadyReport (p.entryOfMover m)] := by
  have hs' : (p.motion m).state = .settling := hs
  unfold settleTimerExpiry
  rw [enterIdle_eq _ (.inr hw), hs']
  rfl

theorem moverTimers_hold (hq : s.Quiet) :
    ((s.part.mover m).motion.brakeTimer = some 0 →
      s.Leads (.brakeTimerExpiry m) (setMotion m { (s.part.mover m).motion with brakeTimer := none } s.part)) ∧
    (∀ h : Lane, (s.part.mover m).motion.settleTimer = some 0 → (s.part.mover m).motion.state = .settling →
      (s.part.mover m).motion.waiting = none → s.part.claim (s.part.entryOfMover m) = implicitOf h →
      s.part.waiters = [] → s.Leads (.settleTimerExpiry m)
        ((idled m (s.part.restCount m) s.part).setClaim (s.part.entryOfMover m) Claim.free)) := by
  refine ⟨fun ht => ⟨_, exec_brakeTimerExpiry hq ht, ran_of_deckChange hq rfl (setMotion_deckChange (.refl _))⟩,
    fun h ht hs hw hcl hwait => ⟨_, exec_settleTimerExpiry hq ht, ?_⟩⟩
  refine ran_of_steady (pre := []) hq (settleTimerExpiry_eq hs hw) (by simp) (by simp) ((moved_claim _).trans hcl)
    moved_steady ?_ (moved_deckChange (.refl _))
  rw [idled, moved_eq]
  exact hwait

end

/-! ### The valve command (R42) -/

theorem tdiv_eq_truncated (x : Int) (n : Nat) : x.tdiv n = truncated x n := by
  unfold truncated
  split
  · next h => exact Int.tdiv_eq_ediv_of_nonneg h
  · next h =>
    rw [← Int.tdiv_eq_ediv_of_nonneg (by omega), Int.neg_tdiv, neg_neg]

theorem valveByFormula_holds : valveByFormula := by
  intro pm error up speed
  rw [← tdiv_eq_truncated, ← tdiv_eq_truncated]
  rfl

end Sys2Proof.Machine
end

section
/-! The replies and the misses of a mover's station, by the mover's state (R27, R28, R32, R37, R38, R50 to R52, R175). -/

namespace Sys2Proof.Machine

section
variable {s : State} {c : Instr} {f : Part → Part} {q : Part} {m : MoverId} {x : Mover} {i : StepInput} {r : MoverReply}
  {released : Bool} {mo : Motion} {judged : Bool}

/-! ### Local mode, the station fault and the recovery (step 2) -/

section
variable (h : s.StepsAlone c f q m x i) (hr : (x.inStep i).Hears r released)
  (hon : (q.station (moverStation m)).state ≠ .unknown)
include h

theorem State.StepsAlone.keeps (hx : x.motion.state = .faulted ∨
      (x.motion.state = .localMode ∧ (i.reply = none ∨ x.localReported = true)) ∨
      (x.motion.state = .offline ∧ i.reply = none)) : s.Leads c (q.setMover m x) :=
  h.stays (acts := []) (h.control.trans (controlFrom_ends (y := x.inStep i) h.alone.partner h.step
    (stepLocal_stays (x := x.inStep i) h.alone.partner rfl hx))) (by simp) (by simp)

include hr hon

theorem State.StepsAlone.goesLocal (hf : x.motion.state ≠ .faulted) (hn : x.motion.state ≠ .localMode)
    (hl : r.localMode = true) : s.Leads c (restsFree q m (x.endsIn .localMode none)) :=
  h.rests (before := x.motion.state) (h.control.trans (controlFrom_ends h.alone.partner h.step
    (stepLocal_local h.alone.partner hr h.waiting hl ⟨hf, hn⟩ hon))) hn rfl

theorem State.StepsAlone.stationFaults (hf : x.motion.state ≠ .faulted) (hl : r.localMode = false)
    (hs : r.stationFault = true) : s.Leads c (restsFree q m (x.endsIn .faulted (some .station))) :=
  h.rests (before := x.motion.state) (h.control.trans (controlFrom_ends h.alone.partner h.step
    (stepLocal_fault h.alone.partner hr h.waiting hl hs hf hon))) hf rfl

theorem State.StepsAlone.recovers (hst : x.motion.state = .offline ∨ x.motion.state = .localMode)
    (hl : r.localMode = false) (hs : r.stationFault = false) :
    s.Leads c (restsFree q m (idleAt ((q.planMover m).clampPos x.position) x)) := by
  have hp := h.alone.partner
  refine h.rests (before := x.motion.state) (h.control.trans (controlFrom_goesOn hp h.step
    (stepLocal_clears hp hr h.waiting hl hs hst hon)
    (beforeTrack_of hp (i := i) (fun e => by cases e)
      (stepBrake_holds hp (i := i) rfl (Motion.judging_other (by simp [idleAt]) (by simp [idleAt]))
        (by simp [Motion.holding, idleAt])) rfl (.inr rfl))
    (restOfStep_idle hp rfl))) ?_ rfl
  rcases hst with e | e <;> simp [e, idleAt]

end

/-! ### The brake and the toe beam (steps 3 and 4) -/

section
variable (h : s.StepsAlone c f q m x i)
  (hlocal : stepLocal m (q.withMover m (x.inStep i) []) = (q.withMover m (x.inStep i) [], true))
include h

theorem State.StepsAlone.noReturn : (q.claim (q.entryOfMover m)).status ≠ .underWay := by
  rw [entryOfMover_single h.alone.partner]
  rcases h.alone.claim with e | ⟨n, e⟩ <;> rw [e] <;> simp [Claim.free, implicitOf]

include hlocal

theorem State.StepsAlone.brakeFaults (hpend : x.motion.state = .moving → x.motion.pending = none)
    (hb : (x.motion.judging = true ∧ i.judges x.motion = some false) ∨
      (x.motion.judging = false ∧ x.motion.holding = true ∧ ∃ r, i.reply = some r ∧ r.brakeReleased = false))
    (hf : x.motion.state ≠ .faulted) : s.Leads c (restsFree q m (x.endsIn .faulted (some .brake))) := by
  have hp := h.alone.partner
  exact h.rests (before := x.motion.state) (h.control.trans (controlFrom_goesOn hp h.step hlocal
    (beforeTrack_of hp (i := i) hpend (stepBrake_engaged hp rfl h.waiting hb hf) rfl (.inr rfl))
    (restOfStep_still hp (i := i) rfl rfl (by simp [endedIn]) (by simp [endedIn])))) hf rfl

/-- A broken toe beam stops a mover in RELEASING at its place (R37, R35). -/
theorem State.StepsAlone.beamStops (hst : x.motion.state = .releasing) (hb : i.judges x.motion = none)
    (he : x.endJudged = false) (htoe : i.breaksBeam (q.planMover m) = true) (hd : x.motion.downward = true) :
    s.Leads c (restsFree q m (idleAt ((q.planMover m).clampPos x.position) x)) := by
  have hp := h.alone.partner
  have hbefore : stepToeBeam m (stepBrake m (stepPending m (q.withMover m (x.inStep i) []))) =
      q.withMover m (idleAt ((q.planMover m).clampPos x.position) (x.inStep i)) (moverReports m .releasing .idle q) := by
    rw [stepPending_none (fun e => by rw [hst] at e; cases e),
      stepBrake_waits (x := x.inStep i) hp rfl (by simp [Motion.judging, hst]) hb he,
      stepToeBeam_eq (x := x.inStep i) hp rfl,
      if_pos (by rw [htoe]; exact hd),
      withMover_moverStop_releasing (y := x.inStep i) hp _ hst h.waiting h.noReturn]
    rfl
  exact h.rests (before := .releasing) (h.control.trans (controlFrom_goesOn hp h.step hlocal hbefore
    (restOfStep_idle hp rfl))) (by simp [idleAt]) rfl

omit hlocal

/-- The beam and the brake leave the mover as it is. -/
theorem State.StepsAlone.passes (hpend : x.motion.state = .moving → x.motion.pending = none)
    (hbrake : stepBrake m (q.withMover m (x.inStep i) []) = q.withMover m (x.inStep i) [])
    (htoe : i.breaksBeam (q.planMover m) = false ∨ x.motion.downward = false) :
    stepToeBeam m (stepBrake m (stepPending m (q.withMover m (x.inStep i) []))) = q.withMover m (x.inStep i) [] :=
  beforeTrack_of h.alone.partner hpend hbrake rfl htoe

/-- A brake that is not to be judged and shows no engagement. -/
theorem State.StepsAlone.brakeHolds (hj : x.motion.judging = false) (hb : ∀ r, i.reply = some r → r.brakeReleased = true) :
    stepBrake m (q.withMover m (x.inStep i) []) = q.withMover m (x.inStep i) [] :=
  stepBrake_holds (x := x.inStep i) h.alone.partner rfl hj fun _ => hb

/-- R32, R37: with a released brake the step goes on to the profile, stopped by a broken beam on the way down. -/
theorem State.StepsAlone.beforeProfile (hi : i = { reply := some r, released := released })
    (hgo : goesOnWith x r released ((q.planMover m).kind == .panelEnd) mo)
    (hj : judged = (x.endJudged || (x.motion.state == .releasing))) :
    stepToeBeam m (stepBrake m (stepPending m (q.withMover m (x.inStep i) []))) =
      q.withMover m { x.inStep i with motion := mo, endJudged := judged } [] := by
  have hp := h.alone.partner
  obtain ⟨hb, hgo⟩ := hgo
  have hholds := fun hj => h.brakeHolds hj fun r' hr' => by
    rw [hi] at hr'
    cases hr'
    exact hb
  have hsame : x.motion.state ≠ .releasing → judged = x.endJudged := fun e => by
    rw [hj, beq_eq_false_iff_ne.2 e, Bool.or_false]
  have hwhole : r.toeBroken = false ∨ ((q.planMover m).kind == .panelEnd) = true → i.breaksBeam (q.planMover m) = false := by
    rintro (e | e) <;> simp_all [StepInput.breaksBeam]
  rcases hgo with ⟨hst, rfl⟩ | ⟨hst, hpend, htoe, rfl⟩ | ⟨hst, hpend, hup, hbroken, hpanel, rfl⟩ |
    ⟨hst, hpend, htimer, hrel, htoe, rfl⟩
  · rw [hsame (by simp [hst])]
    exact h.passes (fun e => by rw [hst] at e; cases e) (hholds (by simp [Motion.judging, hst])) (.inr
      (Motion.downward_other (by simp [hst]) (by simp [hst])))
  · rw [hsame (by simp [hst])]
    refine h.passes (fun _ => hpend) (hholds (by simp [Motion.judging, hst])) ?_
    rcases htoe with hup | htoe
    · exact .inr (by simp [Motion.downward, hst, hup])
    · exact .inl (hwhole htoe)
  · have hbreaks : i.breaksBeam (q.planMover m) = true := by
      rw [hi]
      simp [StepInput.breaksBeam, hbroken, bne, hpanel]
    have hdown : x.motion.downward = true := by simp [Motion.downward, hst, hup]
    rw [stepPending_none (x := x.inStep i) (fun _ => hpend), hholds (by simp [Motion.judging, hst]),
      stepToeBeam_eq (x := x.inStep i) hp rfl, if_pos (by rw [hbreaks]; exact hdown),
      withMover_moverStop_moving (y := x.inStep i) hp _ hst h.waiting h.noReturn, Motion.stopping_of_pending hpend,
      hsame (by simp [hst])]
  · have hjudges : i.judges x.motion = some true := by
      rw [hi]
      simp [StepInput.judges, htimer, hrel, hb]
    rw [hj, hst, beq_self_eq_true, Bool.or_true]
    refine beforeTrack_of hp (fun e => by rw [hst] at e; cases e)
      (stepBrake_judged (x := x.inStep i) hp rfl hst h.waiting hjudges) rfl ?_
    rcases htoe with hup | htoe
    · exact .inr (by simp [Motion.downward, hup])
    · exact .inl (hwhole htoe)

end

end

/-! ### The exchanges -/

section
variable {s : State} {m : MoverId} {released : Bool} {bytes : List Byte} {r : MoverReply} {q : Part} {x : Mover}

theorem moverInput_alone (m : MoverId) (i : StepInput) (p : Part) :
    moverInput m i false p = controlStep m (p.setMover m { p.mover m with step := some i }) := by
  unfold moverInput
  exact if_neg Bool.false_ne_true

/-- A whole valid reply runs the control step of a mover that acts alone. -/
theorem reply_stepsAlone (ha : s.Answers (moverStation m) released bytes) (hr : r = moverReplyOf bytes)
    (halone : actsAlone s.part m) (hq : q = s.part.moverHeard m (byteAt bytes 1) r)
    (hx : x = { (s.part.mover m).stores r with step := none }) :
    s.StepsAlone (.reply bytes) (replyBytes bytes) q m x { reply := some r, released := released } := by
  subst hr hq hx
  have hdeck : s.part.DeckChange (s.part.moverHeard m (byteAt bytes 1) (moverReplyOf bytes)) :=
    setMover_deckChange (stationHeard_deckChange ..)
  refine ⟨⟨ha.quiet, exec_reply ha.quiet bytes, hdeck, halone.partner, ?_, halone.doors, halone.waiters, halone.claim⟩, ?_,
    rfl, halone.record⟩
  · rw [Part.moverHeard, Part.setMover_same]
    exact halone.record
  · have hstored := controlStep_stored (p := s.part.moverHeard m (byteAt bytes 1) (moverReplyOf bytes)) halone.partner
      (x0 := { s.part.mover m with step := some { reply := some (moverReplyOf bytes), released := released } })
      (storeReply_reply rfl) rfl
    rw [replyBytes_mover ha, otherEndDue_single halone.partner, moverInput_alone]
    refine Eq.trans (congrArg (controlStep m) ?_) hstored
    rw [Part.moverHeard, setMover_withMover, withMover_nil]
    rfl

theorem moverHeard_mover (status : Byte) :
    (s.part.moverHeard m status r).mover m = { (s.part.mover m).stores r with step := none } := by
  rw [Part.moverHeard, Part.setMover_same]

/-- A whole valid reply, by the mover's state (R38). -/
theorem moverReplyActs_holds : moverReplyActs := by
  intro s m released bytes r q x pm ha hr halone hq hx hpm
  have hx' : x = { (s.part.mover m).stores r with step := none } := hx.trans (by rw [hq, moverHeard_mover])
  have h := reply_stepsAlone ha hr halone hq hx'
  have hself : q.setMover m x = q := by rw [hx, Part.setMover_self]
  have hhears : (x.inStep { reply := some r, released := released }).Hears r released := by
    rw [hx']
    exact ⟨rfl, rfl, rfl⟩
  have hon : (q.station (moverStation m)).state ≠ .unknown := by
    rw [hq, Part.moverHeard, Part.setMover_station', Part.stationHeard, Part.setStation_same]
    simp
  have hposition : x.position = r.position := by rw [hx']
  have hpm' : pm = q.planMover m := by rw [hpm, hq]; rfl
  subst hpm'
  obtain ⟨i, hi⟩ : ∃ i : StepInput, i = { reply := some r, released := released } := ⟨_, rfl⟩
  rw [← hi] at h hhears
  have hkeeps := fun e => hself ▸ h.keeps e
  refine ⟨?_, h.goesLocal hhears hon, h.stationFaults hhears hon, fun hl hf => ?_⟩
  · rintro (e | ⟨e, hl⟩)
    · exact hkeeps (.inl e)
    · exact hkeeps (.inr (.inl ⟨e, .inr (hhears.isLocal.trans hl)⟩))
  have hlocal : ∀ st, x.motion.state = st → st ≠ .faulted ∧ st ≠ .localMode ∧ st ≠ .offline →
      stepLocal m (q.withMover m (x.inStep i) []) = (q.withMover m (x.inStep i) [], true) := fun st e hst => by
    subst e
    refine stepLocal_goesOn (x := x.inStep i) h.alone.partner rfl (fun r' hr' => ?_) hst
    rw [hi] at hr'
    cases hr'
    exact ⟨hl, hf⟩
  have hholds : x.motion.judging = false → r.brakeReleased = true →
      stepBrake m (q.withMover m (x.inStep i) []) = q.withMover m (x.inStep i) [] := fun hj hb =>
    h.brakeHolds hj fun r' hr' => by
      rw [hi] at hr'
      cases hr'
      exact hb
  rw [← hposition]
  refine ⟨fun e => h.recovers hhears hon e hl hf, fun e => h.idles (hlocal _ e (by simp)) e, fun hb hpend hst => ?_,
    fun target hst hwait he ht => ?_, fun mo judged hgo hj => ?_, fun hst hb => ?_, fun hst hjudged hb => ?_⟩
  · refine h.brakeFaults (hlocal _ rfl ?_) (fun _ => hpend) ?_ ?_
    · rcases hst with ⟨e, -⟩ | e | e | e <;> simp [e]
    · rcases hst with ⟨e, htimer, hrel⟩ | hst
      · exact .inl ⟨by simp [Motion.judging, e], by simp [hi, StepInput.judges, htimer, hrel, hb]⟩
      · refine .inr ⟨?_, ?_, r, by rw [hi], hb⟩
        · rcases hst with e | e | e <;> simp [Motion.judging, e]
        · rcases hst with e | e | e <;> simp [Motion.holding, e]
    · rcases hst with ⟨e, -⟩ | e | e | e <;> simp [e]
  · have hnone : i.judges x.motion = none := by
      rcases hwait with e | e <;> simp [hi, StepInput.judges, e]
    have hbreaks : i.breaksBeam (q.planMover m) = true ↔ r.toeBroken = true ∧ (q.planMover m).kind ≠ .panelEnd := by
      simp [hi, StepInput.breaksBeam]
    have hdown : x.motion.downward = true ↔ 256 * (target : Int) < x.motion.setpoint.getD 0 := by
      simp [Motion.downward, hst, ht]
    have hwaits := stepBrake_waits (x := x.inStep i) (acts := []) h.alone.partner rfl (by simp [Motion.judging, hst]) hnone he
    split
    · next hc =>
      obtain ⟨htoe, hkind, hbelow⟩ := hc
      exact h.beamStops (hlocal _ hst (by simp)) hst hnone he (hbreaks.2 ⟨htoe, hkind⟩) (hdown.2 hbelow)
    · next hc =>
      refine h.waits (hlocal _ hst (by simp)) (h.passes (fun e => by rw [hst] at e; cases e) hwaits ?_) (.inl hst)
      by_contra hboth
      rw [not_or, Bool.not_eq_false, Bool.not_eq_false, hbreaks, hdown, and_assoc] at hboth
      exact hc hboth
  · obtain ⟨hrun, hwaiting, hns, hstate⟩ : mo.running = true ∧ mo.waiting = none ∧ x.motion.state ≠ .settling ∧
        (x.motion.state ≠ .faulted ∧ x.motion.state ≠ .localMode ∧ x.motion.state ≠ .offline) := by
      rcases hgo.2 with ⟨e, rfl⟩ | ⟨e, -, -, rfl⟩ | ⟨e, -, -, -, -, rfl⟩ | ⟨e, -, -, -, -, rfl⟩ <;>
        simp [Motion.running, e, h.waiting]
    exact h.profileActs (hlocal _ rfl hstate) (h.beforeProfile hi hgo hj) hrun hwaiting hns
  · have hholds := hholds (Motion.judging_other (by simp [hst]) (by simp [hst])) hb
    exact h.settleActs (hlocal _ hst (by simp)) (h.passes (fun e => by rw [hst] at e; cases e) hholds
      (.inr (Motion.downward_other (by simp [hst]) (by simp [hst])))) hst
  · have hholds := hholds (Motion.judging_other (by simp [hst]) (fun _ => hjudged)) hb
    exact h.stays (acts := []) (h.control.trans (controlFrom_goesOn h.alone.partner h.step (hlocal _ hst (by simp))
      (h.passes (fun e => by rw [hst] at e; cases e) hholds
        (.inr (Motion.downward_other (by simp [hst]) (by simp [hst]))))
      (restOfStep_floats (x := x.inStep i) h.alone.partner rfl hst (by rw [hi])))) (by simp) (by simp)

end

end Sys2Proof.Machine
end

section
/-! The misses of a mover's station (R52, R175, R176), and the statement on the mover's timers and exchanges. -/

namespace Sys2Proof.Machine

section
variable {s : State} {m : MoverId} {released : Bool} {q : Part} {x : Mover}

/-! ### The station's record -/

theorem stationMissed_deckChange (st : StationId) (limit : Nat) (p : Part) : p.DeckChange (stationMissed st limit p) :=
  ⟨rfl, rfl, rfl, rfl, rfl⟩

theorem stationMissed_mover (st : StationId) (limit : Nat) (p : Part) (i : MoverId) :
    (stationMissed st limit p).mover i = p.mover i := rfl

theorem stationMissed_position (st : StationId) (limit : Nat) (p : Part) :
    ((stationMissed st limit p).station st).position = (p.station st).position := by
  rw [stationMissed, Part.setStation_same]

/-! ### What reaches the mover (R176) -/

theorem noStep_flushPair {p : Part} (hp : p.partner m = none) (h : (p.mover m).step = none) : flushPair m p = p := by
  simp [flushPair, ends_single hp, h]

theorem moverLost_faulted {p : Part} (hs : (p.mover m).motion.state = .faulted) : moverLost m p = p := if_pos hs

/-- R52: the loss of its station faults the mover. -/
theorem moverLost_faults {p : Part} (hp : p.partner m = none) (hw : (p.mover m).motion.waiting = none)
    (hs : (p.mover m).motion.state ≠ .faulted) :
    moverLost m p = p.withMover m ((p.mover m).endsIn .faulted (some .link))
      (moverReports m (p.mover m).motion.state .faulted p) := by
  have h := withMover_enterFault (acts := []) hp .link hw hs
  rw [withMover_nil, Part.setMover_self] at h
  exact h

section
variable (hx : s.part.field.exchange = some { station := moverStation m, released := released, discard := false })
  (halone : actsAlone s.part m) (hstep : (s.part.mover m).step = none)
include hx halone hstep

/-- Of a LOST station nothing reaches the mover. -/
theorem replyWindowClose_moverLost (hlost : (s.part.station (moverStation m)).state = .lost) :
    replyWindowClose s.part = stationMissed (moverStation m) 3 s.part := by
  rw [replyWindowClose_mover hx, deliverMiss, ownerOf_moverStation]
  dsimp only
  rw [if_pos hlost]
  exact noStep_flushPair halone.partner hstep

omit halone hstep in
/-- The third miss loses the station. -/
theorem replyWindowClose_moverLoses (hlost : (s.part.station (moverStation m)).state ≠ .lost)
    (hm : 3 ≤ (s.part.station (moverStation m)).misses + 1) :
    replyWindowClose s.part = flushPair m (moverLost m (stationMissed (moverStation m) 3 s.part)) := by
  have hafter : ((s.part.station (moverStation m)).onMiss 3).state = .lost := by
    rw [onMiss_mover]
    exact if_pos (.inr hm)
  rw [replyWindowClose_mover hx, deliverMiss, ownerOf_moverStation]
  dsimp only
  rw [if_neg hlost, if_pos hafter]

/-- Any other miss runs the control step of a mover that acts alone. -/
theorem miss_stepsAlone (hs : s.Quiet) (hlost : (s.part.station (moverStation m)).state ≠ .lost)
    (hm : (s.part.station (moverStation m)).misses + 1 < 3) (hq : q = stationMissed (moverStation m) 3 s.part)
    (hxm : x = { s.part.mover m with position := (s.part.station (moverStation m)).position }) :
    s.StepsAlone .replyWindowClose replyWindowClose q m x { reply := none, released := released } := by
  have hafter : ((s.part.station (moverStation m)).onMiss 3).state ≠ .lost := by
    rw [onMiss_mover]
    dsimp only
    rw [if_neg (by simp [hlost]; omega)]
    split <;> simp
  subst hq hxm
  refine ⟨⟨hs, exec_replyWindowClose hs, stationMissed_deckChange .., halone.partner, halone.record, halone.doors,
    halone.waiters, halone.claim⟩, ?_, hstep, halone.record⟩
  have hstored := controlStep_stored (p := stationMissed (moverStation m) 3 s.part) halone.partner
      (x0 := { s.part.mover m with step := some { reply := none, released := released } }) (storeReply_miss rfl) rfl
  rw [stationMissed_position] at hstored
  rw [replyWindowClose_mover hx, deliverMiss, ownerOf_moverStation]
  dsimp only
  rw [if_neg hlost, if_neg hafter, otherEndDue_single (p := stationMissed (moverStation m) 3 s.part) halone.partner,
    moverInput_alone]
  refine Eq.trans (congrArg (controlStep m) ?_) hstored
  rw [withMover_nil, stationMissed_mover]

end

/-- A miss, by the station's count and the mover's state (R175, R176). -/
theorem moverMissActs_holds : moverMissActs := by
  intro s m released q y x pm hs hx halone hstep hq hy hpm
  have hpm' : pm = q.planMover m := by rw [hpm, hq]; rfl
  have hmover : q.mover m = s.part.mover m := by rw [hq, stationMissed_mover]
  have hmoves : s.MovesAlone .replyWindowClose replyWindowClose q m := by
    subst hq
    exact ⟨hs, exec_replyWindowClose hs, stationMissed_deckChange .., halone.partner, halone.record, halone.doors,
      halone.waiters, halone.claim⟩
  have hsame : ∀ e : replyWindowClose s.part = q, s.Leads .replyWindowClose q := fun e =>
    ⟨_, hmoves.runs, ran_of_deckChange hs e hmoves.deck⟩
  subst hpm' hy
  refine ⟨fun hlost => hsame (by rw [replyWindowClose_moverLost hx halone hstep hlost, hq]), fun hlost hm hxm => ?_,
    fun hlost hm hxm => ?_⟩
  · have hcloses := replyWindowClose_moverLoses hx hlost hm
    rw [← hq] at hcloses
    subst hxm
    rw [← hmover] at hstep ⊢
    refine ⟨fun e => hsame ?_, fun e => hmoves.rests (before := (q.mover m).motion.state) ?_ e rfl⟩
    · rw [hcloses, moverLost_faulted e, noStep_flushPair hmoves.alone.partner hstep]
    · rw [hcloses, moverLost_faults hmoves.alone.partner hmoves.alone.record e]
      exact noStep_flushPair (p := q.withMover m _ _) hmoves.alone.partner (by rw [withMover_mover]; exact hstep)
  · have h := miss_stepsAlone hx halone hstep hs hlost hm hq hxm
    obtain ⟨i, hi⟩ : ∃ i : StepInput, i = { reply := none, released := released } := ⟨_, rfl⟩
    rw [← hi] at h
    have hreply : i.reply = none := by rw [hi]
    have hjudges : i.judges x.motion = none := by rw [hi, StepInput.judges_miss]
    have hbeam : i.breaksBeam (q.planMover m) = false := by rw [hi, StepInput.breaksBeam_miss]
    have hlocal : ∀ st, x.motion.state = st → st ≠ .faulted ∧ st ≠ .localMode ∧ st ≠ .offline →
        stepLocal m (q.withMover m (x.inStep i) []) = (q.withMover m (x.inStep i) [], true) := fun st e hst => by
      subst e
      exact stepLocal_goesOn (x := x.inStep i) h.alone.partner rfl (by simp [hreply]) hst
    have hholds := fun hj => h.brakeHolds hj (by simp [hreply])
    refine ⟨fun hst => ?_, fun e => h.idles (hlocal _ e (by simp)) e, fun hst => ?_, fun hst => ?_, fun hst => ?_⟩
    · rcases hst with e | e | e
      · exact h.keeps (.inl e)
      · exact h.keeps (.inr (.inl ⟨e, .inl hreply⟩))
      · exact h.keeps (.inr (.inr ⟨e, hreply⟩))
    · have hwaits := fun hj he => stepBrake_waits (x := x.inStep i) (acts := []) h.alone.partner rfl hj hjudges he
      rcases hst with ⟨e, hj⟩ | ⟨e, he⟩
      · refine h.waits (hlocal _ e (by simp)) (h.passes (fun e' => by rw [e] at e'; cases e') ?_ (.inl hbeam))
          (.inr ⟨e, hreply⟩)
        cases hb : x.motion.brakeJudged
        · exact hwaits (by simp [Motion.judging, e, hb]) (hj.resolve_left (by simp [hb]))
        · exact hholds (Motion.judging_other (by simp [e]) (fun _ => hb))
      · exact h.waits (hlocal _ e (by simp)) (h.passes (fun e' => by rw [e] at e'; cases e')
          (hwaits (by simp [Motion.judging, e]) he) (.inl hbeam)) (.inl e)
    · have hrun : x.motion.running = true := by
        rcases hst with ⟨e, -⟩ | e <;> simp [Motion.running, e]
      have hpend : x.motion.state = .moving → x.motion.pending = none := by
        rcases hst with ⟨-, hpend⟩ | e
        · exact fun _ => hpend
        · exact fun e' => by rw [e] at e'; cases e'
      have hstate : x.motion.state = .moving ∨ x.motion.state = .stopping := running_states hrun
      exact h.profileActs (hlocal _ rfl (by rcases hstate with e | e <;> simp [e])) (h.passes hpend
        (hholds (Motion.judging_other (by rcases hstate with e | e <;> simp [e]) (by rcases hstate with e | e <;> simp [e])))
        (.inl hbeam)) hrun h.waiting (by rcases hstate with e | e <;> simp [e])
    · exact h.settleActs (hlocal _ hst (by simp)) (h.passes (fun e => by rw [hst] at e; cases e)
        (hholds (Motion.judging_other (by simp [hst]) (by simp [hst]))) (.inl hbeam)) hst

end

/-- Settles O20: the control step of a mover alone is a change of its own record and the reports of its state; the timers'
expiries and the wait of a pair's first end come beside it. -/
theorem moverTimersExpire : Obligations.MoverTimersExpire :=
  ⟨valveByFormula_holds, moverReplyActs_holds, moverMissActs_holds, pairWaitsForBothEnds_holds,
    fun _ _ hq => moverTimers_hold hq⟩

end Sys2Proof.Machine
end

section
/-! Changes of a door's record: what the entry to a state removes, and what the reports of the change come to
(R3, R61, R68, R81). -/

namespace Sys2Proof.Machine

/-! ### The record (R61, R68) -/

/-- The record once its state has been entered: what the entry removes of the origins. -/
def Door.entered (x : Door) : Door :=
  { x with laneOrigin := x.laneOrigin && !x.state.dropsLane, zoneOrigin := x.zoneOrigin && (x.state != .closed) }

/-- The closing sequence keeps the LANE origin, is not steady and ends nothing. -/
theorem DoorState.of_inSequence {state : DoorState} (h : state.inSequence = true) :
    state.dropsLane = false ∧ state ≠ .closed ∧ state.steady = false ∧
      ¬ (state = .faulted ∨ state = .localMode ∨ state = .blocked) := by
  revert h
  cases state <;> decide

theorem Door.entered_keeps {x : Door} (h : x.state.inSequence = true) : x.entered = x := by
  obtain ⟨hlane, hclosed, -, -⟩ := DoorState.of_inSequence h
  have hzone : (x.state != .closed) = true := by simpa using hclosed
  simp [Door.entered, hlane, hzone]

theorem Door.entered_drops {x : Door} (h : x.state.dropsLane = true) (hc : x.state ≠ .closed) :
    x.entered = { x with laneOrigin := false } := by
  simp [Door.entered, h, hc]

theorem Door.entered_closed {x : Door} (h : x.state = .closed) :
    x.entered = { x with laneOrigin := false, zoneOrigin := false } := by
  simp [Door.entered, h, DoorState.dropsLane]

section
variable {p : Part} {d : DoorId} {x : Door}

/-- A change that ends no waiting record. -/
theorem doorTo_eq {ending : Option ResultCode} (h : ending = none ∨ ((p.door d).waiting = none ∧ x.waiting = none)) :
    doorTo d x ending p = (syncWarn d (p.setDoor d x.entered)).emit (doorReports d (p.door d).state x.state) := by
  unfold doorTo
  rcases h with rfl | ⟨hw, hx⟩
  · rfl
  · cases ending with
    | none => rfl
    | some code =>
      have hsame : { x.entered with waiting := none } = x.entered := by rw [Door.entered, hx]
      dsimp only
      rw [hw, Option.isSome_some, if_pos rfl]
      exact congrArg (fun z => (syncWarn d (p.setDoor d z)).emit (doorReports d (p.door d).state x.state)) hsame

/-! ### The reports (R81) -/

/-- What a change to this state reports to the claim of the door. -/
def claimReports (d : DoorId) (after : DoorState) : List Act :=
  (if after = .faulted ∨ after = .localMode ∨ after = .blocked then [.faultReport (doorEntry d)] else []) ++
    (if after.steady then [.steadyReport (doorEntry d)] else [])

/-- What a change of state reports to the zones of the door. -/
def zoneReports (d : DoorId) (before after : DoorState) : List Act :=
  if after = .closed then [.doorClosed d] else if before = .closed then [.doorLeft d] else []

theorem doorReports_same (d : DoorId) (state : DoorState) : doorReports d state state = [] := if_pos rfl

theorem doorReports_ne {before after : DoorState} (h : before ≠ after) :
    doorReports d before after = zoneReports d before after ++ claimReports d after := by
  rw [doorReports, if_neg h, List.append_assoc]
  rfl

theorem claimReports_length (d : DoorId) (after : DoorState) : (claimReports d after).length ≤ 2 := by
  unfold claimReports
  split_ifs <;> simp

/-- Where no claim holds the door, the reports to it come to nothing. -/
theorem claimReports_idle (h : (p.claim (doorEntry d)).holder = none) (after : DoorState) (m : List Host.Cell) :
    ∀ a ∈ claimReports d after, a ≠ .arbitrate ∧ perform m a p = p := by
  intro a ha
  rcases List.mem_append.1 ha with ha | ha
  · split at ha
    · rw [List.mem_singleton.1 ha]
      exact ⟨by simp, faultReport_free p h⟩
    · cases ha
  · split at ha
    · rw [List.mem_singleton.1 ha]
      exact ⟨by simp, steadyReport_free p h⟩
    · cases ha

/-- A change in the closing sequence reports nothing. -/
theorem doorReports_inSequence {before after : DoorState} (hb : before ≠ .closed) (ha : after.inSequence = true) :
    doorReports d before after = [] := by
  by_cases h : before = after
  · rw [h, doorReports_same]
  · obtain ⟨-, hclosed, hsteady, hends⟩ := DoorState.of_inSequence ha
    rw [doorReports_ne h]
    simp [zoneReports, claimReports, hb, hclosed, hsteady, hends]

/-- A change neither to CLOSED nor from it reports to the claim alone. -/
theorem doorReports_open {before after : DoorState} (h : before ≠ after) (hb : before ≠ .closed) (ha : after ≠ .closed) :
    doorReports d before after = claimReports d after := by
  rw [doorReports_ne h, zoneReports, if_neg ha, if_neg hb, List.nil_append]

/-- A door that enters a state of the closing sequence, not from CLOSED. -/
theorem doorTo_inSequence (hb : (p.door d).state ≠ .closed) (hx : x.state.inSequence = true) :
    doorTo d x none p = syncWarn d (p.setDoor d x) := by
  rw [doorTo_eq (.inl rfl), doorReports_inSequence hb hx, emit_nil, Door.entered_keeps hx]

/-- The record in WARNING with this lead, its lead counter started (R62). -/
abbrev Door.warned (x : Door) (lead : Nat) : Door :=
  { x with state := .warning, leadCounter := 0, motionTimer := none, retryTimer := none, lead := lead }

/-- R62: entry to WARNING with a lead that does not expire at once. -/
theorem enterWarning_eq (hb : (p.door d).state ≠ .closed) (hl : p.chosenLead d x ≠ 0) :
    enterWarning d x none p = syncWarn d (p.setDoor d (x.warned (p.chosenLead d x))) := by
  unfold enterWarning
  dsimp only
  rw [doorTo_inSequence hb rfl, syncWarn_door, Part.setDoor_same, if_neg (by simp [leadReached, hl])]

/-! ### The zones' counts (R3) -/

/-- The zone's count of doors not closed after a door's change of state. -/
def Zone.recount (before after : DoorState) (z : Zone) : Zone :=
  { z with notClosed :=
      if after = .closed ∧ before ≠ .closed then z.notClosed - 1
      else if after ≠ .closed ∧ before = .closed then z.notClosed + 1 else z.notClosed }

/-- The zones that count the door, after its change of state. -/
def recountZones (d : DoorId) (before after : DoorState) (p : Part) : Part :=
  forEach (p.countingZones d) (fun k r => r.setZone k ((r.zone k).recount before after)) p

theorem recountZones_same {before after : DoorState} (h : before = .closed ↔ after = .closed) :
    recountZones d before after p = p := by
  refine forEach_id _ (fun k _ => Part.setZone_of_eq ?_)
  by_cases ha : after = .closed <;> simp [Zone.recount, h, ha]

theorem recountZones_left {before after : DoorState} (hb : before = .closed) (ha : after ≠ .closed) :
    recountZones d before after p = countOneMore d p := by
  have hone : (fun (k : ZoneId) (r : Part) => r.setZone k ((r.zone k).recount before after)) = zoneCounts := by
    funext k r
    simp [Zone.recount, zoneCounts, hb, ha]
  rw [recountZones, hone]
  rfl

/-- The counts change the zones alone, and leave their states. -/
theorem recountZones_eq (before after : DoorState) (p : Part) :
    recountZones d before after p = { p with zones := (recountZones d before after p).zones } ∧
      ∀ k, ((recountZones d before after p).zone k).state = (p.zone k).state := by
  refine forEach_keeps (P := fun r => r = { p with zones := r.zones } ∧ ∀ k, (r.zone k).state = (p.zone k).state)
    (fun i r h => ⟨?_, fun k => ?_⟩) _ _ ⟨rfl, fun _ => rfl⟩
  · rw [h.1]
    rfl
  · rw [Part.setZone_get]
    split
    · next e => exact e ▸ h.2 i
    · exact h.2 k

/-- A loop whose every step asks for one micro-operation asks for them in order. -/
theorem forEach_emits {α : Type} {f : α → Part → Part} {a : α → Act}
    (hf : ∀ x acts q, f x (q.emit acts) = (f x q).emit acts) :
    ∀ (l : List α) (q : Part), forEach l (fun x r => (f x r).emit [a x]) q = (forEach l f q).emit (l.map a) := by
  intro l
  induction l with
  | nil => exact fun q => (emit_nil q).symm
  | cons x rest ih =>
    intro q
    rw [forEach_cons, forEach_cons, ih, forEach_commutes (g := fun r => r.emit [a x]) (fun y r => hf y _ r), emit_emit]
    rfl

theorem doorClosed_eq {before : DoorState} (hb : before ≠ .closed) :
    doorClosed d p = (recountZones d before .closed p).emit ((p.countingZones d).map Act.shutTest) := by
  have hless : (fun (k : ZoneId) (r : Part) => r.setZone k ((r.zone k).recount before .closed)) =
      fun k r => r.setZone k { r.zone k with notClosed := (r.zone k).notClosed - 1 } := by
    funext k r
    simp [Zone.recount, hb]
  rw [recountZones, hless]
  exact forEach_emits (f := fun k r => r.setZone k { r.zone k with notClosed := (r.zone k).notClosed - 1 })
    (a := Act.shutTest) (fun _ _ _ => rfl) _ _

theorem countingZones_length (p : Part) (d : DoorId) : (p.countingZones d).length ≤ 2 := by
  refine (List.length_filter_le ..).trans ?_
  unfold Part.doorZones
  cases (p.planDoor d).zoneB <;> dsimp only <;> split <;> simp

/-- Where no claim holds the door and its zones are SECURE or LOADING, the reports of a change come to the zones'
counts. -/
theorem doorReports_does (hp : p.agenda = []) (hfree : (p.claim (doorEntry d)).holder = none)
    (hz : ∀ k ∈ p.doorZones d, (p.zone k).state = .secure ∨ (p.zone k).state = .loading) (before after : DoorState) :
    ∃ a ≤ 5, p.Does (doorReports d before after) a (recountZones d before after p) [] := by
  by_cases hne : before = after
  · refine ⟨0, by omega, ?_⟩
    rw [hne, doorReports_same, recountZones_same Iff.rfl]
    exact .idle (acts := []) hp (by simp)
  obtain ⟨r, hr⟩ : ∃ r, r = recountZones d before after p := ⟨_, rfl⟩
  obtain ⟨hzones, hstates⟩ := recountZones_eq (d := d) before after p
  rw [← hr] at hzones hstates ⊢
  have hra : r.agenda = [] := by rw [hzones]; exact hp
  have hclaim : r.Does (claimReports d after) (claimReports d after).length r [] :=
    .idle hra (claimReports_idle (by rw [hzones]; exact hfree) after)
  have hlen := claimReports_length d after
  have hzone : ∃ a ≤ 3, p.Does (zoneReports d before after) a r [] := by
    unfold zoneReports
    split
    · next hc =>
      have hclosed : p.Does [.doorClosed d] 1 r ((p.countingZones d).map Act.shutTest) :=
        .one hp (by simp) fun _ => by rw [hr, hc]; exact doorClosed_eq (hc ▸ hne)
      have htests : r.Does ((p.countingZones d).map Act.shutTest) ((p.countingZones d).map Act.shutTest).length r [] := by
        refine .idle hra fun m a ha => ?_
        obtain ⟨k, hk, rfl⟩ := List.mem_map.1 ha
        refine ⟨by simp, shutTest_idle fun hs => ?_⟩
        rcases hz k (List.mem_of_mem_filter hk) with h | h <;> rw [hstates, h] at hs <;> cases hs
      have hcount := countingZones_length p d
      exact ⟨_, by rw [List.length_map]; omega, hclosed.andThen htests⟩
    · next hc =>
      split
      · next hb =>
        refine ⟨1, by omega, .one hp (by simp) fun _ => ?_⟩
        rw [emit_nil, hr, recountZones_left hb hc]
        refine doorLeft_counts fun k hk hs => ?_
        rcases hz k hk with h | h <;> rw [h] at hs <;> cases hs
      · next hb =>
        refine ⟨0, by omega, ?_⟩
        rw [hr, recountZones_same (by simp [hb, hc])]
        exact .idle (acts := []) hp (by simp)
  obtain ⟨a, ha, hdoes⟩ := hzone
  rw [doorReports_ne hne]
  exact ⟨_, by omega, hdoes.append hclaim⟩

end

end Sys2Proof.Machine
end

section
/-! A door that no claim holds, in an event that changes its record: its entries to CLOSED, LOCAL and FAULTED (R68, R77,
R78), and the steps of a reply of its station (R60). -/

namespace Sys2Proof.Machine

/-! ### The event -/

/-- Command `c` runs `f` on a quiet state; in the deck `q` that it starts from, no claim holds door `d`, whose zones are
SECURE or LOADING and whose record, as it has been kept, is `y`, with nothing waiting for it. -/
structure State.ChangesDoor (s : State) (c : Instr) (q : Part) (d : DoorId) (y : Door) (f : Part → Part) : Prop where
  quiet  : s.Quiet
  runs   : exec c s = .next (runLocal f s)
  deck   : s.part.DeckChange q
  plan   : q.plan = s.part.plan
  free   : (q.claim (doorEntry d)).holder = none
  zones  : ∀ k ∈ q.doorZones d, (q.zone k).state = .secure ∨ (q.zone k).state = .loading
  state  : y.state = (s.part.door d).state
  record : y.waiting = none

theorem countingZones_congr {p q : Part} (h : q.plan = p.plan) (d : DoorId) : q.countingZones d = p.countingZones d := by
  have hforce : q.inForce = p.inForce := congrArg (·.getD Plan.off) h
  unfold Part.countingZones Part.doorZones Part.planDoor Part.planZone
  rw [hforce]

section
variable {s : State} {c : Instr} {q : Part} {d : DoorId} {y z : Door} {f : Part → Part} {ending : Option ResultCode}

/-- The record is kept and nothing else happens. -/
theorem State.ChangesDoor.keeps (h : s.ChangesDoor c q d y f) (hf : f s.part = q.setDoor d y) :
    s.Leads c (q.setDoor d y) :=
  ⟨_, h.runs, ran_of_deckChange h.quiet hf (h.deck.setDoor d y)⟩

/-- The door takes the record `z`, and its zones count it as that stands. -/
theorem State.ChangesDoor.moves (h : s.ChangesDoor c q d y f) (hf : f s.part = doorTo d z ending (q.setDoor d y))
    (hz : z.waiting = none) : s.Leads c (doorMoved s.part d z.entered q) := by
  obtain ⟨r, hr, hlines⟩ : ∃ r, r = syncWarn d (q.setDoor d z.entered) ∧
      r = { q.setDoor d z.entered with lines := r.lines } := ⟨_, rfl, syncWarn_eq ..⟩
  have hdeck : s.part.DeckChange r := hr ▸ (h.deck.setDoor d _).syncWarn d
  have hfree : (r.claim (doorEntry d)).holder = none := by rw [hlines]; exact h.free
  have hzones : ∀ k ∈ r.doorZones d, (r.zone k).state = .secure ∨ (r.zone k).state = .loading := by
    rw [hlines]
    exact h.zones
  have hplan : r.plan = s.part.plan := by rw [hlines]; exact h.plan
  have hmoved : doorMoved s.part d z.entered q = recountZones d (s.part.door d).state z.state r := by
    rw [recountZones, countingZones_congr hplan, hr]
    rfl
  obtain ⟨a, ha, hdoes⟩ := doorReports_does (d := d) (hdeck.agenda.trans h.quiet.agenda) hfree hzones
    (s.part.door d).state z.state
  have hcounts := (recountZones_eq (d := d) (s.part.door d).state z.state r).1
  have hto : f s.part = r.emit (doorReports d (s.part.door d).state z.state) := by
    rw [hf, doorTo_eq (.inr ⟨by rw [Part.setDoor_same, h.record], hz⟩), Part.setDoor_same, Part.setDoor_setDoor,
      h.state, hr]
  rw [hmoved]
  refine ⟨_, h.runs, ran_of_does h.quiet hto hdoes (by omega) ?_⟩
  rw [hcounts]
  exact ⟨hdeck.agenda, hdeck.writes, hdeck.lanes, hdeck.generation, hdeck.port⟩

/-! ### Entries to CLOSED, LOCAL and FAULTED -/

theorem Door.entered_atRest {state : DoorState} {cause : Option DoorCause} (hd : state.dropsLane = true)
    (hc : state ≠ .closed) : Door.entered { y.atRest state with cause := cause } = doorRests state cause y :=
  Door.entered_drops hd hc

theorem State.ChangesDoor.closes (h : s.ChangesDoor c q d y f) (hf : f s.part = enterClosed d (q.setDoor d y)) :
    s.Leads c (doorMoved s.part d (doorShuts y) q) := by
  rw [enterClosed, Part.setDoor_same] at hf
  have hshuts : Door.entered { y.atRest .closed with retries := 0, cause := none } = doorShuts y :=
    Door.entered_closed rfl
  exact hshuts ▸ h.moves hf h.record

theorem State.ChangesDoor.faults (h : s.ChangesDoor c q d y f) {cause : DoorCause} (hs : (s.part.door d).state ≠ .faulted)
    (hf : f s.part = enterDoorFault d cause (q.setDoor d y)) :
    s.Leads c (doorMoved s.part d (doorRests .faulted (some cause) y) q) := by
  unfold enterDoorFault at hf
  dsimp only at hf
  rw [Part.setDoor_same, if_neg (h.state ▸ hs)] at hf
  exact Door.entered_atRest (y := y) (state := .faulted) (cause := some cause) rfl (by simp) ▸ h.moves hf h.record

theorem State.ChangesDoor.goesLocal (h : s.ChangesDoor c q d y f) (hf : f s.part = enterDoorLocal d (q.setDoor d y)) :
    s.Leads c (doorMoved s.part d (doorRests .localMode none y) q) := by
  rw [enterDoorLocal, Part.setDoor_same] at hf
  exact Door.entered_atRest (y := y) (state := .localMode) (cause := none) rfl (by simp) ▸ h.moves hf h.record

/-- A change to a state of the closing sequence. -/
theorem State.ChangesDoor.movesOn (h : s.ChangesDoor c q d y f) (hf : f s.part = doorTo d z ending (q.setDoor d y))
    (hz : z.waiting = none) (hs : z.state.inSequence = true) : s.Leads c (doorMoved s.part d z q) := by
  have hmoves := h.moves hf hz
  rwa [Door.entered_keeps hs] at hmoves

/-- A change to a state that removes the LANE origin. -/
theorem State.ChangesDoor.movesOff (h : s.ChangesDoor c q d y f) (hf : f s.part = doorTo d z ending (q.setDoor d y))
    (hz : z.waiting = none) (hs : z.state.dropsLane = true) (hc : z.state ≠ .closed) :
    s.Leads c (doorMoved s.part d { z with laneOrigin := false } q) := by
  have hmoves := h.moves hf hz
  rwa [Door.entered_drops hs hc] at hmoves

end

/-! ### The steps of a reply (R60) -/

section
variable {p : Part} {d : DoorId} {r : DoorReply}

/-- The order of the tests of a reply, once its fields are kept. -/
theorem doorReply_steps {p1 : Part} (hp : p1 = p.setDoor d { p.door d with last := r }) : doorReply d r p =
    if (p.door d).state = .faulted then p1
    else if r.localMode = true then (if (p.door d).state = .localMode then p1 else enterDoorLocal d p1)
    else if r.motorFault = true then enterDoorFault d .motor p1
    else if r.openLimit = true ∧ r.closedLimit = true then enterDoorFault d .limits p1
    else if (p.door d).state = .offline ∨ (p.door d).state = .localMode then takeLimits d p1
    else doorJudge d r p1 := by
  have hstate : (p1.door d).state = (p.door d).state := by rw [hp, Part.setDoor_same]
  unfold doorReply
  rw [← hp]
  dsimp only
  rw [hstate]
  cases (p.door d).state <;> simp

/-- R68: the closed limit ends every state that judges it so. -/
theorem doorJudge_closes (hc : r.closedLimit = true) (hf : (p.door d).state ≠ .faulted)
    (ho : (p.door d).state ≠ .offline ∧ (p.door d).state ≠ .localMode) (hn : (p.door d).state ≠ .closed)
    (hr : (p.door d).state ≠ .reversing) (hg : (p.door d).state ≠ .opening) : doorJudge d r p = enterClosed d p := by
  unfold doorJudge
  cases e : (p.door d).state <;> simp_all

theorem takeLimits_closes (hc : (p.door d).last.closedLimit = true) : takeLimits d p = enterClosed d p := by
  simp [takeLimits, hc]

/-- R77, R79, R80: with no ZONE origin the door is OPEN or HALTED, as its open limit says. -/
theorem takeLimits_rests (hc : (p.door d).last.closedLimit = false) (hz : (p.door d).zoneOrigin = false) :
    takeLimits d p = doorTo d { p.door d with
      state := if (p.door d).last.openLimit then .opened else .halted, cause := none } none p := by
  simp [takeLimits, hc, hz]

end

end Sys2Proof.Machine
end

section
/-! The exchange of a door's station (R60, R65 to R70, R77, R78, R80, R172, R173, R175, R176). -/

namespace Sys2Proof.Machine

theorem ownerOf_doorStation (d : DoorId) : ownerOf (doorStation d) = .door d := by
  unfold ownerOf doorStation
  rw [dif_neg (by simp), dif_pos (by simp; omega)]
  simp

theorem replyLength_doorStation (d : DoorId) : replyLength (doorStation d) = 4 := by
  rw [replyLength, ownerOf_doorStation]

theorem missLimit_doorStation (d : DoorId) : missLimit (doorStation d) = 2 := by
  rw [missLimit, ownerOf_doorStation]

/-! ### A reply -/

section
variable {s : State} {d : DoorId} {released : Bool} {bytes : List Byte} {r : DoorReply} {x y : Door} {q : Part}

/-- A whole valid reply of a door's station reaches the door. -/
theorem replyBytes_door (h : s.Answers (doorStation d) released bytes) :
    replyBytes bytes s.part = doorReply d (doorReplyOf bytes)
      (Part.setDoor d { s.part.door d with link := .online } (s.part.stationHeard (doorStation d) (byteAt bytes 1) 0)) := by
  have hwhole := h.whole
  have hvalid := h.valid
  rw [replyLength_doorStation] at hwhole hvalid
  have hbyte : byteAt (bytes.take 4) 1 = byteAt bytes 1 := by
    simp [byteAt, List.getD]
  have hreply : doorReplyOf (bytes.take 4) = doorReplyOf bytes := by
    simp only [doorReplyOf, hbyte]
  unfold replyBytes completeExchange
  rw [h.exchange]
  dsimp only
  rw [replyLength_doorStation, if_neg (by omega), Option.filter_some, hvalid]
  simp only [if_true, ownerOf_doorStation, deliverReply, hbyte, hreply, Bool.false_eq_true, if_false]
  rfl

/-- A whole valid reply `r` at door `d`: the deck is `q` with the station's record, the door's record goes from
`x` to `y`. -/
structure State.HearsDoor (s : State) (bytes : List Byte) (d : DoorId) (r : DoorReply) (x y : Door) (q : Part) :
    Prop where
  alone  : s.ChangesDoor (.reply bytes) q d y (replyBytes bytes)
  before : x = s.part.door d
  kept   : y = { x with link := .online, last := r }
  plan   : q.planDoor d = s.part.planDoor d
  steps  : replyBytes bytes s.part =
    if x.state = .faulted then q.setDoor d y
    else if r.localMode = true then (if x.state = .localMode then q.setDoor d y else enterDoorLocal d (q.setDoor d y))
    else if r.motorFault = true then enterDoorFault d .motor (q.setDoor d y)
    else if r.openLimit = true ∧ r.closedLimit = true then enterDoorFault d .limits (q.setDoor d y)
    else if x.state = .offline ∨ x.state = .localMode then takeLimits d (q.setDoor d y)
    else doorJudge d r (q.setDoor d y)

theorem hearsDoor_of_answers (ha : s.Answers (doorStation d) released bytes) (hr : r = doorReplyOf bytes)
    (hx : x = s.part.door d) (hy : y = { x with link := .online, last := r })
    (hq : q = s.part.stationHeard (doorStation d) (byteAt bytes 1) 0) (hw : x.waiting = none)
    (hfree : (s.part.claim (doorEntry d)).holder = none)
    (hz : ∀ k ∈ s.part.doorZones d, (s.part.zone k).state = .secure ∨ (s.part.zone k).state = .loading) :
    s.HearsDoor bytes d r x y q := by
  have hkept : q.setDoor d y = (q.setDoor d { x with link := .online }).setDoor d
      { (q.setDoor d { x with link := .online }).door d with last := r } := by
    rw [Part.setDoor_same, Part.setDoor_setDoor, hy]
  have hsteps := doorReply_steps hkept
  rw [Part.setDoor_same, hr, hx, hq, ← replyBytes_door ha, ← hq, ← hx, ← hr] at hsteps
  refine ⟨⟨ha.quiet, exec_reply ha.quiet bytes, hq ▸ stationHeard_deckChange .., ?_, ?_, ?_, ?_, ?_⟩, hx, hy, ?_, hsteps⟩
  · rw [hq]
    rfl
  · rw [hq]
    exact hfree
  · rw [hq]
    exact hz
  · rw [hy, ← hx]
  · rw [hy]
    exact hw
  · rw [hq]
    rfl

namespace State.HearsDoor

theorem state (h : s.HearsDoor bytes d r x y q) : y.state = x.state := by rw [h.kept]

/-- A reply that is kept and acts on nothing. -/
theorem ignored (h : s.HearsDoor bytes d r x y q)
    (hs : x.state = .faulted ∨ (x.state = .localMode ∧ r.localMode = true)) :
    s.Leads (.reply bytes) (q.setDoor d y) := by
  refine h.alone.keeps (h.steps.trans ?_)
  rcases hs with hs | ⟨hs, hl⟩
  · rw [if_pos hs]
  · rw [if_neg (by simp [hs]), if_pos hl, if_pos hs]

/-- R77: local mode. -/
theorem goesLocal (h : s.HearsDoor bytes d r x y q) (hf : x.state ≠ .faulted) (hn : x.state ≠ .localMode)
    (hl : r.localMode = true) : s.Leads (.reply bytes) (doorMoved s.part d (doorRests .localMode none y) q) :=
  h.alone.goesLocal (h.steps.trans (by rw [if_neg hf, if_pos hl, if_neg hn]))

/-- R78: the motor fault, then both limits. -/
theorem faults (h : s.HearsDoor bytes d r x y q) {cause : DoorCause} (hf : x.state ≠ .faulted) (hl : r.localMode = false)
    (hc : (r.motorFault = true ∧ cause = .motor) ∨
      (r.motorFault = false ∧ r.openLimit = true ∧ r.closedLimit = true ∧ cause = .limits)) :
    s.Leads (.reply bytes) (doorMoved s.part d (doorRests .faulted (some cause) y) q) := by
  refine h.alone.faults (h.before ▸ hf) (h.steps.trans ?_)
  rw [if_neg hf, if_neg (by simp [hl])]
  rcases hc with ⟨hm, rfl⟩ | ⟨hm, ho, hc, rfl⟩
  · rw [if_pos hm]
  · rw [if_neg (by simp [hm]), if_pos ⟨ho, hc⟩]

section
variable (h : s.HearsDoor bytes d r x y q) (hl : r.localMode = false) (hm : r.motorFault = false)
  (hb : r.openLimit = false ∨ r.closedLimit = false)
include h hl hm hb

/-- A door that was LOCAL or OFFLINE takes its state from the limits. -/
theorem takesLimits (hs : x.state = .offline ∨ x.state = .localMode) :
    replyBytes bytes s.part = takeLimits d (q.setDoor d y) := by
  have hf : x.state ≠ .faulted := by rcases hs with hs | hs <;> simp [hs]
  have hboth : ¬ (r.openLimit = true ∧ r.closedLimit = true) := by rcases hb with e | e <;> simp [e]
  rw [h.steps, if_neg hf, if_neg (by simp [hl]), if_neg (by simp [hm]), if_neg hboth, if_pos hs]

/-- Any other door but a FAULTED one judges the limits, the beam and the edge by its state. -/
theorem judges (hf : x.state ≠ .faulted) (hs : ¬ (x.state = .offline ∨ x.state = .localMode)) :
    replyBytes bytes s.part = doorJudge d r (q.setDoor d y) := by
  have hboth : ¬ (r.openLimit = true ∧ r.closedLimit = true) := by rcases hb with e | e <;> simp [e]
  rw [h.steps, if_neg hf, if_neg (by simp [hl]), if_neg (by simp [hm]), if_neg hboth, if_neg hs]

/-- R68: the closed limit. -/
theorem closes (hc : r.closedLimit = true) (hf : x.state ≠ .faulted) (hn : x.state ≠ .closed) (hr : x.state ≠ .reversing)
    (hg : x.state ≠ .opening) : s.Leads (.reply bytes) (doorMoved s.part d (doorShuts y) q) := by
  refine h.alone.closes ?_
  by_cases hs : x.state = .offline ∨ x.state = .localMode
  · rw [h.takesLimits hl hm hb hs, takeLimits_closes (by rw [Part.setDoor_same, h.kept]; exact hc)]
  · rw [h.judges hl hm hb hf hs]
    rw [← h.state] at hf hn hr hg hs
    exact doorJudge_closes hc (by rwa [Part.setDoor_same]) (by rwa [Part.setDoor_same, ← not_or])
      (by rwa [Part.setDoor_same]) (by rwa [Part.setDoor_same]) (by rwa [Part.setDoor_same])

/-- A CLOSED door that loses its limit is HALTED. -/
theorem closed (hs : x.state = .closed) :
    (r.closedLimit = true → s.Leads (.reply bytes) (q.setDoor d y)) ∧
    (r.closedLimit = false →
      s.Leads (.reply bytes) (doorMoved s.part d { y with state := .halted, laneOrigin := false } q)) := by
  have hjudge := h.judges hl hm hb (by simp [hs]) (by simp [hs])
  have hst := h.state.trans hs
  exact ⟨fun hc => h.alone.keeps (hjudge.trans (by simp [doorJudge, hst, hc])),
    fun hc => h.alone.movesOff (z := { y with state := .halted }) (ending := none)
      (hjudge.trans (by simp [doorJudge, hst, hc])) h.alone.record rfl (by simp)⟩

/-- R65, R66, R70: edge contact and the beam in CLOSING. -/
theorem closing (hs : x.state = .closing) (hc : r.closedLimit = false) :
    (r.edge = true → x.forced = true →
      s.Leads (.reply bytes) (doorMoved s.part d (doorRests .faulted (some .edge) y) q)) ∧
    (x.forced = false → r.edge = true ∨ r.beamBroken = true →
      s.Leads (.reply bytes) (doorMoved s.part d { y with
        state := .reversing, retries := Nat.min 8 (x.retries + 1),
        motionTimer := some (s.part.planDoor d).motionLimit } q)) ∧
    (r.edge = false → x.forced = true ∨ r.beamBroken = false → s.Leads (.reply bytes) (q.setDoor d y)) := by
  have hjudge := h.judges hl hm hb (by simp [hs]) (by simp [hs])
  have hst := h.state.trans hs
  have hforced : y.forced = x.forced := by rw [h.kept]
  have hretries : y.retries = x.retries := by rw [h.kept]
  refine ⟨fun he hf => ?_, fun hf he => ?_, fun he hf => h.alone.keeps (hjudge.trans ?_)⟩
  · exact h.alone.faults (by rw [← h.before, hs]; simp) (hjudge.trans (by simp [doorJudge, hst, hc, he, hforced, hf]))
  · rw [← hretries, ← h.plan]
    refine h.alone.movesOn (ending := none) (hjudge.trans ?_) h.alone.record rfl
    rcases he with he | he <;> simp [doorJudge, hst, hc, he, hforced, hf, enterReversing]
  · rcases hf with hf | hf <;> simp [doorJudge, hst, hc, he, hforced, hf]

/-- R67: the open limit in REVERSING. -/
theorem reversing (hs : x.state = .reversing) :
    (r.openLimit = false → s.Leads (.reply bytes) (q.setDoor d y)) ∧
    (r.openLimit = true → (s.part.planDoor d).retryDelay ≠ 0 →
      s.Leads (.reply bytes) (doorMoved s.part d { y with
        state := .retryWait, motionTimer := none, retryTimer := some (s.part.planDoor d).retryDelay } q)) := by
  have hjudge := h.judges hl hm hb (by simp [hs]) (by simp [hs])
  have hst := h.state.trans hs
  refine ⟨fun ho => h.alone.keeps (hjudge.trans (by simp [doorJudge, hst, ho])), fun ho hd => ?_⟩
  rw [← h.plan] at hd ⊢
  exact h.alone.movesOn (ending := none)
    (hjudge.trans (by simp [doorJudge, hst, ho, enterRetryWait, startTimer, hd])) h.alone.record rfl

/-- R73: the open limit in OPENING. -/
theorem opening (hs : x.state = .opening) :
    (r.openLimit = false → s.Leads (.reply bytes) (q.setDoor d y)) ∧
    (r.openLimit = true →
      s.Leads (.reply bytes) (doorMoved s.part d { doorRests .opened x.cause y with retries := 0 } q)) := by
  have hjudge := h.judges hl hm hb (by simp [hs]) (by simp [hs])
  have hst := h.state.trans hs
  have hcause : y.cause = x.cause := by rw [h.kept]
  refine ⟨fun ho => h.alone.keeps (hjudge.trans (by simp [doorJudge, hst, ho])), fun ho => ?_⟩
  rw [← hcause]
  exact h.alone.movesOff (z := { y.atRest .opened with retries := 0 }) (ending := some .done)
    (hjudge.trans (by simp [doorJudge, hst, ho])) h.alone.record rfl (by simp [Door.atRest])

/-- OPEN, HALTED, LOCAL and OFFLINE follow the limits. -/
theorem followsLimits (hc : r.closedLimit = false) {goal : DoorState}
    (hg : goal = if r.openLimit then .opened else .halted) :
    (x.state = goal → s.Leads (.reply bytes) (q.setDoor d y)) ∧
    ((x.state = .opened ∨ x.state = .halted) ∧ x.state ≠ goal →
      s.Leads (.reply bytes) (doorMoved s.part d { y with state := goal, laneOrigin := false } q)) ∧
    ((x.state = .offline ∨ x.state = .localMode) ∧ x.zoneOrigin = false →
      s.Leads (.reply bytes) (doorMoved s.part d { y with state := goal, laneOrigin := false, cause := none } q)) := by
  have hgoal : goal.dropsLane = true ∧ goal ≠ .closed := by rw [hg]; split <;> decide
  have hopen : x.state = .opened ∨ x.state = .halted → replyBytes bytes s.part =
      if x.state = goal then q.setDoor d y else doorTo d { y with state := goal } none (q.setDoor d y) := fun hs => by
    rw [h.judges hl hm hb (by rcases hs with e | e <;> simp [e]) (by rcases hs with e | e <;> simp [e]), hg]
    rcases hs with e | e <;> simp [doorJudge, h.state, e, hc]
  refine ⟨fun hs => ?_, fun ⟨hs, hne⟩ => ?_, fun ⟨hs, hz⟩ => ?_⟩
  · have hrest : x.state = .opened ∨ x.state = .halted := by rw [hs, hg]; split <;> simp
    exact h.alone.keeps ((hopen hrest).trans (if_pos hs))
  · exact h.alone.movesOff (z := { y with state := goal }) ((hopen hs).trans (if_neg hne)) h.alone.record hgoal.1 hgoal.2
  · have hlimits := takeLimits_rests (p := q.setDoor d y) (d := d) (by rw [Part.setDoor_same, h.kept]; exact hc)
      (by rw [Part.setDoor_same, h.kept]; exact hz)
    have hlast : y.last.openLimit = r.openLimit := by rw [h.kept]
    rw [Part.setDoor_same, hlast, ← hg] at hlimits
    exact h.alone.movesOff (z := { y with state := goal, cause := none }) ((h.takesLimits hl hm hb hs).trans hlimits)
      h.alone.record hgoal.1 hgoal.2

/-- The states that heed the closed limit alone. -/
theorem unmoved (hc : r.closedLimit = false)
    (hs : x.state = .blocked ∨ x.state = .warning ∨ x.state = .waitClear ∨ x.state = .retryWait) :
    s.Leads (.reply bytes) (q.setDoor d y) := by
  refine h.alone.keeps ?_
  rw [h.judges hl hm hb (by rcases hs with e | e | e | e <;> simp [e]) (by rcases hs with e | e | e | e <;> simp [e])]
  rcases hs with e | e | e | e <;> simp [doorJudge, h.state, e, hc]

end

end State.HearsDoor

/-- A whole valid reply, by the door's state (R60). -/
theorem doorReplyActs_holds : doorReplyActs := by
  intro s d released bytes r x y q ha hr hx hy hq hw hfree hz
  have h := hearsDoor_of_answers ha hr hx hy hq hw hfree hz
  refine ⟨h.ignored, h.goesLocal, fun cause => h.faults, fun hl hm hb => ?_⟩
  exact ⟨h.closes hl hm hb, fun hc hs => (h.closed hl hm hb hs).1 hc, fun hc hs => (h.closed hl hm hb hs).2 hc,
    fun hc hs => h.closing hl hm hb hs hc, h.reversing hl hm hb, h.opening hl hm hb,
    fun goal hc hg => h.followsLimits hl hm hb hc hg, fun hc hs => h.unmoved hl hm hb hc hs⟩

end

/-! ### A miss -/

/-- The station's record after a miss (R175, Table 9-4), as `stationMissed` has it. -/
theorem onMiss_eq (y : Station) (limit : Nat) : y.onMiss limit =
    { y with
      state := if y.state = .lost ∨ limit ≤ y.misses + 1 then .lost else if y.state = .unknown then .unknown else .missing,
      misses := if y.state = .lost ∨ limit ≤ y.misses + 1 then limit else y.misses + 1 } := by
  unfold Station.onMiss
  by_cases hl : y.state = .lost
  · simp only [hl, true_or, if_true]
  · by_cases hm : y.misses + 1 < limit
    · simp only [hl, hm, false_or, Nat.not_le.2 hm, if_true, if_false]
    · simp only [hl, hm, false_or, Nat.not_lt.1 hm, if_true, if_false]

/-- An exchange that completes as a miss: the station's record, and what reaches the owner. -/
theorem replyWindowClose_missed {p : Part} {st : StationId} {released : Bool}
    (hx : p.field.exchange = some { station := st, released := released, discard := false }) :
    replyWindowClose p = deliverMiss st (p.station st).state ((p.station st).onMiss (missLimit st)).state released
      (stationMissed st (missLimit st) p) := by
  obtain ⟨limit, hlimit⟩ : ∃ limit, limit = missLimit st := ⟨_, rfl⟩
  unfold replyWindowClose completeExchange
  rw [hx]
  simp only [Bool.false_eq_true, if_false, Option.filter_none, ← hlimit]
  congr 1
  rw [show ({ p with field := { p.field with exchange := none } } : Part).station st = p.station st from rfl, onMiss_eq,
    stationMissed]
  by_cases hl : (p.station st).state = .lost
  · simp [hl]
  · by_cases hm : limit ≤ (p.station st).misses + 1
    · simp [hl, hm, countLoss, Part.setStation]
    · have hstate : (if (p.station st).state = .unknown then LinkCond.unknown else .missing) ≠ .lost := by
        split <;> simp
      simp [hl, hm, hstate]

section
variable {s : State} {d : DoorId} {released : Bool}
  (hx : s.part.field.exchange = some { station := doorStation d, released := released, discard := false })
include hx

/-- A miss reaches the door: its link condition, and the loss of the station. -/
theorem replyWindowClose_door {q : Part} {link : LinkCond} (hq : q = stationMissed (doorStation d) 2 s.part)
    (hlink : link = ((s.part.station (doorStation d)).onMiss 2).state) :
    replyWindowClose s.part =
      if link = .lost ∧ (s.part.station (doorStation d)).state ≠ .lost then
        enterDoorFault d .link (q.setDoor d { s.part.door d with link := link })
      else q.setDoor d { s.part.door d with link := link } := by
  rw [replyWindowClose_missed hx, missLimit_doorStation, deliverMiss, ownerOf_doorStation, ← hlink, ← hq]
  dsimp only
  rw [show q.door d = s.part.door d by rw [hq]; rfl]
  rfl

end

/-- A miss, by the station's count and the door's state (R78, R175, R176). -/
theorem doorMissActs_holds : doorMissActs := by
  intro s d released q y x hs hx hq hy hxd hw hfree hz
  obtain ⟨link, hlink⟩ : ∃ link, link = (y.onMiss 2).state := ⟨_, rfl⟩
  have hmiss := replyWindowClose_door hx hq (hlink.trans (by rw [hy]))
  rw [← hy, ← hxd] at hmiss
  rw [onMiss_eq] at hlink
  dsimp only at hlink
  have hchanges : s.ChangesDoor .replyWindowClose q d { x with link := link } replyWindowClose := by
    refine ⟨hs, exec_replyWindowClose hs, hq ▸ stationMissed_deckChange .., ?_, ?_, ?_, by rw [hxd], hw⟩
    · rw [hq]
      rfl
    · rw [hq]
      exact hfree
    · rw [hq]
      exact hz
  refine ⟨fun hlost hlostx => ?_, fun hn hcount => ?_, fun hn hcount => ?_⟩
  · rw [if_pos (.inl hlost)] at hlink
    have hsame : q.setDoor d { x with link := link } = q := by
      have hdoor : q.door d = x := by rw [hq, hxd]; rfl
      rw [hlink, ← hlostx, ← hdoor]
      exact Part.setDoor_self q d
    have := hchanges.keeps (hmiss.trans (if_neg (fun h => h.2 hlost)))
    rwa [hsame] at this
  · rw [if_neg (by simp [hn]; omega)] at hlink
    have hnot : link ≠ .lost := by rw [hlink]; split <;> simp
    rw [← hlink]
    exact hchanges.keeps (hmiss.trans (if_neg (fun h => hnot h.1)))
  · rw [if_pos (.inr hcount)] at hlink
    have hloses := hmiss.trans (if_pos ⟨hlink, hn⟩)
    rw [← hlink]
    refine ⟨fun hf => hchanges.keeps (hloses.trans ?_), fun hf => hchanges.faults (hxd ▸ hf) hloses⟩
    unfold enterDoorFault
    dsimp only
    rw [Part.setDoor_same, if_pos hf]

end Sys2Proof.Machine
end

section
/-! The door's lead, motion timer and retry delay (R62, R64, R67, R78), and the statement on its timers and exchanges. -/

namespace Sys2Proof.Machine

theorem inMotionSet_iff (state : MoverState) :
    state.inMotionSet = false ↔ state ≠ .releasing ∧ state ≠ .moving ∧ state ≠ .stopping := by
  cases state <;> decide

theorem doorMoversClear_iff (p : Part) (d : DoorId) : p.doorMoversClear d = true ↔
    ∀ k ∈ p.doorZones d, ∀ m ∈ p.zoneMovers k, (p.mover m).motion.state ≠ .releasing ∧
      (p.mover m).motion.state ≠ .moving ∧ (p.mover m).motion.state ≠ .stopping := by
  simp only [Part.doorMoversClear, List.all_eq_true, Bool.not_eq_true', inMotionSet_iff]

section
variable {s : State} {d : DoorId}

theorem exec_leadExpiry (h : s.Quiet) (hs : (s.part.door d).state = .warning)
    (hl : (s.part.door d).lead ≤ (s.part.door d).leadCounter) :
    exec (.leadExpiry d) s = .next (runLocal (leadExpiry d) s) := by
  show Host.Outcome.next (unlessReset (leadTick d) s) = _
  rw [unlessReset_quiet h, leadTick, runWhen_due (by simp [leadReached, hs, hl])]

theorem exec_motionTimerExpiry (h : s.Quiet) (ht : (s.part.door d).motionTimer = some 0) :
    exec (.motionTimerExpiry d) s = .next (runLocal (motionTimerExpiry d) s) := by
  show Host.Outcome.next (unlessReset (motionTick d) s) = _
  rw [unlessReset_quiet h, motionTick, runWhen_due (by rw [ht]; rfl)]

theorem exec_retryDelayExpiry (h : s.Quiet) (ht : (s.part.door d).retryTimer = some 0) :
    exec (.retryDelayExpiry d) s = .next (runLocal (retryDelayExpiry d) s) := by
  show Host.Outcome.next (unlessReset (retryTick d) s) = _
  rw [unlessReset_quiet h, retryTick, runWhen_due (by rw [ht]; rfl)]

/-- R64: the lead is reached. -/
theorem leadExpiry_eq {p : Part} (hs : (p.door d).state = .warning) : leadExpiry d p =
    syncWarn d (p.setDoor d (if (∀ k ∈ p.doorZones d, ∀ m ∈ p.zoneMovers k, (p.mover m).motion.state ≠ .releasing ∧
        (p.mover m).motion.state ≠ .moving ∧ (p.mover m).motion.state ≠ .stopping) then
      { p.door d with state := .closing, motionTimer := some (p.planDoor d).motionLimit }
      else { p.door d with state := .waitClear })) := by
  have hopen : (p.door d).state ≠ .closed := by simp [hs]
  unfold leadExpiry
  by_cases hc : p.doorMoversClear d = true
  · rw [if_pos hc, if_pos ((doorMoversClear_iff p d).1 hc)]
    exact doorTo_inSequence hopen rfl
  · rw [if_neg hc, if_neg (mt (doorMoversClear_iff p d).2 hc)]
    exact doorTo_inSequence hopen rfl

/-- R78: the motion timer in CLOSING. -/
theorem motionTimerExpiry_closing {p : Part} (hs : (p.door d).state = .closing) (hw : (p.door d).waiting = none) :
    motionTimerExpiry d p = (syncWarn d (p.setDoor d (doorRests .faulted (some .closeTime) (p.door d)))).emit
      (claimReports d .faulted) := by
  have hchange := doorTo_eq (p := p) (d := d) (x := { (p.door d).atRest .faulted with cause := some .closeTime })
    (ending := some .failed) (.inr ⟨hw, hw⟩)
  rw [Door.entered_atRest rfl (by simp), hs] at hchange
  unfold motionTimerExpiry enterDoorFault
  rw [if_pos hs]
  dsimp only
  rw [if_neg (by simp [hs])]
  exact hchange.trans (congrArg (Part.emit · _)
    (doorReports_open (by simp [Door.atRest]) (by simp) (by simp [Door.atRest])))

/-- R67: the retry delay, where the plan leaves a retry. -/
theorem retryDelayExpiry_warns {p : Part} (hs : (p.door d).state = .retryWait)
    (hr : (p.door d).retries ≤ (p.planDoor d).retries) (hl : p.chosenLead d (p.door d) ≠ 0) :
    retryDelayExpiry d p = syncWarn d (p.setDoor d ((p.door d).warned (p.chosenLead d (p.door d)))) :=
  (if_pos hr).trans (enterWarning_eq (by simp [hs]) hl)

end

/-- Settles O21: the timers' expiries are one change of the door's record each; the reply and the miss are such a change by
the door's state, whose reports come to the zones' counts. -/
theorem doorTimersExpire : Obligations.DoorTimersExpire := by
  have hdeck := fun (p : Part) d x => ((Part.DeckChange.refl p).setDoor d x).syncWarn d
  refine ⟨doorReplyActs_holds, doorMissActs_holds, fun s d hq hs hl => ?_, fun s d hq hw hfree =>
    ⟨fun ht hs => ?_, fun ht hs hr hl => ?_⟩⟩
  · exact ⟨_, exec_leadExpiry hq hs hl, ran_of_deckChange hq (leadExpiry_eq hs) (hdeck ..)⟩
  · refine ⟨_, exec_motionTimerExpiry hq ht, ran_of_idle_acts hq (motionTimerExpiry_closing hs hw)
      (claimReports_idle ?_ _) ((claimReports_length ..).trans (by omega)) (hdeck ..)⟩
    rw [syncWarn_eq]
    exact hfree
  · exact ⟨_, exec_retryDelayExpiry hq ht, ran_of_deckChange hq (retryDelayExpiry_warns hs hr hl) (hdeck ..)⟩

end Sys2Proof.Machine
end

section
/-! CLOSE DOOR and FORCE CLOSE (R62, R71, R72, R76). -/

namespace Sys2Proof.Machine

/-- The order that asks for a close, by whether it forces it. -/
def closeKind (force : Bool) : OrderKind := if force then .forceClose else .closeDoor

/-- The two orders at Door Control (R72, R76). -/
def closeOrder (force : Bool) : Lane → Part → Part := if force then orderForceClose else orderCloseDoor

/-- The LANE close request of the two orders at Door Control (R72, R76). -/
def closeRequest (force : Bool) : DoorId → Part → Part := if force then laneForce else laneClose

/-- The record with the LANE origin at the beginning of a closing sequence. -/
def Door.askedToClose (x : Door) (force : Bool) : Door := { x with laneOrigin := true, forced := force, retries := 0 }

/-- A close order that leaves a door in this state as it is ends with this code. -/
def closeEnds (state : DoorState) (code : ResultCode) : Prop :=
  (state = .closed ∧ code = .done) ∨ (state = .localMode ∧ code = .localMode) ∨
    ((state = .faulted ∨ state = .offline) ∧ code = .faulted)

theorem closeRequest_warns {p : Part} {d : DoorId} (force : Bool)
    (hs : (p.door d).state = .opened ∨ (p.door d).state = .halted) (hf : (p.door d).forced = false) :
    closeRequest force d p = enterWarning d ((p.door d).askedToClose force) none p := by
  cases force
  · rcases hs with hs | hs <;> simp [closeRequest, laneClose, hs, hf, Door.sequenceBegins, Door.askedToClose]
  · rcases hs with hs | hs <;> simp [closeRequest, laneForce, hs, Door.sequenceBegins, Door.askedToClose]

section
variable {n : Lane} {c : LaneContext} {w : List Host.Cell} {p : Part} {link : Half} {head : OrderHead} {d : DoorId}
  {force : Bool}

theorem blockOrder_close {q : Part} (hb : q.currentBytes n = doorImage head (closeKind force) d) (m : List Host.Cell) :
    blockOrder n m q = closeOrder force n q := by
  unfold blockOrder
  rw [hb, imageKind_orderImage]
  cases force <;> rfl

section
variable {q : Part} (hd : paramDoor (q.currentBytes n) = d)
include hd

/-- The order ends at once where the door's state refuses it or is CLOSED. -/
theorem closeOrder_ends {code : ResultCode} (hcode : closeEnds (q.door d).state code) :
    closeOrder force n q = q.emit [.orderEnds n (doorResult n code q)] := by
  cases force <;> rcases hcode with ⟨hs, rfl⟩ | ⟨hs, rfl⟩ | ⟨hs | hs, rfl⟩ <;>
    simp [closeOrder, orderCloseDoor, orderForceClose, hd, hs, DoorState.refusal]

/-- From OPEN and HALTED the request begins a closing sequence, which the order waits for or leaves STARTED. -/
theorem closeOrder_requests (hs : (q.door d).state = .opened ∨ (q.door d).state = .halted) :
    closeOrder force n q = doorStartedOrWaits d n (closeRequest force d q) := by
  cases force <;> rcases hs with hs | hs <;>
    simp [closeOrder, closeRequest, orderCloseDoor, orderForceClose, hd, hs, DoorState.refusal]

end

/-- The request in the middle of the order takes the door to WARNING with the lead chosen (R62). -/
theorem closeRequest_midOrder {e : EntryId} {cl : Claim} {x : Door}
    (hs : (p.door d).state = .opened ∨ (p.door d).state = .halted) (hf : (p.door d).forced = false)
    (hx : x = ((p.door d).askedToClose force).warned (p.chosenLead d ((p.door d).askedToClose force))) (hl : x.lead ≠ 0) :
    closeRequest force d (midOrder n c w (p.setClaim e cl)) =
      midOrder n c w ((syncWarn d (p.setDoor d x)).setClaim e cl) := by
  have hdoor : (midOrder n c w (p.setClaim e cl)).door d = p.door d := rfl
  have hlead : (midOrder n c w (p.setClaim e cl)).chosenLead d ((p.door d).askedToClose force) = x.lead := by
    rw [hx]
    rfl
  have hopen : (p.door d).state ≠ .closed := by rcases hs with h | h <;> simp [h]
  rw [closeRequest_warns force (by rwa [hdoor]) (by rwa [hdoor]), hdoor,
    enterWarning_eq (by rwa [hdoor]) (by rwa [hlead]), hlead, midOrder_setDoor, syncWarn_midOrder, syncWarn_setClaim]
  congr 4
  rw [hx]

/-! ### The orders at their block -/

theorem blockOrder_closeEnds {code : ResultCode}
    (hc : c.current = some (heldBy link head (doorImage head (closeKind force) d)))
    (hcode : closeEnds (p.door d).state code) (m : List Host.Cell) : blockOrder n m (midOrder n c w p) =
      (midOrder n c w p).emit [.orderEnds n (doorShown code d (p.door d).state (p.door d).retries)] := by
  have hbytes := midOrder_currentBytes n c w p _ hc
  rw [blockOrder_close hbytes, closeOrder_ends (q := midOrder n c w p) (by rw [hbytes, paramDoor_orderImage]) hcode,
    doorResult_midOrder hc rfl]

theorem blockOrder_closeWarns {e : EntryId} {cl : Claim} {x : Door}
    (hc : c.current = some (heldBy link head (doorImage head (closeKind force) d)))
    (hs : (p.door d).state = .opened ∨ (p.door d).state = .halted) (hf : (p.door d).forced = false)
    (hx : x = ((p.door d).askedToClose force).warned (p.chosenLead d ((p.door d).askedToClose force))) (hl : x.lead ≠ 0) (m : List Host.Cell) :
    blockOrder n m (midOrder n c w (p.setClaim e cl)) =
      doorStartedOrWaits d n (midOrder n c w ((syncWarn d (p.setDoor d x)).setClaim e cl)) := by
  have hbytes := midOrder_currentBytes n c w (p.setClaim e cl) _ hc
  rw [blockOrder_close hbytes,
    closeOrder_requests (q := midOrder n c w (p.setClaim e cl)) (by rw [hbytes, paramDoor_orderImage]) hs,
    closeRequest_midOrder hs hf hx hl]

end

/-- Settles O52: an order that ends at once gives its claim back; the request from OPEN and HALTED is the entry to WARNING
with the claim kept. -/
theorem doorCloseOrders : Obligations.DoorCloseOrders := by
  intro s n link head d force c kind x q ht hplan hf hc
  have hbridge : kind = .forceClose → (s.part.lane n).bridge = true := by
    rcases hc with ⟨-, hb, -, -⟩ | ⟨-, -, rfl⟩
    · exact fun _ => hb
    · exact fun h => by cases h
  obtain ⟨hkind, hexec⟩ : kind = closeKind force ∧ exec c s = .next (runOrder n (doorImage head kind d) s) := by
    rcases hc with ⟨rfl, -, rfl, rfl⟩ | ⟨rfl, rfl, rfl⟩ <;> exact ⟨rfl, exec_order ht rfl⟩
  have hkinds : kind = .closeDoor ∨ kind = .openDoor ∨ kind = .forceClose := by
    rw [hkind]
    cases force <;> simp [closeKind]
  subst hkind
  refine ⟨fun code hcode ha => ⟨_, hexec, ?_⟩, fun hs hw hforced hx hl hq => ?_⟩
  · have hsteady : (s.part.door d).state.steady = true := by
      rcases hcode with ⟨hs, -⟩ | ⟨hs, -⟩ | ⟨hs | hs, -⟩ <;> rw [hs] <;> rfl
    exact doorOrder_endsAtOnce ht hplan hf hkinds hbridge code (fun mm c w hcur _ =>
      blockOrder_closeEnds (p := s.part.setClaim (doorEntry d) (implicitOf n)) hcur hcode mm) hsteady ha
  · have hunwaited : { x with waiting := none } = { (s.part.door d).askedToClose force with
        state := .warning, leadCounter := 0, motionTimer := none, retryTimer := none,
        lead := s.part.chosenLead d ((s.part.door d).askedToClose force) } := by
      rw [chosenLead_eq, hx, ← hw]
      rfl
    obtain ⟨hends, hwaits⟩ := doorOrder_starts (x := x) ht hplan hf.isOpen hkinds hbridge (by rw [hx])
      (fun mm c w hcur _ => blockOrder_closeWarns hcur hs hforced hunwaited hl mm) (by rw [hx]; rfl) hq
    rw [show x.state = .warning by rw [hx]] at hends
    exact ⟨fun h => ⟨_, hexec, hends h⟩, fun h => ⟨_, hexec, hwaits h⟩⟩

end Sys2Proof.Machine
end

section
/-! CLEAR DOOR FAULT (R79). -/

namespace Sys2Proof.Machine

section
variable {n : Lane} {link : Half} {st : Bool} {head : OrderHead} {d : DoorId} {p : Part} {im : List Byte}

theorem syncWarn_takenPart : syncWarn d (takenPart n link st im p) = takenPart n link st im (syncWarn d p) := by
  have hlanes : (syncWarn d p).lanes = p.lanes := by rw [syncWarn_eq]
  have hwrites : (syncWarn d p).writes = p.writes := by rw [syncWarn_eq]
  have hnow : (syncWarn d p).now = p.now := by rw [syncWarn_eq]; rfl
  have hmid : ∀ q : Part, q.lanes = p.lanes → q.writes = p.writes → q.now = p.now → takenPart n link st im q =
      midOrder n ((takenPart n link st im p).lane n) (takenPart n link st im p).writes q := fun q h1 h2 h3 => by
    rw [takenPart_lane_same, takenPart_writes, takenPart_eq, midOrder, Part.lane, h1, h2, h3]
    rfl
  rw [hmid p rfl rfl rfl, hmid _ hlanes hwrites hnow, ← syncWarn_midOrder, hmid p rfl rfl rfl]

theorem doorResult_takenPart {kind : OrderKind} (code : ResultCode) :
    doorResult n code (takenPart n link st (doorImage head kind d) p) =
      doorShown code d (p.door d).state (p.door d).retries := by
  unfold doorResult
  simp only [takenPart_currentBytes, paramDoor_orderImage, takenPart_door]
  rfl

/-- R79: a fault stays while its station is not ONLINE or its last reply still shows it. -/
theorem doorFaultClears_iff : p.doorFaultClears d = true ↔
    (p.station (doorStation d)).state = .online ∧ (p.door d).last.motorFault = false ∧
      ¬ ((p.door d).last.openLimit = true ∧ (p.door d).last.closedLimit = true) ∧
      ¬ ((p.door d).cause = some .edge ∧ (p.door d).last.edge = true) := by
  unfold Part.doorFaultClears
  simp only [Bool.and_eq_true, beq_iff_eq, Bool.not_eq_true', Bool.or_eq_true, bne_iff_ne, not_and, ne_eq, and_assoc,
    Bool.and_eq_false_imp, Bool.not_eq_true, ← imp_iff_not_or]

theorem clearDoorFault_other (hs : (p.door d).state ≠ .faulted) :
    orderClearDoorFault n (takenPart n link st (doorImage head .clearDoorFault d) p) =
      (takenPart n link st (doorImage head .clearDoorFault d) p).emit
        [.orderEnds n (doorShown .done d (p.door d).state (p.door d).retries)] := by
  unfold orderClearDoorFault
  simp only [takenPart_currentBytes, paramDoor_orderImage, takenPart_door, doorResult_takenPart]
  exact if_pos hs

theorem clearDoorFault_refused {cause : DoorCause} (hs : (p.door d).state = .faulted)
    (hcause : (p.door d).cause = some cause) (hno : p.doorFaultClears d = false) :
    orderClearDoorFault n (takenPart n link st (doorImage head .clearDoorFault d) p) =
      (takenPart n link st (doorImage head .clearDoorFault d) p).emit
        [.orderEnds n (doorShown .faulted d .faulted (cause.num + 1))] := by
  have hno' : (takenPart n link st (doorImage head .clearDoorFault d) p).doorFaultClears d = false := by
    rw [takenPart_eq]
    exact hno
  unfold orderClearDoorFault
  simp [doorResult_takenPart, paramDoor_orderImage, hs, hcause, hno', doorShown, Result.of]

/-- The record of a FAULTED door that is OPEN again. -/
def Door.clearedOpen (x : Door) : Door := { x with state := .opened, cause := none, laneOrigin := false }

theorem clearDoorFault_opens (ha : p.agenda = []) (hs : (p.door d).state = .faulted) (hyes : p.doorFaultClears d = true)
    (ho : (p.door d).last.openLimit = true) (hc : (p.door d).last.closedLimit = false)
    (hl : (p.door d).last.localMode = false) (hz : (p.door d).zoneOrigin = false) :
    orderClearDoorFault n (takenPart n link st (doorImage head .clearDoorFault d) p) =
      (takenPart n link st (doorImage head .clearDoorFault d) (syncWarn d (p.setDoor d (p.door d).clearedOpen))).emit
        (.orderEnds n (doorShown .done d .opened (p.door d).retries) :: claimReports d .opened) := by
  obtain ⟨T, hT⟩ : ∃ T, T = takenPart n link st (doorImage head .clearDoorFault d) p := ⟨_, rfl⟩
  obtain ⟨q, hq⟩ : ∃ q, q = takenPart n link st (doorImage head .clearDoorFault d)
    (syncWarn d (p.setDoor d (p.door d).clearedOpen)) := ⟨_, rfl⟩
  have hdoor : T.door d = p.door d := by rw [hT, takenPart_door]
  have hbytes : T.currentBytes n = doorImage head .clearDoorFault d := by rw [hT, takenPart_currentBytes]
  have hyes' : T.doorFaultClears d = true := by
    rw [hT, takenPart_eq]
    exact hyes
  have hopens : takeLimits d T = q.emit (claimReports d .opened) := by
    have hentered : Door.entered { p.door d with state := .opened, cause := none } = (p.door d).clearedOpen :=
      Door.entered_drops rfl (by simp)
    rw [takeLimits_rests (by rw [hdoor, hc]) (by rw [hdoor, hz]), doorTo_eq (.inl rfl), hdoor, hs, if_pos ho, hentered, hT,
      takenPart_setDoor, syncWarn_takenPart, ← hq]
    exact congrArg q.emit (doorReports_open (by simp) (by simp) (by simp))
  have hresult : doorResult n .done (q.emit (claimReports d .opened)) = doorShown .done d .opened (p.door d).retries := by
    have := doorResult_takenPart (n := n) (link := link) (st := st) (head := head) (d := d) (kind := .clearDoorFault)
      (p := syncWarn d (p.setDoor d (p.door d).clearedOpen)) .done
    rw [← hq, syncWarn_door, Part.setDoor_same] at this
    exact this
  have hagenda : q.agenda = [] := by
    rw [hq, takenPart_agenda, syncWarn_eq]
    exact ha
  rw [← hT, ← hq]
  unfold orderClearDoorFault
  simp only [hbytes, paramDoor_orderImage, hdoor, hs, hyes', hl, hopens, hresult, ne_eq, not_true_eq_false, Bool.not_true,
    Bool.false_eq_true, if_false]
  simp [Part.retireFirst, Part.emit, hagenda]

end

/-- Settles O54: CLEAR DOOR FAULT needs no claim and ends at once, before the report of the door's new state. -/
theorem clearDoorFaultTests : Obligations.ClearDoorFaultTests := by
  intro s n link head d q ht hplan
  have hdone : ∀ state retries, (doorShown .done d state retries).code.failure = true → head.alternate ≠ 0 :=
    fun _ _ h => absurd h (show ¬ ResultCode.done.failure = true by decide)
  have hexec : exec (.clearDoorFault n head (BitVec.ofNat 8 d.val)) s =
    .next (runOrder n (doorImage head .clearDoorFault d) s) := exec_order ht rfl
  have hentry : s.part.claimEntry (doorImage head .clearDoorFault d) = none := by
    unfold Part.claimEntry
    rw [imageKind_orderImage]
  have hparams := doorOrder_paramChecks s.part head (kind := .clearDoorFault) (by simp) d
  have hbridge : needsBridge (doorImage head .clearDoorFault d) .clearDoorFault = true → (s.part.lane n).bridge = true :=
    fun h => absurd h (by simp [needsBridge])
  have hblock : ∀ mm, blockOrder n mm (takenPart n link head.standing (doorImage head .clearDoorFault d) s.part) =
      orderClearDoorFault n (takenPart n link head.standing (doorImage head .clearDoorFault d) s.part) := fun mm => by
    unfold blockOrder
    rw [takenPart_currentBytes, imageKind_orderImage]
  refine ⟨fun hs => ⟨_, hexec, ?_⟩, fun cause hs hcause ha hwhy => ⟨_, hexec, ?_⟩,
    fun hs hon hm ho hc hl hedge hz hfree hq => ⟨_, hexec, ?_⟩⟩
  · exact order_done_taken ht (by simp) hparams (.inl hplan) hbridge hentry
      (fun mm => (hblock mm).trans (clearDoorFault_other hs)) (hdone _ _) rfl rfl rfl rfl rfl rfl
  · have hno : s.part.doorFaultClears d = false := by
      rw [← Bool.not_eq_true, doorFaultClears_iff]
      rintro ⟨hon, hm, hlimits, hedge⟩
      rcases hwhy with h | h | h | ⟨rfl, h⟩
      · exact h hon
      · exact absurd (h.symm.trans hm) (by simp)
      · exact hlimits h
      · exact hedge ⟨hcause, h⟩
    exact order_done_taken ht (by simp) hparams (.inl hplan) hbridge hentry
      (fun mm => (hblock mm).trans (clearDoorFault_refused hs hcause hno)) (fun _ => ha) rfl rfl rfl rfl rfl rfl
  · have hyes : s.part.doorFaultClears d = true :=
      doorFaultClears_iff.2 ⟨hon, hm, by simp [hc], fun h => absurd (h.2.symm.trans (hedge h.1)) (by simp)⟩
    have hopens := clearDoorFault_opens (n := n) (link := link) (st := head.standing) (head := head)
      ht.takes.quiet.agenda hs hyes ho hc hl hz
    have hdeck : s.part.DeckChange q := hq ▸ ((Part.DeckChange.refl _).setDoor d _).syncWarn d
    have hqe : q = { s.part.setDoor d (s.part.door d).clearedOpen with lines := q.lines } :=
      hq.trans (hq ▸ syncWarn_eq ..)
    rw [← show q = syncWarn d (s.part.setDoor d (s.part.door d).clearedOpen) from hq] at hopens
    refine order_done_among (pre := []) ht (by simp) hparams (.inl hplan) hbridge hentry
      (fun mm => (hblock mm).trans hopens) (by have := claimReports_length d .opened; simp; omega) (by simp)
      (fun mm => claimReports_idle ?_ _ mm) (hdone _ _) hdeck.lanes hdeck.writes ?_ hdeck.agenda hdeck.generation
      (by rw [hdeck.port])
    · obtain ⟨ws, ov, oc, fs, hends⟩ := orderEnds_leaves (n := n) (head := head) (k := .clearDoorFault)
        (params := [BitVec.ofNat 8 d.val]) (r := doorShown .done d .opened (s.part.door d).retries)
        (q := takenPart n link head.standing (doorImage head .clearDoorFault d) q) (by rw [takenPart_lane_same]) rfl
        (hdone _ _)
      rw [hends]
      refine (congrArg Claim.holder (takenPart_claim ..)).trans ?_
      rw [hqe]
      exact hfree
    · rw [hqe]
      rfl

end Sys2Proof.Machine
end

section
/-! What the operations of Call Control do (R91 to R98, R105): a repeat, the service of a call, its end, the selection. -/

namespace Sys2Proof.Machine

/-! ### Chime demands -/

theorem afterDemand_congr {p q : Part} (hp : q.plan = p.plan) (k : LineId) (g : Generator) :
    q.afterDemand k g = p.afterDemand k g := by
  have hf : q.inForce = p.inForce := by simp only [Part.inForce, hp]
  have hr : ∀ g, q.restartLine k g = p.restartLine k g := fun g => by
    simp only [Part.restartLine, Part.highestPattern, Part.planZone, Part.shownOf, Part.pattern, hf]
  simp only [Part.afterDemand, hr]

theorem withdrawChime_congr {p q : Part} (hl : q.lines = p.lines) (hp : q.plan = p.plan) (k : LineId) :
    (withdrawChime k q).lines = (withdrawChime k p).lines := by
  have hg : q.line k = p.line k := by simp only [Part.line, hl]
  simp only [withdrawChime, hg, afterDemand_congr hp]
  split
  · split <;> simp [hl]
  · exact hl

/-- Withdrawing on lines reads no more of the part than the plan and the lines. -/
theorem withdrawChimes_congr (l : List LineId) {p q : Part} (hl : q.lines = p.lines) (hp : q.plan = p.plan) :
    (forEach l withdrawChime q).lines = (forEach l withdrawChime p).lines := by
  induction l generalizing p q with
  | nil => exact hl
  | cons k rest ih =>
    refine ih (withdrawChime_congr hl hp k) ?_
    show (withdrawChime k q).plan = (withdrawChime k p).plan
    rw [withdrawChime_eq q, withdrawChime_eq p]
    exact hp

/-- Chime demands posted once a call has become active. -/
theorem postChimes_setActive (l : List LineId) (n : Nat) (a : Option CallEntry) (p : Part) :
    forEach l (fun k => postChime k n) (setActive a p) =
      { p with lines := (forEach l (fun k => postChime k n) p).lines, calls := { p.calls with active := a } } := by
  rw [postChimes_eq, postChimes_congr (p := p) (q := setActive a p) l n rfl rfl]
  rfl

/-! ### A repeat and the service of a call (R93, R94, R105) -/

/-- The call plays its repeat: its PLAY is sent, or waits for the link (R94). -/
abbrev CallEntry.inPlay (e : CallEntry) (sent : Bool) : CallEntry :=
  { e with state := .playing, chimePending := false, chimeLeft := none, chimeOnly := false, playSent := sent }

section
variable {p q : Part} {e : CallEntry}

theorem serveChimeOnly_eq (h : p.chimesOnly e q) : serveChimeOnly e p = q :=
  (postChimes_setActive ..).trans (h _ rfl).symm

theorem startRepeat_ready (hl : p.messageLength e.message ≠ 0) (hs : p.player.state = .ready) :
    startRepeat e p = sendPlay e.message e.lines (p.messageLength e.message) (setActive (some (e.inPlay true)) p) := by
  unfold startRepeat
  simp only [if_neg hl, hs]

theorem startRepeat_fault (hl : p.messageLength e.message ≠ 0) (hs : p.player.state = .fault) :
    startRepeat e p = serveChimeOnly e p := by
  unfold startRepeat
  simp only [if_neg hl, hs]
  rfl

theorem startRepeat_waits (hl : p.messageLength e.message ≠ 0)
    (hs : p.player.state = .unknown ∨ p.player.state = .cutting ∨ p.player.state = .playing) :
    startRepeat e p = setActive (some (e.inPlay false)) p := by
  unfold startRepeat
  rcases hs with hs | hs | hs <;> simp only [if_neg hl, hs]

/-- R94: a call with no chime before it starts its repeat as the link's state has it. -/
theorem startRepeat_serves (h : p.Serves e q) (hl : p.messageLength e.message ≠ 0)
    (hc : e.chimePending = false ∨ e.chime = 0) : startRepeat e p = q := by
  obtain ⟨hfault, -, hready, hwaits⟩ := h
  cases hs : p.player.state with
  | fault => exact (startRepeat_fault hl hs).trans (serveChimeOnly_eq (hfault hs))
  | ready => exact (startRepeat_ready hl hs).trans (hready hs hc).symm
  | unknown => exact (startRepeat_waits hl (.inl hs)).trans (hwaits (.inl hs) hc).symm
  | cutting => exact (startRepeat_waits hl (.inr (.inl hs))).trans (hwaits (.inr (.inl hs)) hc).symm
  | playing => exact (startRepeat_waits hl (.inr (.inr hs))).trans (hwaits (.inr (.inr hs)) hc).symm

/-- A repeat starts alike whether or not its chime was pending. -/
theorem startRepeat_dropChime (hl : p.messageLength e.message ≠ 0) :
    startRepeat { e with chimePending := false } p = startRepeat e p := by
  simp only [startRepeat, if_neg hl]

/-- R93: a call that becomes active is served. -/
theorem startService_serves (h : p.Serves e q) (hl : p.messageLength e.message ≠ 0) : startService e p = q := by
  have ⟨hfault, hchimes, _⟩ := h
  unfold startService
  by_cases hc : (e.chimePending && (e.chime != 0) && (p.player.state != .fault)) = true
  · rw [if_pos hc]
    obtain ⟨⟨hpend, hchime⟩, hs⟩ : (e.chimePending = true ∧ e.chime ≠ 0) ∧ p.player.state ≠ .fault := by simpa using hc
    exact (postChimes_setActive ..).trans (hchimes hs hpend hchime).symm
  · rw [if_neg hc, startRepeat_dropChime hl]
    by_cases hs : p.player.state = .fault
    · exact (startRepeat_fault hl hs).trans (serveChimeOnly_eq (hfault hs))
    · refine startRepeat_serves h hl ?_
      cases hpend : e.chimePending
      · exact .inl rfl
      · exact .inr (by simpa [hpend, hs] using hc)

end

/-! ### Parts that agree in what Call Control reads -/

/-- `P` holds what `p` holds of all that Call Control reads: the call store, the player, the lines, the zones and the plan. -/
structure Part.CallsAs (p P : Part) : Prop where
  calls  : P.calls = p.calls
  player : P.player = p.player
  lines  : P.lines = p.lines
  zones  : P.zones = p.zones
  plan   : P.plan = p.plan

/-- `P` with all that Call Control changes taken from `q`. -/
def Part.takeCalls (q P : Part) : Part := { P with calls := q.calls, player := q.player, lines := q.lines }

section
variable {p q P : Part} {e : CallEntry}

theorem Part.CallsAs.refl (p : Part) : p.CallsAs p := ⟨rfl, rfl, rfl, rfl, rfl⟩

theorem Part.CallsAs.inForce (h : p.CallsAs P) : P.inForce = p.inForce := by simp only [Part.inForce, h.plan]

theorem Part.CallsAs.pattern (h : p.CallsAs P) (n : Nat) : P.pattern n = p.pattern n := by
  simp only [Part.pattern, h.inForce]

theorem Part.CallsAs.messageLength (h : p.CallsAs P) (message : Byte) : P.messageLength message = p.messageLength message := by
  simp only [Part.messageLength, h.inForce]

theorem Part.CallsAs.prune (h : p.CallsAs P) (e : CallEntry) : P.prune e = p.prune e := by
  have hc : P.lineClosed = p.lineClosed := funext fun k => by
    simp only [Part.lineClosed, Part.zone, h.zones]
  simp only [Part.prune, hc]

theorem Part.CallsAs.chimesOnly (h : p.CallsAs P) (hs : p.chimesOnly e q) : P.chimesOnly e (q.takeCalls P) := by
  intro n hn
  rw [hs n (by rw [hn, h.inForce])]
  simp only [Part.takeCalls, h.pattern, h.calls, h.player, postChimes_congr _ _ h.lines h.plan]

/-- A call is served alike on parts that agree in what Call Control reads. -/
theorem Part.CallsAs.serves (h : p.CallsAs P) (hs : p.Serves e q) : P.Serves e (q.takeCalls P) := by
  obtain ⟨hfault, hchime, hready, hwaits⟩ := hs
  refine ⟨fun hf => h.chimesOnly (hfault (h.player ▸ hf)), fun hf hp hc => ?_, fun hr hc => ?_, fun hw hc => ?_⟩
  · rw [hchime (h.player ▸ hf) hp hc]
    simp only [Part.takeCalls, h.pattern, h.calls, h.player, postChimes_congr _ _ h.lines h.plan]
  · rw [hready (h.player ▸ hr) hc]
    simp only [Part.takeCalls, h.messageLength, h.calls, h.player, h.lines]
  · rw [hwaits (h.player ▸ hw) hc]
    simp only [Part.takeCalls, h.calls, h.player, h.lines]

/-- `q` differs from `p` in nothing but what Call Control changes. -/
def Part.CallChange (p q : Part) : Prop := q = q.takeCalls p

theorem Part.CallChange.deckChange (h : p.CallChange q) (hp : P.DeckChange p) : P.DeckChange q := by
  rw [h]
  exact ⟨hp.agenda, hp.writes, hp.lanes, hp.generation, hp.port⟩

theorem Part.CallChange.trans (h : P.CallChange p) (h' : p.CallChange q) : P.CallChange q := by
  unfold Part.CallChange
  rw [h', h]
  rfl

theorem Part.CallsAs.takeCalls_eq (h : p.CallsAs P) : p.takeCalls P = P := by
  rw [Part.takeCalls, ← h.calls, ← h.player, ← h.lines]

theorem Part.chimesOnly.callChange (hs : p.chimesOnly e q) : p.CallChange q := by
  rw [hs _ rfl]
  rfl

theorem Part.Serves.callChange (hs : p.Serves e q) : p.CallChange q := by
  obtain ⟨hfault, hchime, hready, hwaits⟩ := hs
  by_cases hf : p.player.state = .fault
  · exact (hfault hf).callChange
  · by_cases hc : e.chimePending = true ∧ e.chime ≠ 0
    · rw [hchime hf hc.1 hc.2]
      rfl
    · have hc' : e.chimePending = false ∨ e.chime = 0 := by
        by_cases hp : e.chimePending = true <;> simp_all
      cases hs : p.player.state with
      | fault => exact absurd hs hf
      | ready => rw [hready hs hc']; rfl
      | unknown => rw [hwaits (.inl hs) hc']; rfl
      | cutting => rw [hwaits (.inr (.inl hs)) hc']; rfl
      | playing => rw [hwaits (.inr (.inr hs)) hc']; rfl

end

/-! ### The end of a call (R95) -/

theorem CallStore.ended_eq (c : CallStore) (id : Nat) :
    tableOf 4 (fun n => if getAt c.lastCall n = some id then true else getAt c.lastEnded n) = c.ended id := by
  refine table_ext fun n => ?_
  rw [CallStore.ended, getAt_tableOf, getAt_tableOf]
  by_cases h : getAt c.lastCall n = some id <;> simp [h]

section
variable {p : Part} {e : CallEntry} {code : ResultCode}

/-- R95: a call that does not chime and that no record waits on ends. -/
theorem endCall_eq (hs : e.state ≠ .chime) (hw : e.waiting = []) :
    endCall e code p = { p with calls := { p.calls with lastEnded := p.calls.ended e.id } } := by
  unfold endCall
  rw [if_neg hs, hw, ← CallStore.ended_eq]
  exact emit_nil _

/-- The store once the active call has ended. -/
abbrev CallStore.activeEnds (c : CallStore) (id : Nat) : CallStore := { c with active := none, lastEnded := c.ended id }

theorem endActive_eq (hs : e.state ≠ .chime) (hw : e.waiting = []) :
    endActive e code p = ({ p with calls := p.calls.activeEnds e.id } : Part).emit [.selectCall] := by
  unfold endActive
  rw [endCall_eq hs hw]
  rfl

end

/-! ### Selection (R91) -/

theorem CallStore.entries_eq_nil {c : CallStore} : c.entries = [] ↔
    c.routine = [] ∧ c.urgent = [] ∧ c.emergency = [] ∧ c.active = none ∧ c.suspendedRoutine = none ∧
      c.suspendedUrgent = none := by
  simp [CallStore.entries]

/-- With the only call active, no call is left once it has ended. -/
theorem CallStore.entries_activeEnds {c : CallStore} {e : CallEntry} {id : Nat} (h : c.entries = [e]) (ha : c.active = some e) :
    (c.activeEnds id).entries = [] := by
  have hlen := congrArg List.length h
  rw [CallStore.entries, ha] at hlen
  rw [← List.length_eq_zero_iff, CallStore.entries]
  simp only [List.length_append, Option.toList_some, Option.toList_none, List.length_singleton, List.length_nil] at hlen ⊢
  omega

theorem selectCall_idle {p : Part} (h : p.calls.entries = []) : selectCall p = p := by
  obtain ⟨hr, hu, he, ha, hsr, hsu⟩ := CallStore.entries_eq_nil.1 h
  unfold selectCall
  simp only [hr, hu, he, ha, hsr, hsu]

/-- No call waits that goes before the list of a priority (R91). -/
def CallStore.noneAhead (c : CallStore) : Priority → Prop
  | .emergency => True
  | .urgent => c.emergency = [] ∧ c.suspendedUrgent = none
  | .routine => c.emergency = [] ∧ c.suspendedUrgent = none ∧ c.urgent = [] ∧ c.suspendedRoutine = none

/-- R91: with no call active and none ahead, the head of a list is selected. -/
theorem selectCall_head {p : Part} {pr : Priority} {e : CallEntry} {rest : List CallEntry} (ha : p.calls.active = none)
    (hn : p.calls.noneAhead pr) (hl : p.calls.list pr = e :: rest) :
    selectCall p = activateCall false e (setCalls (p.calls.setList rest pr) p) := by
  unfold selectCall
  cases pr with
  | emergency =>
    have hl : p.calls.emergency = e :: rest := hl
    simp only [ha, hl]
    rfl
  | urgent =>
    obtain ⟨he, hs⟩ := hn
    have hl : p.calls.urgent = e :: rest := hl
    simp only [ha, he, hs, hl, CallStore.setList]
  | routine =>
    obtain ⟨he, hs, hu, hr⟩ := hn
    have hl : p.calls.routine = e :: rest := hl
    simp only [ha, he, hs, hu, hr, hl, CallStore.setList]

/-- R91: with no call active and no URGENT or EMERGENCY one, the suspended ROUTINE call is selected. -/
theorem selectCall_resumes {p : Part} {f : CallEntry} (ha : p.calls.active = none) (he : p.calls.emergency = [])
    (hs : p.calls.suspendedUrgent = none) (hu : p.calls.urgent = []) (hf : p.calls.suspendedRoutine = some f) :
    selectCall p = activateCall true f (setCalls { p.calls with suspendedRoutine := none } p) := by
  unfold selectCall
  simp only [ha, he, hs, hu, hf]

section
variable {p q : Part} {e : CallEntry}

theorem activateCall_starts (hl : (p.prune e).lines ≠ 0) : activateCall false e p = startService (p.prune e) p := by
  unfold activateCall
  rw [if_neg hl]
  rfl

theorem activateCall_resumes (hl : (p.prune e).lines ≠ 0) : activateCall true e p = resumeCall (p.prune e) p := by
  unfold activateCall
  rw [if_neg hl]
  rfl

theorem activateCall_superseded {resumed : Bool} (hl : (p.prune e).lines = 0) :
    activateCall resumed e p = endActive (p.prune e) .superseded p := by
  unfold activateCall
  exact if_pos hl

/-- R92: pruning leaves a call of another priority as it is. -/
theorem prune_other (p : Part) (h : e.priority ≠ .routine) : p.prune e = e := by
  unfold Part.prune
  split
  · next hr => exact absurd hr h
  · rfl
  · rfl

/-- R92: pruning changes a call's lines alone. -/
theorem prune_eq (p : Part) (e : CallEntry) : p.prune e = { e with lines := (p.prune e).lines } := by
  unfold Part.prune
  split <;> rfl

/-- The call that a resumed one is served as (R98): `g` is `f` with its chime pending, under REPLAY with its chime pending
again, and under CONTINUE with an interrupted repeat counted. -/
def CallEntry.resumesAs (f g : CallEntry) : Prop :=
  (f.chimePending = true ∧ g = f) ∨ (f.chimePending = false ∧ f.continues = false ∧ g = { f with chimePending := true }) ∨
    (f.chimePending = false ∧ f.continues = true ∧ f.interrupted = false ∧ g = f) ∨
    (f.chimePending = false ∧ f.continues = true ∧ f.interrupted = true ∧ f.repeatsDone + 1 ≠ f.repeats ∧ g = f.countRepeat)

theorem afterRepeat_goesOn (h : e.repeatsDone ≠ e.repeats) : afterRepeat e p = startRepeat e p := by
  unfold afterRepeat
  exact if_neg (by simpa [CallEntry.finished] using h)

theorem afterRepeat_ends (h : e.repeatsDone = e.repeats) : afterRepeat e p = endActive e .done p := by
  unfold afterRepeat
  exact if_pos (by simpa [CallEntry.finished] using h)

/-- R98: a suspended call resumes. -/
theorem resumeCall_serves {f g : CallEntry} (hg : f.resumesAs g) (hs : p.Serves g q) (hl : p.messageLength f.message ≠ 0) :
    resumeCall f p = q := by
  unfold resumeCall
  rcases hg with ⟨hp, rfl⟩ | ⟨hp, hc, rfl⟩ | ⟨hp, hc, hi, rfl⟩ | ⟨hp, hc, hi, hd, rfl⟩
  · rw [if_pos hp]
    exact startService_serves hs hl
  · rw [if_neg (by simp [hp]), if_neg (by simp [hc])]
    exact startService_serves hs hl
  · rw [if_neg (by simp [hp]), if_pos hc, if_neg (by simp [hi])]
    exact startRepeat_serves hs hl (.inl hp)
  · rw [if_neg (by simp [hp]), if_pos hc, if_pos hi]
    exact (afterRepeat_goesOn hd).trans (startRepeat_serves hs hl (.inl hp))

end

end Sys2Proof.Machine
end

section
/-! The Announcement Link's frames and timers, and the ends of chimes (R93 to R95, R97 to R106). -/

namespace Sys2Proof.Machine

/-! ### Events of Call Control -/

section
variable {s : State} {c : Instr} {f : Part → Part} {q r : Part}

/-- A command whose event changes the deck alone. -/
theorem leads_of_deckChange (hc : exec c s = .next (runLocal f s)) (h : s.Quiet) (hf : f s.part = q)
    (hq : s.part.DeckChange q) : s.Leads c q :=
  ⟨_, hc, ran_of_deckChange h hf hq⟩

/-- A command whose event ends with a selection. -/
theorem leads_of_selectCall (hc : exec c s = .next (runLocal f s)) (h : s.Quiet) (hf : f s.part = q.emit [.selectCall])
    (hq : s.part.DeckChange q) (hr : selectCall q = r) (hdeck : s.part.DeckChange r) : s.Leads c r :=
  ⟨_, hc, ran_of_does h hf (.one (hq.agenda.trans h.agenda) (by simp) fun _ => hr.trans (emit_nil r).symm) (by simp) hdeck⟩

/-- The commands of received frames run at once. -/
theorem exec_done (h : s.Quiet) (message : Byte) : exec (.done message) s = .next (runLocal (receiveDone message) s) := by
  show Host.Outcome.next (unlessReset _ s) = _
  rw [unlessReset_quiet h]

theorem exec_started (h : s.Quiet) (message : Byte) :
    exec (.started message) s = .next (runLocal (receiveStarted message) s) := by
  show Host.Outcome.next (unlessReset _ s) = _
  rw [unlessReset_quiet h]

theorem exec_cutDone (h : s.Quiet) : exec .cutDone s = .next (runLocal receiveCutDone s) := by
  show Host.Outcome.next (unlessReset _ s) = _
  rw [unlessReset_quiet h]

theorem exec_ready (h : s.Quiet) : exec .ready s = .next (runLocal receiveReady s) := by
  show Host.Outcome.next (unlessReset _ s) = _
  rw [unlessReset_quiet h]

theorem exec_err (h : s.Quiet) (code : Byte) : exec (.err code) s = .next (runLocal (receiveErr code) s) := by
  show Host.Outcome.next (unlessReset _ s) = _
  rw [unlessReset_quiet h]

theorem exec_frameDiscard (h : s.Quiet) (kind : DiscardKind) :
    exec (.frameDiscard kind) s = .next (runLocal frameDiscard s) := by
  show Host.Outcome.next (unlessReset _ s) = _
  rw [unlessReset_quiet h]

/-- The chime of the active call has been counted. -/
theorem chimeDue_of {p : Part} {e : CallEntry} (ha : p.calls.active = some e) (hs : e.state = .chime)
    (hl : e.chimeLeft = some 0) : chimeDue e.chimeOnly p = true := by
  unfold chimeDue
  simp [ha, hs, hl, expired]

theorem exec_chimeEnd (h : s.Quiet) (hd : chimeDue false s.part = true) :
    exec .chimeEnd s = .next (runLocal chimeEnd s) := by
  show Host.Outcome.next (unlessReset chimeEvent s) = _
  rw [unlessReset_quiet h, chimeEvent, runWhen_due hd]

theorem exec_chimeOnlyRepeatEnd (h : s.Quiet) (hd : chimeDue true s.part = true) :
    exec .chimeOnlyRepeatEnd s = .next (runLocal chimeOnlyRepeatEnd s) := by
  show Host.Outcome.next (unlessReset chimeOnlyEvent s) = _
  rw [unlessReset_quiet h, chimeOnlyEvent, runWhen_due hd]

theorem exec_replyTimerExpiry {kind : TimeoutKind} (h : s.Quiet) (ht : s.part.player.replyTimer = some (kind, 0)) :
    exec .replyTimerExpiry s = .next (runLocal replyTimerExpiry s) := by
  show Host.Outcome.next (unlessReset replyTick s) = _
  rw [unlessReset_quiet h, replyTick, runWhen_due (by simp [replyTimerDue, ht])]

theorem exec_probeTimerExpiry (h : s.Quiet) (hs : s.part.player.state = .fault) (ht : s.part.player.probeTimer = some 0) :
    exec .probeTimerExpiry s = .next (runLocal probeTimerExpiry s) := by
  show Host.Outcome.next (unlessReset probeTick s) = _
  rw [unlessReset_quiet h, probeTick, runWhen_due (by simp [probeTimerDue, hs, ht, expired])]

end

/-! ### The ends of chimes (R93 to R95, R105) -/

section
variable {p : Part} {e : CallEntry}

theorem chimeEnd_ready (ha : p.calls.active = some e) (hl : p.messageLength e.message ≠ 0) (hs : p.player.state = .ready) :
    chimeEnd p = sendPlay e.message e.lines (p.messageLength e.message)
      (setActive (some (e.inPlay true)) (forEach (linesOf e.lines) withdrawChime p)) := by
  have hstart := startRepeat_ready (e := { e with chimeLeft := none })
    (p := { p with lines := (forEach (linesOf e.lines) withdrawChime p).lines }) hl hs
  rw [← withdrawChimes_eq] at hstart
  rw [chimeEnd, ha]
  refine hstart.trans ?_
  rw [withdrawChimes_eq]
  rfl

/-- A chime-only repeat has been counted (R105). -/
abbrev CallEntry.chimeCounted (e : CallEntry) : CallEntry :=
  { e.countRepeat with degraded := true, chimeLeft := none, state := .playing, chimeOnly := false }

theorem chimeOnlyRepeatEnd_eq (ha : p.calls.active = some e) :
    chimeOnlyRepeatEnd p =
      afterRepeat e.chimeCounted { p with lines := (forEach (linesOf e.lines) withdrawChime p).lines } := by
  rw [chimeOnlyRepeatEnd, ha]
  show afterRepeat _ _ = _
  rw [← withdrawChimes_eq]

end

/-- Settles O22: a chime's end starts the repeat; a chime-only repeat's end counts it, then starts the next or ends the call. -/
theorem chimeEndsAreCounted : Obligations.ChimeEndsAreCounted := by
  refine ⟨fun s e h ha hs hleft honly hp hl => ?_, fun s e n h ha hs hleft honly hp hl hmore hn => ?_,
    fun s e h hone ha hs hleft honly hlast hw => ?_⟩
  all_goals have hdue := chimeDue_of ha hs hleft
  all_goals rw [honly] at hdue
  · refine leads_of_deckChange (exec_chimeEnd h hdue) h ((chimeEnd_ready ha hl hp).trans ?_) ⟨rfl, rfl, rfl, rfl, rfl⟩
    rw [withdrawChimes_eq]
    rfl
  · refine leads_of_deckChange (exec_chimeOnlyRepeatEnd h hdue) h ?_ ⟨rfl, rfl, rfl, rfl, rfl⟩
    refine (chimeOnlyRepeatEnd_eq ha).trans ((afterRepeat_goesOn hmore).trans ((startRepeat_fault (by exact hl) (by exact hp)).trans
      (serveChimeOnly_eq fun n' hn' => ?_)))
    obtain rfl : n' = n := hn'.trans hn.symm
    rw [← withdrawChimes_eq, withdrawChimes_eq]
    cases e
    cases hs
    cases honly
    rfl
  · refine leads_of_selectCall (q := _) (exec_chimeOnlyRepeatEnd h hdue) h
      ((chimeOnlyRepeatEnd_eq ha).trans ((afterRepeat_ends hlast).trans (endActive_eq (by simp) hw)))
      ⟨rfl, rfl, rfl, rfl, rfl⟩ (selectCall_idle (CallStore.entries_activeEnds hone ha)) ⟨rfl, rfl, rfl, rfl, rfl⟩

/-! ### The link's timers (R103 to R106) -/

section
variable {p q : Part} {e : CallEntry} {cause : PlayerCause}

theorem linkFault_alone (ha : p.calls.active = none) : linkFault cause p = linkFaulted p cause := by
  have ha' : (playerFault cause p).calls.active = none := ha
  rw [linkFault, callLinkFault, ha']
  rfl

theorem linkFault_chiming (ha : p.calls.active = some e) (hs : e.state = .chime) :
    linkFault cause p = linkFaulted p cause := by
  have ha' : (playerFault cause p).calls.active = some e := ha
  rw [linkFault, callLinkFault, ha']
  simp only [hs]
  rfl

/-- R106: the fault has a call in PLAYING serve its repeat chime-only. -/
theorem linkFault_playing (ha : p.calls.active = some e) (hs : e.state = .playing)
    (hq : (linkFaulted p cause).chimesOnly e q) : linkFault cause p = q := by
  have ha' : (playerFault cause p).calls.active = some e := ha
  rw [linkFault, callLinkFault, ha']
  simp only [hs]
  exact serveChimeOnly_eq hq

theorem replyTimerExpiry_eq {kind : TimeoutKind} {n : Nat} (ht : p.player.replyTimer = some (kind, n)) :
    replyTimerExpiry p = linkFault (.timeout kind) p := by
  rw [replyTimerExpiry, ht]

theorem linkFaulted_deckChange (p : Part) (cause : PlayerCause) : p.DeckChange (linkFaulted p cause) :=
  ⟨rfl, rfl, rfl, rfl, rfl⟩

end

/-- Settles O23: the reply timer's expiry is a fault of the link, the probe timer's one more STATUS. -/
theorem playerTimersExpire : Obligations.PlayerTimersExpire := by
  intro s h
  refine ⟨fun kind e ht ha => ⟨fun hs => ?_, fun q hs hq => ?_⟩, fun kind ht ha => ?_, fun hs ht => ?_⟩
  · exact leads_of_deckChange (exec_replyTimerExpiry h ht) h ((replyTimerExpiry_eq ht).trans (linkFault_chiming ha hs))
      (linkFaulted_deckChange ..)
  · exact leads_of_deckChange (exec_replyTimerExpiry h ht) h ((replyTimerExpiry_eq ht).trans (linkFault_playing ha hs hq))
      (hq.callChange.deckChange (linkFaulted_deckChange ..))
  · exact leads_of_deckChange (exec_replyTimerExpiry h ht) h ((replyTimerExpiry_eq ht).trans (linkFault_alone ha))
      (linkFaulted_deckChange ..)
  · exact leads_of_deckChange (exec_probeTimerExpiry h hs ht) h rfl ⟨rfl, rfl, rfl, rfl, rfl⟩

/-! ### STARTED and DONE (R94, R95, R98, R102) -/

section
variable {p : Part} {e : CallEntry} {message : Byte}

theorem receiveStarted_first (hs : p.player.state = .playing) (hm : message = p.player.message)
    (hn : p.player.startedSeen = false) : receiveStarted message p = playerStarted p := by
  unfold receiveStarted
  simp [hs, hm, hn]

theorem receiveStarted_late (hs : p.player.state ≠ .playing) : receiveStarted message p = p := by
  unfold receiveStarted
  cases h : p.player.state
  case playing => exact absurd h hs
  all_goals rfl

theorem receiveDone_alone (hs : p.player.state = .playing) (hm : message = p.player.message)
    (ha : p.calls.active = none) : receiveDone message p = playerReady p := by
  have ha' : (playerReady p).calls.active = none := ha
  unfold receiveDone
  simp [hs, hm, ha']

/-- R94: DONE of the outstanding PLAY counts a repeat. -/
theorem receiveDone_counts (hs : p.player.state = .playing) (hm : message = p.player.message)
    (ha : p.calls.active = some e) (he : e.state = .playing) (hsent : e.playSent = true) :
    receiveDone message p = afterRepeat { e.countRepeat with playSent := false } (playerReady p) := by
  have ha' : (playerReady p).calls.active = some e := ha
  unfold receiveDone
  simp [hs, hm, ha', he, hsent]

end

/-- Settles O28: STARTED restarts the reply timer, DONE counts a repeat; at the last one the call ends and the suspended ROUTINE
call is selected. -/
theorem playRepliesCount : Obligations.PlayRepliesCount := by
  refine ⟨fun s e f g p q h hs ha he hsent hlast hw hem hsu hur hsr hlines hl hg hp hserves => ?_,
    fun s message h => ⟨fun hs hm hn => ?_, fun hs => ?_⟩,
    fun s message h hs hm => ⟨fun ha => ?_, fun e ha he hsent hmore hl => ?_⟩⟩
  · have hdone := (receiveDone_counts hs rfl ha he hsent).trans
      ((afterRepeat_ends hlast).trans (endActive_eq (by simp [CallEntry.countRepeat, he]) hw))
    have hpdeck : s.part.DeckChange p := hp ▸ ⟨rfl, rfl, rfl, rfl, rfl⟩
    refine leads_of_selectCall (exec_done h _) h hdone ⟨rfl, rfl, rfl, rfl, rfl⟩ ?_ (hserves.callChange.deckChange hpdeck)
    have hprune : p.prune f = s.part.prune f := by
      rw [hp]
      rfl
    have hresumes : (s.part.prune f).resumesAs g := by
      rw [prune_eq]
      rwa [prune_eq] at hg
    have hresume : activateCall true f p = q := by
      rw [activateCall_resumes (by rwa [hprune]), hprune]
      refine resumeCall_serves hresumes hserves ?_
      rw [prune_eq, hp]
      exact hl
    rw [← hresume, hp]
    exact selectCall_resumes rfl hem hsu hur hsr
  · exact leads_of_deckChange (exec_started h _) h (receiveStarted_first hs hm hn) ⟨rfl, rfl, rfl, rfl, rfl⟩
  · exact leads_of_deckChange (exec_started h _) h (receiveStarted_late hs) (.refl _)
  · exact leads_of_deckChange (exec_done h _) h (receiveDone_alone hs hm ha) ⟨rfl, rfl, rfl, rfl, rfl⟩
  · refine leads_of_deckChange (exec_done h _) h ((receiveDone_counts hs hm ha he hsent).trans
      ((afterRepeat_goesOn hmore).trans ?_)) ⟨rfl, rfl, rfl, rfl, rfl⟩
    refine (startRepeat_ready (p := playerReady s.part) (by exact hl) rfl).trans ?_
    cases e
    cases he
    cases hsent
    rfl

/-! ### CUT_DONE, READY, ERR and discarded frames (R97, R99, R102, R104, R106) -/

section
variable {p : Part} {e : CallEntry}

/-- R99: a cancelled call ends once it has been cut. -/
theorem receiveCutDone_cancels (hs : p.player.state = .cutting) (ha : p.calls.active = some e) (he : e.state = .cutting)
    (hr : e.cutReason = some .cancel) : receiveCutDone p = endActive e .cancelled (playerReady p) := by
  have ha' : (playerReady p).calls.active = some e := ha
  unfold receiveCutDone
  simp [hs, ha', he, hr]

/-- R97: a preempted call is suspended once it has been cut. -/
theorem receiveCutDone_suspends (hs : p.player.state = .cutting) (ha : p.calls.active = some e) (he : e.state = .cutting)
    (hr : e.cutReason = some .preempt) :
    receiveCutDone p = (suspendCall { e with interrupted := true } (playerReady p)).emit [.selectCall] := by
  have ha' : (playerReady p).calls.active = some e := ha
  unfold receiveCutDone
  simp [hs, ha', he, hr]

theorem receiveCutDone_alone (ha : p.calls.active = none) :
    receiveCutDone p = if p.player.state = .cutting then playerReady p else p := by
  have ha' : (playerReady p).calls.active = none := ha
  unfold receiveCutDone
  cases hs : p.player.state <;> simp [ha']

theorem receiveReady_alone (ha : p.calls.active = none) :
    receiveReady p = if p.player.state = .unknown ∨ p.player.state = .fault then playerReady p else p := by
  have ha' : callLinkReady (playerReady p) = playerReady p := by
    unfold callLinkReady
    rw [show (playerReady p).calls.active = none from ha]
  unfold receiveReady
  cases hs : p.player.state <;> simp [ha']

/-- R106: a call that waits for the link starts its repeat once the link is READY. -/
theorem receiveReady_starts (hs : p.player.state = .unknown ∨ p.player.state = .fault) (ha : p.calls.active = some e)
    (he : e.state = .playing) (hsent : e.playSent = false) : receiveReady p = startRepeat e (playerReady p) := by
  have hstart : callLinkReady (playerReady p) = startRepeat e (playerReady p) := by
    unfold callLinkReady
    rw [show (playerReady p).calls.active = some e from ha]
    exact if_pos ⟨he, hsent⟩
  unfold receiveReady
  rcases hs with hs | hs <;> simp only [hs, hstart]

theorem receiveErr_fault (code : Byte) (hs : p.player.state = .fault) :
    receiveErr code p = { p with player := { p.player with cause := .err code } } := by
  unfold receiveErr
  simp only [hs]

theorem receiveErr_faults (code : Byte) (hs : p.player.state ≠ .fault) : receiveErr code p = linkFault (.err code) p := by
  unfold receiveErr
  cases h : p.player.state
  case fault => exact absurd h hs
  all_goals rfl

theorem suspendCall_routine (hp : e.priority = .routine) : suspendCall e p =
    { p with calls := { p.calls with active := none, suspendedRoutine := some e.suspends } } := by
  unfold suspendCall
  split
  · rfl
  all_goals simp_all

theorem suspendCall_urgent (hp : e.priority ≠ .routine) : suspendCall e p =
    { p with calls := { p.calls with active := none, suspendedUrgent := some e.suspends } } := by
  unfold suspendCall
  split
  · next hr => exact absurd hr hp
  all_goals rfl

end

/-- CUT_DONE, READY and ERR with a call active. -/
theorem linkFrames_withCall {s : State} {e : CallEntry} {p : Part} (h : s.Quiet) (ha : s.part.calls.active = some e)
    (hp : p = playerReady s.part) :
    (s.part.player.state = .cutting → e.state = .cutting → e.cutReason = some .cancel → e.waiting = [] →
      s.part.calls.entries = [e] → s.Leads .cutDone { p with calls := p.calls.activeEnds e.id }) ∧
    (∀ u rest q, s.part.player.state = .cutting → e.state = .cutting → e.cutReason = some .preempt →
      e.priority = .routine → s.part.calls.emergency = [] → s.part.calls.suspendedUrgent = none →
      s.part.calls.urgent = u :: rest → u.priority = .urgent → u.lines ≠ 0 → s.part.messageLength u.message ≠ 0 →
      ({ p with calls := { p.calls with
          active := none, urgent := rest, suspendedRoutine := some { e with interrupted := true }.suspends } } :
        Part).Serves u q → s.Leads .cutDone q) ∧
    (∀ q, s.part.player.state = .unknown ∨ s.part.player.state = .fault → e.state = .playing → e.playSent = false →
      s.part.messageLength e.message ≠ 0 →
      ({ p with calls := { p.calls with active := none } } : Part).Serves { e with chimePending := false } q →
      s.Leads .ready q) ∧
    (∀ code q, s.part.player.state ≠ .fault → e.state = .playing → (linkFaulted s.part (.err code)).chimesOnly e q →
      s.Leads (.err code) q) := by
  subst hp
  refine ⟨fun hs he hr hw hone => ?_, fun u rest q hs he hr hpr hem hsu hur hup hlines hl hserves => ?_,
    fun q hs he hsent hl hserves => ?_, fun code q hs he hq => ?_⟩
  · exact leads_of_selectCall (exec_cutDone h) h
      ((receiveCutDone_cancels hs ha he hr).trans (endActive_eq (by simp [he]) hw)) ⟨rfl, rfl, rfl, rfl, rfl⟩
      (selectCall_idle (CallStore.entries_activeEnds hone ha)) ⟨rfl, rfl, rfl, rfl, rfl⟩
  · refine leads_of_selectCall (exec_cutDone h) h ((receiveCutDone_suspends hs ha he hr).trans
      (congrArg (Part.emit [.selectCall]) (suspendCall_routine hpr))) ⟨rfl, rfl, rfl, rfl, rfl⟩ ?_
      (hserves.callChange.deckChange ⟨rfl, rfl, rfl, rfl, rfl⟩)
    refine Eq.trans (selectCall_head (pr := .urgent) (e := u) (rest := rest) rfl ⟨hem, hsu⟩ hur) ?_
    have hprune := fun p : Part => prune_other p (e := u) (by simp [hup])
    rw [activateCall_starts (by rwa [hprune]), hprune]
    exact startService_serves hserves hl
  · refine leads_of_deckChange (exec_ready h) h ((receiveReady_starts hs ha he hsent).trans ?_)
      (hserves.callChange.deckChange ⟨rfl, rfl, rfl, rfl, rfl⟩)
    obtain ⟨-, -, hready, -⟩ := hserves
    exact (startRepeat_ready (p := playerReady s.part) hl rfl).trans (hready rfl (.inl rfl)).symm
  · exact leads_of_deckChange (exec_err h code) h ((receiveErr_faults code hs).trans (linkFault_playing ha he hq))
      (hq.callChange.deckChange (linkFaulted_deckChange ..))

/-- Settles O29: with no call active a frame changes the link's state alone; with one it ends, suspends or serves it. -/
theorem linkFramesSetState : Obligations.LinkFramesSetState := by
  refine ⟨fun s e p h ha hp => linkFrames_withCall h ha hp, fun s h ha => ⟨?_, ?_⟩, fun s code kind h ha => ⟨?_, ?_⟩⟩
  · refine leads_of_deckChange (exec_cutDone h) h (receiveCutDone_alone ha) ?_
    split <;> exact ⟨rfl, rfl, rfl, rfl, rfl⟩
  · refine leads_of_deckChange (exec_ready h) h (receiveReady_alone ha) ?_
    split <;> exact ⟨rfl, rfl, rfl, rfl, rfl⟩
  · by_cases hs : s.part.player.state = .fault
    · rw [if_pos hs]
      exact leads_of_deckChange (exec_err h code) h (receiveErr_fault code hs) ⟨rfl, rfl, rfl, rfl, rfl⟩
    · rw [if_neg hs]
      exact leads_of_deckChange (exec_err h code) h ((receiveErr_faults code hs).trans (linkFault_alone ha))
        (linkFaulted_deckChange ..)
  · exact leads_of_deckChange (exec_frameDiscard h kind) h rfl ⟨rfl, rfl, rfl, rfl, rfl⟩

end Sys2Proof.Machine
end

section
/-! CANCEL CALL (R99): a call order that ends at once. -/

namespace Sys2Proof.Machine

/-! ### CANCEL CALL's record -/

section
variable {n : Lane} {link : Half} {head : OrderHead} {id : Half}

/-- The image of a CANCEL CALL. -/
abbrev cancelCallImage (head : OrderHead) (id : Half) : List Byte := orderImage head .cancelCall (halfBytes id)

theorem paramHalf_cancelCall : paramHalf (cancelCallImage head id) = id := by
  have hbyte : ∀ i, i < 2 → byteAt (cancelCallImage head id) (12 + i) = byteAt (halfBytes id ++ []) i :=
    fun i hi => byteAt_params head .cancelCall (params := halfBytes id) (by simp [halfBytes]) (by simpa [halfBytes] using hi)
  refine Eq.trans ?_ (halfAt_halfBytes id [])
  unfold paramHalf halfAt
  rw [hbyte 0 (by omega), hbyte 1 (by omega)]

theorem cancelCall_paramChecks (p : Part) (h : id.toNat ≤ 255) :
    ∀ c ∈ p.paramChecks (cancelCallImage head id) .cancelCall, c.2 = true := by
  have hrest : restZero (cancelCallImage head id) 14 = (14, true) :=
    restZero_orderImage head .cancelCall (by simp [halfBytes]) (by omega)
  show ∀ c ∈ [(12, decide ((paramHalf (cancelCallImage head id)).toNat ≤ 255)), restZero (cancelCallImage head id) 14], _
  rw [paramHalf_cancelCall, hrest]
  simp [h]

theorem blockOrder_cancelCall {q : Part} (hb : q.currentBytes n = cancelCallImage head id) (m : List Host.Cell) :
    blockOrder n m q = orderCancelCall n q := by
  unfold blockOrder
  rw [hb, imageKind_orderImage]

/-! ### CANCEL CALL at Call Control -/

theorem CallStore.named_id {c : CallStore} (h : id ≠ 0) : c.named n id.toNat = c.entries.filter (fun e => e.id == id.toNat) :=
  if_neg fun h0 => h (BitVec.eq_of_toNat_eq h0)

theorem orderCancelCall_refused {q : Part} (hb : q.currentBytes n = cancelCallImage head id)
    (hany : ∃ e ∈ q.calls.named n id.toNat, e.priority = .emergency) (hbr : (q.lane n).bridge = false) :
    orderCancelCall n q = q.emit [.orderEnds n (Result.bare .authority)] := by
  have hcond : ((q.calls.named n id.toNat).any (fun e => e.priority == .emergency) && !(q.lane n).bridge) = true := by
    simpa [hbr] using hany
  unfold orderCancelCall
  rw [hb, paramHalf_cancelCall]
  exact if_pos hcond

theorem orderCancelCall_none {q : Part} (hb : q.currentBytes n = cancelCallImage head id)
    (hnone : q.calls.named n id.toNat = []) :
    orderCancelCall n q = q.emit [.orderEnds n { Result.bare .done with first := some 0 }] := by
  unfold orderCancelCall
  rw [hb, paramHalf_cancelCall, hnone]
  rfl

theorem cancelOne_queued {p : Part} {e : CallEntry} (hs : e.state = .queued) (hw : e.waiting = []) :
    cancelOne e p = setCalls { p.calls.remove e.id with lastEnded := p.calls.ended e.id } p := by
  have hend : cancelOne e p = endCall e .cancelled (setCalls (p.calls.remove e.id) p) := by
    unfold cancelOne
    simp only [hs]
  rw [hend, endCall_eq (by simp [hs]) hw]
  rfl

/-- R99: the one call of the id is QUEUED, and the lane may cancel it. -/
theorem orderCancelCall_queued {q : Part} {e : CallEntry} (hb : q.currentBytes n = cancelCallImage head id)
    (hone : q.calls.named n id.toNat = [e]) (hs : e.state = .queued) (hw : e.waiting = [])
    (hbr : e.priority = .emergency → (q.lane n).bridge = true) :
    orderCancelCall n q = (setCalls { q.calls.remove e.id with lastEnded := q.calls.ended e.id } q).emit
      [.orderEnds n { Result.bare .done with first := some 1 }] := by
  have hcond : ¬ ([e].any (fun e => e.priority == .emergency) && !(q.lane n).bridge) = true := by
    simpa using hbr
  unfold orderCancelCall
  rw [hb, paramHalf_cancelCall, hone]
  refine (if_neg hcond).trans ?_
  rw [← cancelOne_queued hs hw]
  simp [hs]
  rfl

end

/-- Settles O56: the calls that the id names are none, one QUEUED call, or an EMERGENCY one. -/
theorem cancelCallEndsQueued : Obligations.CancelCallEndsQueued := by
  intro s n link head id h hplan hid hmax
  have hexec : exec (.cancelCall n head id) s = .next (runOrder n (cancelCallImage head id) s) := exec_order h rfl
  have hends : ∀ (r : Result) (c : CallStore), (r.code.failure = true → head.alternate ≠ 0) →
      (∀ T : Part, T.currentBytes n = cancelCallImage head id → T.calls = s.part.calls →
        (T.lane n).bridge = (s.part.lane n).bridge → orderCancelCall n T = (setCalls c T).emit [.orderEnds n r]) →
      ∃ t, exec (.cancelCall n head id) s = .next t ∧ s.OrderEnds t n link head r { s.part with calls := c } := by
    intro r c ha hblock
    refine ⟨_, hexec, order_done_taken h (by simp [halfBytes]) (cancelCall_paramChecks _ hmax) (.inl hplan)
      (fun hb => by simp [needsBridge] at hb) (by rw [Part.claimEntry, imageKind_orderImage]) (fun m => ?_) ha rfl rfl rfl
      rfl rfl rfl⟩
    rw [blockOrder_cancelCall (takenPart_currentBytes ..),
      hblock _ (takenPart_currentBytes ..) (takenPart_calls ..) (takenPart_bridge ..)]
    rw [takenPart_eq, takenPart_eq]
    rfl
  refine ⟨fun hnone => ?_, fun e hone hs hw hbr => ?_, fun e hmem he hpr hbr ha => ?_⟩
  · refine hends _ s.part.calls (fun hf => by cases hf) fun T hb hc _ => ?_
    refine (orderCancelCall_none hb ?_).trans (by rw [← hc]; rfl)
    rw [CallStore.named_id hid, hc, List.filter_eq_nil_iff]
    exact fun e he => by simpa using hnone e he
  · have he : e.id = id.toNat := by
      have := List.of_mem_filter (hone ▸ List.mem_singleton_self e : e ∈ s.part.calls.entries.filter _)
      simpa using this
    refine hends _ _ (fun hf => by cases hf) fun T hb hc hT => ?_
    rw [← he, ← hc]
    exact orderCancelCall_queued hb (by rw [CallStore.named_id hid, hc, hone]) hs hw (fun hp => hT.trans (hbr hp))
  · refine hends _ s.part.calls (fun _ => ha) fun T hb hc hT => ?_
    refine (orderCancelCall_refused hb ⟨e, ?_, hpr⟩ (hT.trans hbr)).trans (by rw [← hc]; rfl)
    rw [CallStore.named_id hid, hc, List.mem_filter]
    exact ⟨hmem, by simpa using he⟩

end Sys2Proof.Machine
end

section
/-! CALL (R85 to R89, R91 to R93, R96): admission, what follows it in the event, and the end or the wait of the order. -/

namespace Sys2Proof.Machine

/-! ### Pruning (R92) -/

/-- A line set gathered from a list holds the lines of the list that are kept. -/
theorem getLsbD_keptLines (closed : LineId → Bool) (l : List LineId) (acc : Half) (i : LineId) :
    (l.foldl (fun acc k => if closed k then acc else acc ||| (1#16 <<< k.val)) acc).getLsbD i.val =
      (acc.getLsbD i.val || (l.contains i && !closed i)) := by
  induction l generalizing acc with
  | nil => simp
  | cons k rest ih =>
    rw [List.foldl_cons, ih, List.contains_cons]
    by_cases hk : i = k
    · subst hk
      cases hc : closed i <;> simp
    · have hv : ¬ k.val = i.val := fun h => hk (Fin.ext h.symm)
      have hbit : ((1#16 <<< k.val) : Half).getLsbD i.val = false := by
        rw [BitVec.getLsbD_shiftLeft, BitVec.getLsbD_one]
        have := i.isLt
        simp
        omega
      have hne : (i == k) = false := beq_eq_false_iff_ne.2 hk
      cases closed k
      · simp only [Bool.false_eq_true, if_false, BitVec.getLsbD_or, hbit, hne, Bool.or_false, Bool.false_or]
      · simp only [if_true, hne, Bool.false_or]

/-- The lines that pruning takes away (R92). -/
theorem lineClosed_iff (p : Part) (i : LineId) : p.lineClosed i = false ↔ ∀ k : ZoneId, k.val = i.val →
    (p.zone k).state ≠ .shutting ∧ (p.zone k).state ≠ .shut ∧ (p.zone k).level ≠ .fire := by
  unfold Part.lineClosed
  split
  · next h =>
    simp only [Bool.or_eq_false_iff, beq_eq_false_iff_ne, and_assoc]
    exact ⟨fun hz k hk => by rwa [show k = ⟨i.val, h⟩ from Fin.ext hk], fun hz => hz ⟨i.val, h⟩ rfl⟩
  · next h => exact ⟨fun _ k hk => absurd (hk ▸ k.isLt) h, fun _ => rfl⟩

theorem prune_lines {p : Part} {e : CallEntry} (h : e.priority = .routine) (i : LineId) :
    (p.prune e).lines.getLsbD i.val = (e.lines.getLsbD i.val && !p.lineClosed i) := by
  have hlines : (p.prune e).lines =
      (linesOf e.lines).foldl (fun acc k => if p.lineClosed k then acc else acc ||| (1#16 <<< k.val)) 0 := by
    unfold Part.prune
    split
    · rfl
    all_goals simp_all
  rw [hlines, getLsbD_keptLines]
  simp [linesOf]

theorem pruneRemovesLines_holds : pruneRemovesLines := by
  refine fun p e => ⟨prune_other p, fun h => ⟨prune_eq p e, fun i => ?_⟩⟩
  rw [prune_lines h, Bool.and_eq_true, Bool.not_eq_true', lineClosed_iff]

/-! ### Admission (R86 to R88) -/

/-- What a CALL asks for (R85). -/
def callRequest (n : Lane) (pr : Priority) (message : Byte) (lines : Half) (repeats policy chime : Byte) : CallRequest :=
  { origin := .lane n, priority := pr, message := message, lines := lines, repeats := repeats.toNat,
    continues := policy = 1, chime := chime.toNat }

/-- The store with a new entry under the next id (R86). -/
def CallStore.enqueued (c : CallStore) (x : CallEntry) : CallStore :=
  { c.setList (c.list x.priority ++ [x]) x.priority with nextId := if x.id = 255 then 1 else x.id + 1 }

section
variable {r : CallRequest} {ws : List Lane} {p : Part}

theorem find_same_none (h : ∀ e ∈ p.calls.list r.priority, e.message ≠ r.message ∨ e.lines ≠ r.lines) :
    (p.calls.list r.priority).find? r.same = none := by
  rw [List.find?_eq_none]
  intro e he hsame
  obtain ⟨⟨-, hm⟩, hl⟩ : (e.priority = r.priority ∧ e.message = r.message) ∧ e.lines = r.lines := by
    simpa [CallRequest.same] using hsame
  exact (h e he).elim (fun h => h hm) (fun h => h hl)

theorem enqueueCall_eq (hid : ∀ e ∈ p.calls.entries, e.id ≠ p.calls.nextId) :
    enqueueCall r ws p = (.queued p.calls.nextId, setCalls (p.calls.enqueued (r.entry p.calls.nextId ws)) p) := by
  have hfree : freeId (p.calls.entries.map (fun e => e.id)) 255 p.calls.nextId = p.calls.nextId :=
    freeId_unused (by simpa using hid)
  unfold enqueueCall
  simp only [hfree]
  rfl

theorem admitCall_noMessage (hl : p.messageLength r.message = 0) : admitCall r ws p = (.noMessage, p) := by
  unfold admitCall
  exact if_pos hl

theorem admitCall_merges {e : CallEntry} (hl : p.messageLength r.message ≠ 0) (hlist : p.calls.list r.priority = [e])
    (hsame : r.same e = true) : admitCall r ws p = (.merged e.id, setCalls (p.calls.setList
      [{ e with repeats := Nat.max e.repeats r.repeats, waiting := e.waiting ++ ws }] r.priority) p) := by
  unfold admitCall
  rw [if_neg hl, hlist, List.find?_singleton, if_pos hsame]
  simp

theorem admitCall_queues (hl : p.messageLength r.message ≠ 0) (hq : p.calls.queued < 16)
    (hno : ∀ e ∈ p.calls.list r.priority, e.message ≠ r.message ∨ e.lines ≠ r.lines)
    (hid : ∀ e ∈ p.calls.entries, e.id ≠ p.calls.nextId) :
    admitCall r ws p = (.queued p.calls.nextId, setCalls (p.calls.enqueued (r.entry p.calls.nextId ws)) p) := by
  unfold admitCall
  rw [if_neg hl, find_same_none hno]
  exact (if_pos hq).trans (enqueueCall_eq hid)

/-- R88: a full pool refuses a ROUTINE call, and any call where it holds no ROUTINE entry. -/
theorem admitCall_full (hl : p.messageLength r.message ≠ 0) (hq : p.calls.queued = 16)
    (hno : ∀ e ∈ p.calls.list r.priority, e.message ≠ r.message ∨ e.lines ≠ r.lines)
    (hr : r.priority = .routine ∨ p.calls.routine = []) : admitCall r ws p = (.queueFull, p) := by
  unfold admitCall
  rw [if_neg hl, find_same_none hno]
  refine (if_neg (by simp [hq, Config.poolPlaces])).trans ?_
  rcases hr with hr | hr
  · simp only [hr]
  · cases hp : r.priority <;> simp [hr]

/-- R88: a full pool gives the place of its youngest ROUTINE entry to a call of a higher priority. -/
theorem admitCall_displaces {y : CallEntry} {rest : List CallEntry} (hl : p.messageLength r.message ≠ 0)
    (hq : p.calls.queued = 16) (hno : ∀ e ∈ p.calls.list r.priority, e.message ≠ r.message ∨ e.lines ≠ r.lines)
    (hr : r.priority ≠ .routine) (hy : p.calls.routine = rest ++ [y]) (hs : y.state = .queued) (hw : y.waiting = [])
    (hid : ∀ e ∈ p.calls.entries, e.id ≠ p.calls.nextId) :
    admitCall r ws p = (.queued p.calls.nextId,
      setCalls (CallStore.enqueued { p.calls with routine := rest, lastEnded := p.calls.ended y.id }
        (r.entry p.calls.nextId ws)) p) := by
  have hdisplaced : endCall y .displaced (setCalls { p.calls with routine := p.calls.routine.dropLast } p) =
      setCalls { p.calls with routine := rest, lastEnded := p.calls.ended y.id } p := by
    rw [endCall_eq (by simp [hs]) hw, hy, List.dropLast_concat]
    rfl
  have hlast : p.calls.routine.getLast? = some y := by rw [hy, List.getLast?_concat]
  have hid' : ∀ e ∈ ({ p.calls with routine := rest, lastEnded := p.calls.ended y.id } : CallStore).entries,
      e.id ≠ p.calls.nextId := by
    refine fun e he => hid e ?_
    simp only [CallStore.entries, hy, List.mem_append] at he ⊢
    tauto
  unfold admitCall
  rw [if_neg hl, find_same_none hno]
  refine (if_neg (by simp [hq, Config.poolPlaces])).trans ?_
  rw [hlast]
  cases hp : r.priority with
  | routine => exact absurd hp hr
  | urgent =>
    show enqueueCall r ws _ = _
    rw [hdisplaced]
    exact enqueueCall_eq (p := setCalls _ p) hid'
  | emergency =>
    show enqueueCall r ws _ = _
    rw [hdisplaced]
    exact enqueueCall_eq (p := setCalls _ p) hid'

end

/-- The entry queued, and the lane's last call (R86, R89). -/
theorem setLastCall_enqueued (n : Lane) (x : CallEntry) (c : CallStore) (p : Part) :
    setLastCall n x.id (setCalls (c.enqueued x) p) = setCalls (admitted c n x) p := by
  cases hx : x.priority <;> simp only [CallStore.enqueued, admitted, hx] <;> rfl

end Sys2Proof.Machine
end

section
/-! A CALL's order: its end or wait before a selection that its admission causes (log entry 28). -/

namespace Sys2Proof.Machine

/-! ### The end of an order reads nothing that Call Control changes -/

section
variable (q P : Part)

theorem takeHalf_takeCalls (v : Option Half) :
    takeHalf v (q.takeCalls P) = ((takeHalf v P).1, q.takeCalls (takeHalf v P).2) := by
  cases v with
  | some h => rfl
  | none =>
    simp only [takeHalf, Part.takeOpen, Part.takeCalls]
    split <;> rfl

theorem takeWord_takeCalls (v : Option Word) :
    takeWord v (q.takeCalls P) = ((takeWord v P).1, q.takeCalls (takeWord v P).2) := by
  cases v with
  | some w => rfl
  | none =>
    simp only [takeWord, Part.takeOpen, Part.takeCalls]
    split <;> rfl

theorem retireRecord_takeCalls (held : HeldRecord) (r : Result) :
    retireRecord held r (q.takeCalls P) = q.takeCalls (retireRecord held r P) := by
  simp only [retireRecord, takeHalf_takeCalls, takeWord_takeCalls]
  cases held.standing <;> rfl

theorem retireCurrent_takeCalls (n : Lane) (r : Result) :
    retireCurrent n r (q.takeCalls P) = q.takeCalls (retireCurrent n r P) := by
  have hlane : (q.takeCalls P).lane n = P.lane n := rfl
  simp only [retireCurrent, hlane]
  split
  · next held _ =>
    simp only [laneRetires, retireRecord_takeCalls]
    cases held.notify <;> rfl
  · rfl

theorem followLink_takeCalls (n : Lane) (link : Half) :
    followLink n link (q.takeCalls P) = q.takeCalls (followLink n link P) := by
  simp only [followLink]
  split <;> rfl

theorem orderEnds_takeCalls {n : Lane} {r : Result} (hr : r.code.failure = false) :
    orderEnds n r (q.takeCalls P) = q.takeCalls (orderEnds n r P) := by
  cases hc : (P.lane n).current with
  | none => rw [orderEnds_idle hc, orderEnds_idle (p := q.takeCalls P) hc]
  | some held =>
    rw [orderEnds_success hc hr, orderEnds_success (p := q.takeCalls P) hc hr, retireCurrent_takeCalls,
      followLink_takeCalls]

end

/-! ### The order among what Call Control does -/

/-- The part on the deck `p` with the record of lane `n`'s order just taken. -/
abbrev inHand (s : State) (n : Lane) (link : Half) (head : OrderHead) (image : List Byte) (p : Part) : Part :=
  midOrder n ((s.part.lane n).holding (heldBy link head image)) (takenCells link head.standing s.part.now) p

theorem Part.CallChange.midOrder {p q : Part} (h : p.CallChange q) (n : Lane) (c : LaneContext) (w : List Host.Cell) :
    midOrder n c w q = q.takeCalls (midOrder n c w p) := by
  rw [show q.takeCalls (Machine.midOrder n c w p) = Machine.midOrder n c w (q.takeCalls p) from rfl, ← h]

theorem Part.CallChange.inHand {s : State} {q : Part} (h : s.part.CallChange q) (n : Lane) (link : Half) (head : OrderHead)
    (image : List Byte) : inHand s n link head image q = q.takeCalls (inHand s n link head image s.part) :=
  h.midOrder ..

theorem Part.callsAs_midOrder (p : Part) (n : Lane) (c : LaneContext) (w : List Host.Cell) : p.CallsAs (midOrder n c w p) :=
  ⟨rfl, rfl, rfl, rfl, rfl⟩

section
variable {s : State} {n : Lane} {link : Half} {head : OrderHead} {k : OrderKind} {params : List Byte}
  {p p0 : Part} {r : Result} {acts : List Act} {a : Nat}

/-- An order that needs no claim, whose block leaves the deck `p0` and asks for the end of the order, then for
micro-operations of Call Control that take the deck to `p`. -/
theorem callOrder_ends (h : s.TakesOrder n link head) (hl : params.length ≤ 24)
    (hc : ∀ c ∈ s.part.paramChecks (orderImage head k params) k, c.2 = true) (hplan : s.part.plan.isSome = true)
    (hbr : needsBridge (orderImage head k params) k = true → (s.part.lane n).bridge = true)
    (he : s.part.claimEntry (orderImage head k params) = none)
    (hB : ∀ m, blockOrder n m (inHand s n link head (orderImage head k params) s.part) =
      (inHand s n link head (orderImage head k params) p0).emit (.orderEnds n r :: acts))
    (hdoes : ∀ P, p0.CallsAs P → P.agenda = [] → P.Does acts a (p.takeCalls P) []) (hlen : a ≤ 60000)
    (hp0 : s.part.CallChange p0) (hp : s.part.CallChange p) (hr : r.code.failure = false) :
    s.OrderEnds (runOrder n (orderImage head k params) s) n link head r p := by
  have hdeck : s.part.DeckChange p := hp.deckChange (.refl _)
  obtain ⟨hlt, hd⟩ := order_to_acts h hl hc (.inl hplan) hbr he (by
    rw [takenPart_mid h.takes _ _ rfl rfl rfl]; exact hB _)
  obtain ⟨c', ws, ov, oc, fs, hend⟩ := midOrder_orderEnds (n := n) (r := r) (head := head) (k := k) (params := params)
    (p := s.part) (c := (s.part.lane n).holding (heldBy link head (orderImage head k params)))
    (w := takenCells link head.standing s.part.now) rfl rfl (by simp [hr])
  have hagenda : s.part.agenda = [] := h.takes.quiet.agenda
  have hends : ∀ q, s.part.CallChange q → orderEnds n r (inHand s n link head (orderImage head k params) q) =
      q.takeCalls (orderEnds n r (inHand s n link head (orderImage head k params) s.part)) := fun q hq => by
    rw [hq.inHand, orderEnds_takeCalls _ _ hr]
  have hafter : p0.CallsAs (p0.takeCalls (orderEnds n r (inHand s n link head (orderImage head k params) s.part))) := by
    rw [hend]
    exact ⟨rfl, rfl, rfl, (congrArg Part.zones hp0).symm, (congrArg Part.plan hp0).symm⟩
  have hrest := hdoes _ hafter (by rw [hend]; exact hagenda)
  refine midOrder_ends (claims := p.claims)
    (c := (s.part.lane n).holding (heldBy link head (orderImage head k params)))
    (held := heldBy link head (orderImage head k params)) h.takes hl hlt (hd.trans ?_) rfl rfl rfl rfl
    (fun _ => rfl) (by simp [hr]) hdeck.lanes (hdeck.agenda.trans hagenda) hdeck.generation (by rw [hdeck.port])
  have hp0a : (inHand s n link head (orderImage head k params) p0).agenda = [] := (congrArg Part.agenda hp0).trans hagenda
  have hperform : ∀ m, perform m (.orderEnds n r) (inHand s n link head (orderImage head k params) p0) =
      p0.takeCalls (orderEnds n r (inHand s n link head (orderImage head k params) s.part)) := fun _ => hends p0 hp0
  rw [drain_emit hp0a (by simp), hperform, hrest.drain_eq (by rw [hend]; exact hagenda) (by omega), hends p hp, hend, hp]
  rfl

/-- An order that needs no claim, whose block has it wait for the action, with micro-operations of Call Control to do. -/
theorem callOrder_waits (h : s.TakesOrder n link head) (hl : params.length ≤ 24)
    (hc : ∀ c ∈ s.part.paramChecks (orderImage head k params) k, c.2 = true) (hplan : s.part.plan.isSome = true)
    (hbr : needsBridge (orderImage head k params) k = true → (s.part.lane n).bridge = true)
    (he : s.part.claimEntry (orderImage head k params) = none)
    (hB : ∀ m, blockOrder n m (inHand s n link head (orderImage head k params) s.part) =
      (laneWaits n .action (inHand s n link head (orderImage head k params) p0)).emit acts)
    (hdoes : ∀ P, p0.CallsAs P → P.agenda = [] → P.Does acts a (p.takeCalls P) []) (hlen : a ≤ 60000)
    (hp0 : s.part.CallChange p0) (hp : s.part.CallChange p) :
    s.OrderWaits (runOrder n (orderImage head k params) s) n link head (orderImage head k params) .action p := by
  have hdeck : s.part.DeckChange p := hp.deckChange (.refl _)
  have hdeck0 : s.part.DeckChange p0 := hp0.deckChange (.refl _)
  have hagenda : s.part.agenda = [] := h.takes.quiet.agenda
  obtain ⟨hlt, hd⟩ := order_to_acts h hl hc (.inl hplan) hbr he (by
    rw [takenPart_mid h.takes _ _ rfl rfl rfl]; exact hB _)
  refine midOrder_waits h.takes hl hlt (hd.trans ?_) (by simp) hdeck.lanes (hdeck.agenda.trans hagenda) hdeck.generation
    (by rw [hdeck.port])
  rw [laneWaits_midOrder, (hdoes _ (Part.callsAs_midOrder ..) (hdeck0.agenda.trans hagenda)).drain_eq
    (hdeck0.agenda.trans hagenda) (by omega), hp0.midOrder, hp.midOrder]
  rfl

end

end Sys2Proof.Machine
end

section
/-! CALL at Call Control (R85 to R96): what becomes of the order, and the call that is active in the end. -/

namespace Sys2Proof.Machine

/-! ### CALL's record -/

section
variable {s : State} {n : Lane} {link : Half} {head : OrderHead} {priority message : Byte} {lines : Half}
  {repeats policy chime : Byte} {pr : Priority} {T : Part}

theorem needsBridge_callImage (hf : callFits priority message lines repeats policy chime pr) :
    needsBridge (callImage head priority message lines repeats policy chime) .call = true ↔ pr = .emergency := by
  simp [needsBridge, callImage_priority hf]

theorem lines_ne_zero (hf : callFits priority message lines repeats policy chime pr) : lines ≠ 0 := by
  obtain ⟨-, -, hl, -⟩ := hf
  exact hl

theorem blockOrder_call (hb : T.currentBytes n = callImage head priority message lines repeats policy chime)
    (m : List Host.Cell) : blockOrder n m T = orderCall n T := by
  unfold blockOrder
  rw [hb, imageKind_orderImage]

/-- The lane whose record is to wait on the call. -/
def callWaits (n : Lane) (head : OrderHead) : List Lane := if headWaits head then [n] else []

/-- A CALL that is refused ends with the refusal (R86, R88). -/
theorem orderCall_refused {code : ResultCode} (hf : callFits priority message lines repeats policy chime pr)
    (hb : T.currentBytes n = callImage head priority message lines repeats policy chime)
    (ha : admitCall (callRequest n pr message lines repeats policy chime) (callWaits n head) T = (.noMessage, T) ∧
        code = .noMessage ∨
      admitCall (callRequest n pr message lines repeats policy chime) (callWaits n head) T = (.queueFull, T) ∧
        code = .queueFull) :
    orderCall n T = T.emit [.orderEnds n (Result.of code 0 0 (lines.setWidth 32))] := by
  unfold callRequest callWaits at ha
  unfold orderCall
  simp only [hb, callImage_priority hf, callImage_message, callImage_lines, callImage_repeats, callImage_continues,
    callImage_chime, imageWait_orderImage]
  rcases ha with ⟨ha, rfl⟩ | ⟨ha, rfl⟩ <;> simp only [ha]

/-- A CALL that is merged and does not wait ends MERGED (R87). -/
theorem orderCall_merges {id : Nat} {c : CallStore} (hf : callFits priority message lines repeats policy chime pr)
    (hb : T.currentBytes n = callImage head priority message lines repeats policy chime) (hw : headWaits head = false)
    (ha : admitCall (callRequest n pr message lines repeats policy chime) [] T = (.merged id, setCalls c T)) :
    orderCall n T = (setLastCall n id (setCalls c T)).emit [.orderEnds n (Result.of .merged id
      (word (((c.entries.find? (fun e => e.id == id)).map (fun e => e.repeatsDone)).getD 0)) (lines.setWidth 32))] := by
  unfold callRequest at ha
  unfold orderCall
  simp only [hb, callImage_priority hf, callImage_message, callImage_lines, callImage_repeats, callImage_continues,
    callImage_chime, imageWait_orderImage, hw, Bool.false_eq_true, if_false, ha]
  rfl

/-- The queued call's order ends STARTED or waits, before what its admission leads to (R86, log entry 28). -/
theorem orderCall_queues {x : CallEntry} {c : CallStore} (hf : callFits priority message lines repeats policy chime pr)
    (hb : T.currentBytes n = callImage head priority message lines repeats policy chime)
    (ha : admitCall (callRequest n pr message lines repeats policy chime) (callWaits n head) T =
      (.queued x.id, setCalls (c.enqueued x) T)) :
    orderCall n T = afterAdmission pr (if headWaits head then laneWaits n .action (setCalls (admitted c n x) T)
      else (setCalls (admitted c n x) T).emit [.orderEnds n (Result.of .started x.id 0 (lines.setWidth 32))]) := by
  unfold callRequest callWaits at ha
  unfold orderCall
  simp only [hb, callImage_priority hf, callImage_message, callImage_lines, callImage_repeats, callImage_continues,
    callImage_chime, imageWait_orderImage, ha, setLastCall_enqueued]

/-! ### CALL's event -/

/-- Lane `n` takes a CALL of these parameters, which passes its checks (R85, R139). -/
structure State.Calls (s : State) (n : Lane) (link : Half) (head : OrderHead) (priority message : Byte) (lines : Half)
    (repeats policy chime : Byte) (pr : Priority) : Prop where
  takes  : s.TakesOrder n link head
  plan   : s.part.plan.isSome = true
  fits   : callFits priority message lines repeats policy chime pr
  bridge : pr = .emergency → (s.part.lane n).bridge = true

/-- The CALL is queued as entry `x` of the store `c` (R86, R88), whatever the rest of the part. -/
structure State.Queues (s : State) (n : Lane) (link : Half) (head : OrderHead) (priority message : Byte) (lines : Half)
    (repeats policy chime : Byte) (pr : Priority) (c : CallStore) (x : CallEntry) : Prop
    extends State.Calls s n link head priority message lines repeats policy chime pr where
  length : s.part.messageLength message ≠ 0
  entry  : x = newCall n pr message lines repeats policy chime s.part.calls.nextId (callWaits n head)
  admits : ∀ T, s.part.CallsAs T →
    admitCall (callRequest n pr message lines repeats policy chime) (callWaits n head) T =
      (.queued x.id, setCalls (c.enqueued x) T)

theorem length_callParams : (callParams priority message lines repeats policy chime).length ≤ 24 := by
  simp [callParams, halfBytes]

theorem callImage_claimEntry (p : Part) : p.claimEntry (callImage head priority message lines repeats policy chime) = none := by
  rw [Part.claimEntry, imageKind_orderImage]

theorem State.Calls.exec_call (h : s.Calls n link head priority message lines repeats policy chime pr) :
    exec (.call n head priority message lines repeats policy chime) s =
      .next (runOrder n (callImage head priority message lines repeats policy chime) s) :=
  exec_order h.takes rfl

/-- A CALL that ends at once. -/
theorem State.Calls.ends {r : Result} {c : CallStore} (h : s.Calls n link head priority message lines repeats policy chime pr)
    (ha : r.code.failure = true → head.alternate ≠ 0)
    (hB : ∀ T, s.part.CallsAs T → T.currentBytes n = callImage head priority message lines repeats policy chime →
      orderCall n T = (setCalls c T).emit [.orderEnds n r]) :
    ∃ t, exec (.call n head priority message lines repeats policy chime) s = .next t ∧
      s.OrderEnds t n link head r { s.part with calls := c } := by
  refine ⟨_, h.exec_call, order_done_taken h.takes length_callParams (callImage_paramChecks _ h.fits) (.inl h.plan)
    (fun hb => h.bridge ((needsBridge_callImage h.fits).1 hb)) (callImage_claimEntry _) (fun m => ?_) ha rfl rfl rfl rfl rfl
    rfl⟩
  rw [blockOrder_call (takenPart_currentBytes ..), hB _ ⟨takenPart_calls .., takenPart_player .., takenPart_lines ..,
    takenPart_zones .., takenPart_plan ..⟩ (takenPart_currentBytes ..), takenPart_eq, takenPart_eq]
  rfl

/-- A CALL whose call is queued. Its admission takes the deck to `p0` with micro-operations `acts` to do, which take it to
`p`. -/
theorem State.Queues.goesOn {p p0 : Part} {acts : List Act} {a : Nat} {c : CallStore} {x : CallEntry}
    (h : s.Queues n link head priority message lines repeats policy chime pr c x)
    (hafter : ∀ P, ({ s.part with calls := admitted c n x } : Part).CallsAs P →
      afterAdmission pr P = (p0.takeCalls P).emit acts)
    (hdoes : ∀ P, p0.CallsAs P → P.agenda = [] → P.Does acts a (p.takeCalls P) []) (hlen : a ≤ 60000)
    (hp0 : s.part.CallChange p0) (hp : s.part.CallChange p) :
    callGoesOn s n link head (.call n head priority message lines repeats policy chime)
      (callImage head priority message lines repeats policy chime) x p := by
  have hbr : needsBridge (callImage head priority message lines repeats policy chime) .call = true →
      (s.part.lane n).bridge = true := fun hb => h.bridge ((needsBridge_callImage h.fits).1 hb)
  have hblock : ∀ m, blockOrder n m (inHand s n link head (callImage head priority message lines repeats policy chime) s.part) =
      afterAdmission pr (if headWaits head
        then laneWaits n .action (inHand s n link head (callImage head priority message lines repeats policy chime)
          { s.part with calls := admitted c n x })
        else (inHand s n link head (callImage head priority message lines repeats policy chime)
          { s.part with calls := admitted c n x }).emit
            [.orderEnds n (Result.of .started x.id 0 (lines.setWidth 32))]) := fun m => by
    have hbytes := midOrder_currentBytes n ((s.part.lane n).holding (heldBy link head
      (callImage head priority message lines repeats policy chime))) (takenCells link head.standing s.part.now) s.part _ rfl
    rw [blockOrder_call hbytes, orderCall_queues h.fits hbytes (h.admits _ (Part.callsAs_midOrder ..))]
    rfl
  have hx : x.lines = lines := h.entry ▸ rfl
  refine ⟨fun hw => ⟨_, h.exec_call, ?_⟩, fun hw => ⟨_, h.exec_call, ?_⟩⟩
  · refine callOrder_ends h.takes length_callParams (callImage_paramChecks _ h.fits) h.plan hbr (callImage_claimEntry _)
      (fun m => ?_) hdoes hlen hp0 hp (show ResultCode.failure .started = false by decide)
    rw [hblock, hw, if_neg (by simp), hafter, hx, hp0.inHand]
    · exact emit_emit (p0.takeCalls (Machine.inHand s n link head _ s.part)) [_] acts
    · exact ⟨rfl, rfl, rfl, rfl, rfl⟩
  · refine callOrder_waits h.takes length_callParams (callImage_paramChecks _ h.fits) h.plan hbr (callImage_claimEntry _)
      (fun m => ?_) hdoes hlen hp0 hp
    rw [hblock, hw, if_pos rfl, laneWaits_midOrder, hafter, laneWaits_midOrder, hp0.midOrder]
    · rfl
    · exact ⟨rfl, rfl, rfl, rfl, rfl⟩

end

end Sys2Proof.Machine
end

section
/-! What a CALL's admission leads to (R86 to R88, R91 to R93, R96). -/

namespace Sys2Proof.Machine

/-! ### What follows the admission (R86, R96) -/

/-- The store once the active call has been suspended as `e` (R96). -/
def CallStore.suspended (c : CallStore) (e : CallEntry) : CallStore :=
  { c with
    active := none,
    suspendedRoutine := if e.priority = .routine then some e.suspends else c.suspendedRoutine,
    suspendedUrgent := if e.priority = .routine then c.suspendedUrgent else some e.suspends }

/-- What preempting a call that has no PLAY outstanding leaves of it and of the lines (R96). -/
def preemptedAs (active e : CallEntry) (p q : Part) : Prop :=
  (active.state = .chime ∧ active.chimeOnly = false ∧ e = { active with chimePending := true } ∧
      q = forEach (linesOf active.lines) withdrawChime p) ∨
    (active.state = .chime ∧ active.chimeOnly = true ∧ e = { active with interrupted := true } ∧
      q = forEach (linesOf active.lines) withdrawChime p) ∨
    (active.state = .playing ∧ active.playSent = false ∧ e = { active with interrupted := false } ∧ q = p)

section
variable {p q : Part} {pr : Priority} {active e : CallEntry}

theorem afterAdmission_selects (ha : p.calls.active = none) : afterAdmission pr p = p.emit [.selectCall] := by
  unfold afterAdmission
  rw [ha]

theorem afterAdmission_leaves (ha : p.calls.active = some active) (h : pr.num ≤ active.priority.num) :
    afterAdmission pr p = p := by
  unfold afterAdmission
  rw [ha]
  exact if_neg (by omega)

theorem afterAdmission_preempts (ha : p.calls.active = some active) (h : active.priority.num < pr.num) :
    afterAdmission pr p = preemptActive active p := by
  unfold afterAdmission
  rw [ha]
  exact if_pos h

theorem preemptActive_cuts (hs : active.state = .playing) (h : active.playSent = true) :
    preemptActive active p = sendCut (setActive (some { active with state := .cutting, cutReason := some .preempt }) p) := by
  unfold preemptActive
  simp only [hs, h, if_true]

theorem preemptActive_cutting (hs : active.state = .cutting) : preemptActive active p = p := by
  unfold preemptActive
  simp only [hs]

theorem suspendCall_eq (e : CallEntry) (p : Part) : suspendCall e p = setCalls (p.calls.suspended e) p := by
  by_cases h : e.priority = .routine
  · rw [suspendCall_routine h, CallStore.suspended, if_pos h, if_pos h]
    rfl
  · rw [suspendCall_urgent h, CallStore.suspended, if_neg h, if_neg h]
    rfl

theorem preemptActive_suspends (h : preemptedAs active e p q) :
    preemptActive active p = (setCalls (q.calls.suspended e) q).emit [.selectCall] := by
  rw [← suspendCall_eq]
  unfold preemptActive
  rcases h with ⟨hs, hc, rfl, rfl⟩ | ⟨hs, hc, rfl, rfl⟩ | ⟨hs, hc, rfl, rfl⟩ <;>
    simp only [hs, hc, Bool.false_eq_true, if_true, if_false]

theorem preemptedAs.priority (h : preemptedAs active e p q) : e.priority = active.priority := by
  rcases h with ⟨-, -, rfl, -⟩ | ⟨-, -, rfl, -⟩ | ⟨-, -, rfl, -⟩ <;> rfl

theorem preemptedAs.lines (h : preemptedAs active e p q) : q = { p with lines := q.lines } := by
  rcases h with ⟨-, -, -, rfl⟩ | ⟨-, -, -, rfl⟩ | ⟨-, -, -, rfl⟩
  · exact withdrawChimes_eq _ _
  · exact withdrawChimes_eq _ _
  · rfl

/-- A call is preempted alike on parts of the same lines and plan. -/
theorem preemptedAs.congr {P : Part} (h : preemptedAs active e p q) (hl : P.lines = p.lines) (hp : P.plan = p.plan) :
    preemptedAs active e P { P with lines := q.lines } := by
  have hw := withdrawChimes_eq (p := P) (linesOf active.lines)
  rw [withdrawChimes_congr _ hl hp] at hw
  rcases h with ⟨hs, hc, he, rfl⟩ | ⟨hs, hc, he, rfl⟩ | ⟨hs, hc, he, rfl⟩
  · exact .inl ⟨hs, hc, he, hw.symm⟩
  · exact .inr (.inl ⟨hs, hc, he, hw.symm⟩)
  · exact .inr (.inr ⟨hs, hc, he, by rw [← hl]⟩)

end

/-! ### The selection of the call queued -/

/-- R91 to R93: the only call of its list that none is ahead of is served. -/
theorem selectCall_serves {p P q : Part} {pr : Priority} {x : CallEntry} (hP : p.CallsAs P) (ha : p.calls.active = none)
    (hn : p.calls.noneAhead pr) (hl : p.calls.list pr = [x]) (hlines : (p.prune x).lines ≠ 0)
    (hlen : p.messageLength x.message ≠ 0) (hs : (setCalls (p.calls.setList [] pr) p).Serves (p.prune x) q) :
    selectCall P = q.takeCalls P := by
  have hset : (setCalls (p.calls.setList [] pr) p).CallsAs (setCalls (P.calls.setList [] pr) P) :=
    ⟨congrArg (fun c : CallStore => c.setList [] pr) hP.calls, hP.player, hP.lines, hP.zones, hP.plan⟩
  have hprune : (setCalls (P.calls.setList [] pr) P).prune x = p.prune x := hP.prune x
  rw [selectCall_head (hP.calls ▸ ha) (hP.calls ▸ hn) (hP.calls ▸ hl), activateCall_starts (by rwa [hprune]), hprune]
  refine startService_serves (hset.serves hs) ?_
  rw [prune_eq]
  exact hP.messageLength x.message ▸ hlen

/-- R92: the only call of its list that none is ahead of ends SUPERSEDED where no line of it is left. -/
theorem selectCall_supersedes {p P : Part} {pr : Priority} {x : CallEntry} (hP : p.CallsAs P) (ha : p.calls.active = none)
    (hn : p.calls.noneAhead pr) (hl : p.calls.list pr = [x]) (hlines : (p.prune x).lines = 0) (hs : x.state ≠ .chime)
    (hw : x.waiting = []) :
    selectCall P = (setCalls ((p.calls.setList [] pr).activeEnds x.id) P).emit [.selectCall] := by
  have hprune : (setCalls (P.calls.setList [] pr) P).prune x = p.prune x := hP.prune x
  have hkeeps : (p.prune x).state = x.state ∧ (p.prune x).waiting = x.waiting ∧ (p.prune x).id = x.id := by
    rw [prune_eq]
    exact ⟨rfl, rfl, rfl⟩
  obtain ⟨hstate, hwaiting, hid⟩ := hkeeps
  rw [selectCall_head (hP.calls ▸ ha) (hP.calls ▸ hn) (hP.calls ▸ hl), activateCall_superseded (by rwa [hprune]), hprune,
    endActive_eq (by rwa [hstate]) (by rwa [hwaiting]), hid, ← hP.calls]
  rfl

section
variable {s : State} {n : Lane} {link : Half} {head : OrderHead} {priority message : Byte} {lines : Half}
  {repeats policy chime : Byte} {pr : Priority} {p p0 q : Part} {c : CallStore} {x : CallEntry}

/-- A CALL whose admission leaves nothing more to do. -/
theorem State.Queues.rests (h : s.Queues n link head priority message lines repeats policy chime pr c x)
    (hafter : ∀ P, ({ s.part with calls := admitted c n x } : Part).CallsAs P → afterAdmission pr P = p.takeCalls P)
    (hp : s.part.CallChange p) :
    callGoesOn s n link head (.call n head priority message lines repeats policy chime)
      (callImage head priority message lines repeats policy chime) x p := by
  refine h.goesOn (acts := []) (a := 0) (fun P hP => (hafter P hP).trans (emit_nil _).symm) (fun P hP ha => ?_)
    (by omega) hp hp
  rw [hP.takeCalls_eq]
  exact .idle ha (by simp)

/-- A CALL whose admission has its call selected in the event. -/
theorem State.Queues.selects (h : s.Queues n link head priority message lines repeats policy chime pr c x)
    (hafter : ∀ P, ({ s.part with calls := admitted c n x } : Part).CallsAs P →
      afterAdmission pr P = (p0.takeCalls P).emit [.selectCall])
    (hp0 : s.part.CallChange p0) (hp : s.part.CallChange q) (hselect : ∀ P, p0.CallsAs P → selectCall P = q.takeCalls P) :
    callGoesOn s n link head (.call n head priority message lines repeats policy chime)
      (callImage head priority message lines repeats policy chime) x q :=
  h.goesOn hafter
    (fun P hP ha => .one ha (by simp) fun _ => (hselect P hP).trans (emit_nil _).symm) (by simp) hp0 hp

end

end Sys2Proof.Machine
end

section
/-! CALL's admission (R86, R88), and what it leads to where there is no other call, or an active one of no lower priority. -/

namespace Sys2Proof.Machine

/-- The store with the only call taken off its list for service. -/
theorem admitted_popped {c : CallStore} {n : Lane} {x : CallEntry} (h : c.entries = []) :
    (admitted c n x).setList [] x.priority = { admitted c n x with routine := [], urgent := [], emergency := [] } := by
  obtain ⟨hr, hu, he, -⟩ := CallStore.entries_eq_nil.1 h
  cases hx : x.priority <;> simp only [admitted, CallStore.setList, CallStore.list, hx, hr, hu, he]

theorem admitted_list (c : CallStore) (n : Lane) (x : CallEntry) :
    (admitted c n x).list x.priority = c.list x.priority ++ [x] := by
  cases hx : x.priority <;> simp only [admitted, CallStore.setList, CallStore.list, hx]

theorem CallStore.list_eq_nil {c : CallStore} (h : c.entries = []) (pr : Priority) : c.list pr = [] := by
  obtain ⟨hr, hu, he, -⟩ := CallStore.entries_eq_nil.1 h
  cases pr <;> assumption

theorem CallStore.active_eq_none {c : CallStore} (h : c.entries = []) : c.active = none := by
  obtain ⟨-, -, -, ha, -⟩ := CallStore.entries_eq_nil.1 h
  exact ha

theorem CallStore.queued_eq_zero {c : CallStore} (h : c.entries = []) : c.queued = 0 := by
  obtain ⟨hr, hu, he, -⟩ := CallStore.entries_eq_nil.1 h
  simp [CallStore.queued, hr, hu, he]

/-- In a store of no other call nothing is ahead of the call queued. -/
theorem noneAhead_admitted {c : CallStore} (h : c.entries = []) (n : Lane) (x : CallEntry) :
    (admitted c n x).noneAhead x.priority := by
  obtain ⟨hr, hu, he, -, hsr, hsu⟩ := CallStore.entries_eq_nil.1 h
  cases hx : x.priority <;> simp [admitted, CallStore.setList, CallStore.list, CallStore.noneAhead, hx, hu, he, hsr, hsu]

theorem admitted_active (c : CallStore) (n : Lane) (x : CallEntry) : (admitted c n x).active = c.active := by
  cases hx : x.priority <;> simp only [admitted, CallStore.setList, hx]

section
variable {s : State} {n : Lane} {link : Half} {head : OrderHead} {priority message : Byte} {lines : Half}
  {repeats policy chime : Byte} {pr : Priority} {c : CallStore} {x : CallEntry} {active : CallEntry}

/-! ### The admission -/

/-- R86: with a place free and no identical call queued, the CALL is queued under the next id. -/
theorem State.Calls.queues (h : s.Calls n link head priority message lines repeats policy chime pr)
    (hlen : s.part.messageLength message ≠ 0)
    (hx : x = newCall n pr message lines repeats policy chime s.part.calls.nextId (callWaits n head))
    (hq : s.part.calls.queued < 16) (hno : ∀ e ∈ s.part.calls.list pr, e.message ≠ message ∨ e.lines ≠ lines)
    (hid : ∀ e ∈ s.part.calls.entries, e.id ≠ s.part.calls.nextId) :
    s.Queues n link head priority message lines repeats policy chime pr s.part.calls x := by
  refine ⟨h, hlen, hx, fun T hT => ?_⟩
  subst hx
  rw [admitCall_queues (by rwa [hT.messageLength]) (by rwa [hT.calls]) (by rwa [hT.calls]) (by rwa [hT.calls]), hT.calls]
  rfl

/-- A CALL is queued in a store of no call. -/
theorem State.Calls.queues_alone (h : s.Calls n link head priority message lines repeats policy chime pr)
    (hlen : s.part.messageLength message ≠ 0)
    (hx : x = newCall n pr message lines repeats policy chime s.part.calls.nextId (callWaits n head))
    (hnone : s.part.calls.entries = []) :
    s.Queues n link head priority message lines repeats policy chime pr s.part.calls x :=
  h.queues hlen hx (by rw [CallStore.queued_eq_zero hnone]; omega) (by simp [CallStore.list_eq_nil hnone]) (by simp [hnone])

/-- R88: at a full pool the youngest ROUTINE entry gives its place. -/
theorem State.Calls.displaces {y : CallEntry} {rest : List CallEntry}
    (h : s.Calls n link head priority message lines repeats policy chime pr) (hlen : s.part.messageLength message ≠ 0)
    (hx : x = newCall n pr message lines repeats policy chime s.part.calls.nextId (callWaits n head))
    (hq : s.part.calls.queued = 16) (hno : ∀ e ∈ s.part.calls.list pr, e.message ≠ message ∨ e.lines ≠ lines)
    (hr : pr ≠ .routine) (hy : s.part.calls.routine = rest ++ [y]) (hs : y.state = .queued) (hw : y.waiting = [])
    (hid : ∀ e ∈ s.part.calls.entries, e.id ≠ s.part.calls.nextId) :
    s.Queues n link head priority message lines repeats policy chime pr
      { s.part.calls with routine := rest, lastEnded := s.part.calls.ended y.id } x := by
  refine ⟨h, hlen, hx, fun T hT => ?_⟩
  subst hx
  rw [admitCall_displaces (by rwa [hT.messageLength]) (by rwa [hT.calls]) (by rwa [hT.calls]) hr
    (by rwa [hT.calls]) hs hw (by rwa [hT.calls]), hT.calls]
  rfl

theorem State.Queues.priority_eq (h : s.Queues n link head priority message lines repeats policy chime pr c x) :
    x.priority = pr := h.entry ▸ rfl

/-! ### No call active, or one of no lower priority -/

/-- R91 to R93: with no other call, the CALL's own is served in the event. -/
theorem call_served_alone {q : Part} (h : s.Queues n link head priority message lines repeats policy chime pr s.part.calls x)
    (hnone : s.part.calls.entries = []) (hlines : (s.part.prune x).lines ≠ 0)
    (hs : ({ s.part with calls := { admitted s.part.calls n x with routine := [], urgent := [], emergency := [] } } :
      Part).Serves (s.part.prune x) q) :
    callGoesOn s n link head (.call n head priority message lines repeats policy chime)
      (callImage head priority message lines repeats policy chime) x q := by
  have hactive : (admitted s.part.calls n x).active = none :=
    (admitted_active ..).trans (CallStore.active_eq_none hnone)
  refine h.selects (p0 := { s.part with calls := admitted s.part.calls n x }) (fun P hP => ?_) rfl hs.callChange
    (fun P hP => ?_)
  · rw [hP.takeCalls_eq]
    exact afterAdmission_selects (hP.calls ▸ hactive)
  · refine selectCall_serves hP hactive (h.priority_eq ▸ noneAhead_admitted hnone n x) ?_ hlines (h.entry ▸ h.length) ?_
    · rw [← h.priority_eq, admitted_list, CallStore.list_eq_nil hnone, List.nil_append]
    · rw [← h.priority_eq, admitted_popped hnone]
      exact hs

/-- R92: with no other call and none of its lines left, the CALL's own ends SUPERSEDED in the event. -/
theorem call_superseded_alone (h : s.Queues n link head priority message lines repeats policy chime pr s.part.calls x)
    (hnone : s.part.calls.entries = []) (hlines : (s.part.prune x).lines = 0) (hw : headWaits head = false) :
    ∃ t, exec (.call n head priority message lines repeats policy chime) s = .next t ∧
      s.OrderEnds t n link head (Result.of .started x.id 0 (x.lines.setWidth 32)) { s.part with
        calls := { admitted s.part.calls n x with
          routine := [], lastEnded := (admitted s.part.calls n x).ended x.id } } := by
  have hroutine : x.priority = .routine := by
    by_contra hne
    rw [prune_other s.part hne, h.entry] at hlines
    exact lines_ne_zero h.fits hlines
  obtain ⟨-, hu, he, ha, hsr, hsu⟩ := CallStore.entries_eq_nil.1 hnone
  have hactive : (admitted s.part.calls n x).active = none := (admitted_active ..).trans ha
  obtain ⟨p, hp⟩ : ∃ p : Part, p = { s.part with calls := { admitted s.part.calls n x with
    routine := [], lastEnded := (admitted s.part.calls n x).ended x.id } } := ⟨_, rfl⟩
  have hstore : ((admitted s.part.calls n x).setList [] x.priority).activeEnds x.id = p.calls := by
    rw [hp, hroutine]
    simp only [CallStore.setList, hactive]
    rfl
  have hrest : p.calls.entries = [] := by
    rw [hp]
    simp [CallStore.entries_eq_nil, admitted, hroutine, CallStore.setList, hu, he, ha, hsr, hsu]
  rw [← hp]
  refine (h.goesOn (p0 := { s.part with calls := admitted s.part.calls n x }) (p := p) (a := 2) (acts := [.selectCall])
    (fun P hP => ?_) (fun P hP hag => ?_) (by omega) rfl (hp ▸ rfl)).1 hw
  · rw [hP.takeCalls_eq]
    exact afterAdmission_selects (hP.calls ▸ hactive)
  · have hselect : selectCall P = (p.takeCalls P).emit [.selectCall] := by
      rw [selectCall_supersedes hP hactive (noneAhead_admitted hnone n x)
        (by rw [admitted_list, CallStore.list_eq_nil hnone, List.nil_append]) hlines (by simp [h.entry, newCall])
        (by simp [h.entry, newCall, callWaits, hw]), hstore, Part.takeCalls, hp, ← hP.player, ← hP.lines]
      rfl
    exact Part.Does.andThen (b := 1) (.one hag (by simp) fun _ => hselect)
      (.one hag (by simp) fun _ => (selectCall_idle (p := p.takeCalls P) hrest).trans (emit_nil _).symm)

/-- R86: with an active call of no lower priority, the CALL's own waits on its list. -/
theorem call_queued (h : s.Queues n link head priority message lines repeats policy chime pr c x)
    (ha : c.active = some active) (hpr : pr.num ≤ active.priority.num) :
    callGoesOn s n link head (.call n head priority message lines repeats policy chime)
      (callImage head priority message lines repeats policy chime) x
      { s.part with calls := admitted c n x } := by
  refine h.rests (fun P hP => ?_) rfl
  rw [hP.takeCalls_eq]
  exact afterAdmission_leaves (hP.calls ▸ (admitted_active ..).trans ha) hpr

end

end Sys2Proof.Machine
end

section
/-! CALL at an active call of lower priority (R96). -/

namespace Sys2Proof.Machine

/-- The store once the active call has been suspended and the call queued is taken off its list for service. -/
theorem suspended_popped {c : CallStore} {x : CallEntry} (n : Lane) (e : CallEntry) (hx : x.priority ≠ .routine)
    (hem : c.emergency = []) (hur : c.urgent = []) (hsu : c.suspendedUrgent = none) :
    ((admitted c n x).suspended e).setList [] x.priority = { admitted c n x with
      active := none, emergency := [], urgent := [],
      suspendedRoutine := if e.priority = .routine then some e.suspends else c.suspendedRoutine,
      suspendedUrgent := if e.priority = .routine then none else some e.suspends } := by
  cases hp : x.priority with
  | routine => exact absurd hp hx
  | urgent | emergency =>
    simp only [admitted, CallStore.suspended, CallStore.setList, CallStore.list, hp, hem, hur, hsu]

theorem suspended_list (c : CallStore) (e : CallEntry) (pr : Priority) : (c.suspended e).list pr = c.list pr := by
  cases pr <;> rfl

/-- None is ahead of a call that has preempted the active one. -/
theorem noneAhead_suspended {c : CallStore} {x e : CallEntry} (n : Lane) (h : e.priority.num < x.priority.num)
    (hem : c.emergency = []) (hsu : c.suspendedUrgent = none) : ((admitted c n x).suspended e).noneAhead x.priority := by
  cases hx : x.priority with
  | routine => simp [hx, Priority.num] at h
  | emergency => trivial
  | urgent =>
    have he : e.priority = .routine := by
      cases hp : e.priority <;> simp [hx, hp, Priority.num] at h ⊢
    simp [CallStore.noneAhead, CallStore.suspended, admitted, CallStore.setList, hx, he, hem, hsu]

section
variable {s : State} {n : Lane} {link : Half} {head : OrderHead} {priority message : Byte} {lines : Half}
  {repeats policy chime : Byte} {pr : Priority} {x : CallEntry} {active : CallEntry}

/-- R96: an outstanding PLAY is cut, and the CALL's own call waits on its list. -/
theorem call_cuts (h : s.Queues n link head priority message lines repeats policy chime pr s.part.calls x)
    (ha : s.part.calls.active = some active) (hlt : active.priority.num < pr.num)
    (hs : active.state = .playing) (hsent : active.playSent = true) :
    callGoesOn s n link head (.call n head priority message lines repeats policy chime)
      (callImage head priority message lines repeats policy chime) x { s.part with
        calls := { admitted s.part.calls n x with active := some { active with state := .cutting, cutReason := some .preempt } },
        player := { s.part.player with
          state := .cutting, replyTimer := some (.cutDone, 50), sentFrame := [0x32, 0, 0, 0, 0xCE] } } := by
  refine h.rests (fun P hP => ?_) rfl
  rw [afterAdmission_preempts (hP.calls ▸ (admitted_active ..).trans ha) hlt, preemptActive_cuts hs hsent, sendCut, setActive,
    Part.takeCalls, hP.calls, hP.player, hP.lines]
  rfl

/-- R96: a cut under way goes on. -/
theorem call_during_cut (h : s.Queues n link head priority message lines repeats policy chime pr s.part.calls x)
    (ha : s.part.calls.active = some active) (hlt : active.priority.num < pr.num) (hs : active.state = .cutting) :
    callGoesOn s n link head (.call n head priority message lines repeats policy chime)
      (callImage head priority message lines repeats policy chime) x
      { s.part with calls := admitted s.part.calls n x } := by
  refine h.rests (fun P hP => ?_) rfl
  rw [afterAdmission_preempts (hP.calls ▸ (admitted_active ..).trans ha) hlt, preemptActive_cutting hs, hP.takeCalls_eq]

/-- R96: a chime or a wait for the link ends in the suspend slot, and the CALL's own call is served. -/
theorem call_suspends {p q : Part} {e : CallEntry}
    (h : s.Queues n link head priority message lines repeats policy chime pr s.part.calls x)
    (ha : s.part.calls.active = some active) (hlt : active.priority.num < pr.num) (hem : s.part.calls.emergency = [])
    (hsu : s.part.calls.suspendedUrgent = none) (hur : s.part.calls.urgent = []) (hpre : preemptedAs active e s.part p)
    (hs : ({ p with calls := { admitted s.part.calls n x with
      active := none, emergency := [], urgent := [],
      suspendedRoutine := if active.priority = .routine then some e.suspends else s.part.calls.suspendedRoutine,
      suspendedUrgent := if active.priority = .routine then none else some e.suspends } } : Part).Serves x q) :
    callGoesOn s n link head (.call n head priority message lines repeats policy chime)
      (callImage head priority message lines repeats policy chime) x q := by
  have hpr : x.priority = pr := h.priority_eq
  have hother : x.priority ≠ .routine := fun hr => by simp [← hpr, hr, Priority.num] at hlt
  have hlist : s.part.calls.list pr = [] := by
    rw [← hpr]
    cases hp : x.priority
    exacts [absurd hp hother, hur, hem]
  rw [← hpre.priority, ← suspended_popped n e hother hem hur hsu] at hs
  have hp0 : s.part.CallChange { p with calls := (admitted s.part.calls n x).suspended e } := by
    rw [hpre.lines]
    rfl
  refine h.selects (fun P hP => ?_) hp0
    (hp0.trans (p := { p with calls := (admitted s.part.calls n x).suspended e }) hs.callChange) (fun P hP => ?_)
  · rw [afterAdmission_preempts (hP.calls ▸ (admitted_active ..).trans ha) hlt,
      preemptActive_suspends (hpre.congr hP.lines hP.plan), setCalls, Part.takeCalls, hP.calls, hP.player, hpre.lines]
  · refine selectCall_serves (pr := x.priority) (x := x) hP rfl
      (noneAhead_suspended n (hpre.priority ▸ hpr ▸ hlt) hem hsu) ?_ ?_ ?_ ?_
    · rw [suspended_list, admitted_list, hpr, hlist, List.nil_append]
    · rw [prune_other _ hother, h.entry]
      exact lines_ne_zero h.fits
    · rw [h.entry, hpre.lines]
      exact h.length
    · rw [prune_other _ hother]
      exact hs

end

end Sys2Proof.Machine
end

section
/-! CALL (R85 to R93, R96): its cases together. -/

namespace Sys2Proof.Machine

section
variable {s : State} {n : Lane} {link : Half} {head : OrderHead} {priority message : Byte} {lines : Half}
  {repeats policy chime : Byte} {pr : Priority}

/-- R88: a full pool refuses a ROUTINE call, and any call where it holds no ROUTINE entry. -/
theorem State.Calls.refused_full (h : s.Calls n link head priority message lines repeats policy chime pr)
    (hlen : s.part.messageLength message ≠ 0) (hq : s.part.calls.queued = 16)
    (hno : ∀ e ∈ s.part.calls.list pr, e.message ≠ message ∨ e.lines ≠ lines)
    (hr : pr = .routine ∨ s.part.calls.routine = []) (ha : head.alternate ≠ 0) :
    ∃ t, exec (.call n head priority message lines repeats policy chime) s = .next t ∧
      s.OrderEnds t n link head (Result.of .queueFull 0 0 (lines.setWidth 32)) s.part := by
  refine h.ends (c := s.part.calls) (fun _ => ha) fun T hT hb => ?_
  rw [← hT.calls]
  exact orderCall_refused h.fits hb (.inr ⟨admitCall_full (by rwa [hT.messageLength]) (by rwa [hT.calls])
    (by rwa [hT.calls]) (by rwa [hT.calls]), rfl⟩)

/-- R86: the plan gives the message no length. -/
theorem State.Calls.refused_noMessage (h : s.Calls n link head priority message lines repeats policy chime pr)
    (hlen : s.part.messageLength message = 0) (ha : head.alternate ≠ 0) :
    ∃ t, exec (.call n head priority message lines repeats policy chime) s = .next t ∧
      s.OrderEnds t n link head (Result.of .noMessage 0 0 (lines.setWidth 32)) s.part := by
  refine h.ends (c := s.part.calls) (fun _ => ha) fun T hT hb => ?_
  rw [← hT.calls]
  exact orderCall_refused h.fits hb (.inl ⟨admitCall_noMessage (by rwa [hT.messageLength]), rfl⟩)

/-- The entries once a list has been set to one entry: that entry, and others that were there. -/
theorem CallStore.mem_setList_singleton {c : CallStore} {e x : CallEntry} (pr : Priority) :
    (e ∈ (c.setList [e] pr).entries) ∧ (x ∈ (c.setList [e] pr).entries → x = e ∨ x ∈ c.entries) := by
  cases pr <;> simp only [CallStore.setList, CallStore.entries, List.mem_append, List.mem_singleton] <;> tauto

/-- The repeats done that a lookup of the merged call's id finds (R87). -/
theorem CallStore.repeatsDone_merged {c : CallStore} {e : CallEntry} (pr : Priority) (r : Nat)
    (hone : ∀ x ∈ c.entries, x.id = e.id → x = e) :
    (((c.setList [{ e with repeats := r }] pr).entries.find? (fun x => x.id == e.id)).map (fun x => x.repeatsDone)).getD 0 =
      e.repeatsDone := by
  cases hfind : (c.setList [{ e with repeats := r }] pr).entries.find? (fun x => x.id == e.id) with
  | none =>
    rw [List.find?_eq_none] at hfind
    exact absurd (beq_self_eq_true e.id) (hfind { e with repeats := r } (CallStore.mem_setList_singleton (x := e) pr).1)
  | some x =>
    have hx : x.id = e.id := by simpa using List.find?_some hfind
    rcases (CallStore.mem_setList_singleton pr).2 (List.mem_of_find?_eq_some hfind) with rfl | hmem
    · rfl
    · rw [hone x hmem hx]
      rfl

/-- R87: a CALL of the only call in its list is merged into it. -/
theorem State.Calls.merges {e : CallEntry} (h : s.Calls n link head priority message lines repeats policy chime pr)
    (hw : headWaits head = false) (hlen : s.part.messageLength message ≠ 0) (hl : s.part.calls.list pr = [e])
    (hpr : e.priority = pr) (hm : e.message = message) (hlines : e.lines = lines)
    (hone : ∀ x ∈ s.part.calls.entries, x.id = e.id → x = e) :
    ∃ t, exec (.call n head priority message lines repeats policy chime) s = .next t ∧
      s.OrderEnds t n link head (Result.of .merged e.id (word e.repeatsDone) (lines.setWidth 32))
        { s.part with calls := { s.part.calls.setList [{ e with repeats := Nat.max e.repeats repeats.toNat }] pr with
          lastCall := setAt s.part.calls.lastCall n (some e.id),
          lastEnded := setAt s.part.calls.lastEnded n false } } := by
  refine h.ends (fun hf => absurd hf (show ¬ ResultCode.failure .merged = true by decide)) fun T hT hb => ?_
  have hsame : (callRequest n pr message lines repeats policy chime).same e = true := by
    simp [CallRequest.same, callRequest, hpr, hm, hlines]
  have hmerge : admitCall (callRequest n pr message lines repeats policy chime) [] T = (.merged e.id,
      setCalls (s.part.calls.setList [{ e with repeats := Nat.max e.repeats repeats.toNat }] pr) T) := by
    rw [admitCall_merges (by rwa [hT.messageLength]) (by rwa [hT.calls]) hsame, hT.calls, List.append_nil]
    rfl
  rw [orderCall_merges h.fits hb hw hmerge, CallStore.repeatsDone_merged pr _ hone]
  cases pr <;> rfl

end

/-- What a CALL brings about at once (R86, R88, R91 to R93, R96). -/
theorem callActsAtOnce_holds : callActsAtOnce := by
  intro s n link head priority message lines repeats policy chime pr c image x ht hplan hf hbr hlen hc hi hx
  subst hc hi
  have h : s.Calls n link head priority message lines repeats policy chime pr := ⟨ht, hplan, hf, hbr⟩
  have hid : x.id = s.part.calls.nextId := hx ▸ rfl
  refine ⟨fun q hnone hlines hs => call_served_alone (h.queues_alone hlen hx hnone) hnone hlines hs,
    fun hnone hlines hw => ?_, fun active ha hq hno hids hlt => ?_, fun hq hno => ⟨?_, ?_⟩⟩
  · have hended := call_superseded_alone (h.queues_alone hlen hx hnone) hnone hlines hw
    rwa [show x.lines = lines from hx ▸ rfl] at hended
  · have hqueues := h.queues hlen hx hq hno (by rwa [← hid])
    exact ⟨call_cuts hqueues ha hlt, call_during_cut hqueues ha hlt,
      fun e p q hem hsu hur hpre hs => call_suspends hqueues ha hlt hem hsu hur hpre hs⟩
  · exact h.refused_full hlen hq hno
  · exact fun active y rest hr ha hpr hy hs hw hids =>
      call_queued (h.displaces hlen hx hq hno hr hy hs hw (by rwa [← hid])) ha hpr

/-- Settles O55: the admission's cases, then what each leads to in the event. -/
theorem callIsAdmitted : Obligations.CallIsAdmitted := by
  refine ⟨pruneRemovesLines_holds, callActsAtOnce_holds,
    fun s n link head priority message lines repeats policy chime pr ht hplan hf hbr => ?_,
    fun s n link head priority message lines repeats policy chime pr e ht hplan hf hbr hw hlen =>
      State.Calls.merges ⟨ht, hplan, hf, hbr⟩ hw hlen⟩
  have h : s.Calls n link head priority message lines repeats policy chime pr := ⟨ht, hplan, hf, hbr⟩
  refine ⟨h.refused_noMessage, fun active id q hlen ha hpr hq hno hid hids hqe => ?_⟩
  subst hid hqe
  exact call_queued (h.queues hlen rfl hq hno hids) ha hpr

end Sys2Proof.Machine
end

section
/-! SET CLOCK (R111). -/

namespace Sys2Proof.Machine

/-- The image of a SET CLOCK record (R125). -/
abbrev clockImage (head : OrderHead) (seconds : Word) : List Byte := orderImage head .setClock (wordBytes seconds)

/-- The Time Base once SET CLOCK has set it (R111). -/
def TimeBase.set (seconds : Word) (t : TimeBase) : TimeBase :=
  { t with clock := { seconds := seconds, centis := 0 }, restart := true }

section
variable {n : Lane} {link : Half} {st : Bool} {head : OrderHead} {seconds : Word} {p : Part}

theorem clockSeconds_clockImage : clockSeconds (clockImage head seconds) = seconds := by
  have hbyte : ∀ i, i < 4 → byteAt (wordBytes seconds) i = byteAt (clockImage head seconds) (12 + i) := fun i hi =>
    (byteAt_params head .setClock (by rw [wordBytes_length]; omega) (by rwa [wordBytes_length])).symm
  have hword : wordAt (wordBytes seconds) 0 = wordAt (clockImage head seconds) 12 := by
    simp only [wordAt, halfAt]
    rw [hbyte 0 (by omega), hbyte (0 + 1) (by omega), hbyte (0 + 2) (by omega), hbyte (0 + 2 + 1) (by omega)]
  rw [clockSeconds, ← hword]
  simpa using wordAt_wordBytes seconds []

theorem clockImage_paramChecks : ∀ c ∈ p.paramChecks (clockImage head seconds) .setClock, c.2 = true := by
  intro c hc
  have hrest : restZero (clockImage head seconds) 16 = (16, true) :=
    restZero_orderImage head .setClock (by rw [wordBytes_length]) (by omega)
  simp only [Part.paramChecks, List.mem_singleton] at hc
  rw [hc, hrest]

theorem clockImage_claimEntry : p.claimEntry (clockImage head seconds) = none := by
  unfold Part.claimEntry
  rw [imageKind_orderImage]

/-- The order at its block: the Time Base is set, and the order ends with the new and the old seconds. -/
theorem blockOrder_setClock (m : List Host.Cell) :
    blockOrder n m (takenPart n link st (clockImage head seconds) p) =
      Part.emit [.orderEnds n { Result.bare .done with first := some seconds, second := some p.time.clock.seconds }]
        { takenPart n link st (clockImage head seconds) p with time := p.time.set seconds } := by
  have hblock : blockOrder n m (takenPart n link st (clockImage head seconds) p) =
      orderSetClock n (takenPart n link st (clockImage head seconds) p) := by
    unfold blockOrder
    rw [takenPart_currentBytes, imageKind_orderImage]
  rw [hblock, orderSetClock]
  simp only [takenPart_currentBytes, clockSeconds_clockImage, takenPart_time]
  rfl

end

/-- Settles O38: SET CLOCK needs neither plan nor claim, and its block ends it at once. -/
theorem setClockSetsTime : Obligations.SetClockSetsTime := by
  intro s n link head seconds h hbridge
  have hlength : (wordBytes seconds).length ≤ 24 := by rw [wordBytes_length]; omega
  have hrefusal : (takenPart n link head.standing (clockImage head seconds) s.part).refusal n (clockImage head seconds) =
      none :=
    refusal_none hlength (headPasses_taken h.passes) clockImage_paramChecks (.inr rfl) (fun _ => by simpa using hbridge)
  refine ⟨_, exec_order h rfl, order_done_deck (p := { s.part with time := s.part.time.set seconds }) h.takes hlength
    hrefusal clockImage_claimEntry (fun m => ?_) (fun _ => rfl) h.takes.quiet.agenda rfl rfl
    (fun hf => absurd hf (show ¬ ResultCode.done.failure = true by decide))⟩
  rw [blockOrder_setClock, takenPart_of h.takes]
  rfl

end Sys2Proof.Machine
end

section
/-! The line generators: the highest demand, the restart of a line, its ticks and periods (R113 to R116). -/

namespace Sys2Proof.Machine

/-! ### The highest demand and the restart of a line (R113, R114) -/

section
variable {p : Part} {k : LineId} {g : Generator} {n : Nat}

/-- The highest demand present in `g` names pattern `n` for line `k` (R114). -/
def topDemand (p : Part) (k : LineId) (g : Generator) (n : Nat) : Prop :=
  (g.fire = true ∧ n = p.inForce.header.firePattern) ∨
    (g.fire = false ∧ g.warn = true ∧ ∃ z : ZoneId, z.val = k.val ∧ n = (p.planZone z).warnPattern) ∨
    (g.fire = false ∧ g.warn = false ∧ g.chime = some n)

theorem highestPattern_of_topDemand (h : topDemand p k g n) : p.highestPattern k g = some n := by
  unfold Part.highestPattern Generator.highest
  rcases h with ⟨hf, rfl⟩ | ⟨hf, hw, z, hz, rfl⟩ | ⟨hf, hw, hc⟩
  · simp [hf]
  · have hk : k.val < 12 := hz ▸ z.isLt
    obtain rfl : z = ⟨k.val, hk⟩ := Fin.ext hz
    simp [hf, hw, hk]
  · simp [hf, hw, hc]

theorem highestPattern_none (hf : g.fire = false) (hw : g.warn = false) (hc : g.chime = none) :
    p.highestPattern k g = none := by
  simp [Part.highestPattern, Generator.highest, hf, hw, hc]

theorem restartLine_runs (h : p.highestPattern k g = some n) : p.restartLine k g =
    { g with state := .running, counter := 0, shown := some (p.shownOf n), endDue := false } := by
  rw [Part.restartLine, h]

theorem restartLine_stops (h : p.highestPattern k g = none) : p.restartLine k g =
    { g with state := .stopped, counter := 0, shown := none, endDue := false } := by
  rw [Part.restartLine, h]

/-- A restart leaves the demands as they are and begins at counter 0 (R113). -/
theorem restartLine_keeps (p : Part) (k : LineId) (g : Generator) :
    (p.restartLine k g).fire = g.fire ∧ (p.restartLine k g).warn = g.warn ∧ (p.restartLine k g).chime = g.chime ∧
      (p.restartLine k g).endDue = false ∧ (p.restartLine k g).counter = 0 := by
  unfold Part.restartLine
  split <;> exact ⟨rfl, rfl, rfl, rfl, rfl⟩

end

/-- Settles O16: a period end restarts the line with its demands as they stand. -/
theorem periodEndTakesHighestDemand : Obligations.PeriodEndTakesHighestDemand := by
  intro s k h hend
  have hexec : exec (.periodEnd k) s = .next (runLocal (periodEnd k) s) := by
    show Host.Outcome.next (unlessReset (periodEvent k) s) = _
    rw [unlessReset_quiet h, periodEvent, runWhen_due hend]
  obtain ⟨hfire, hwarn, hchime, hdue, hcounter⟩ := restartLine_keeps s.part k (s.part.line k)
  refine ⟨_, s.part.restartLine k (s.part.line k), hexec, ran_of_deckChange h rfl ⟨rfl, rfl, rfl, rfl, rfl⟩,
    hfire, hwarn, hchime, hdue, hcounter, ?_⟩
  rw [hfire, hwarn, hchime]
  refine ⟨fun hf hw hc => ?_, fun n hn => ?_⟩
  · rw [restartLine_stops (highestPattern_none hf hw hc)]
    exact ⟨rfl, rfl⟩
  · rw [restartLine_runs (highestPattern_of_topDemand hn)]
    exact ⟨rfl, rfl⟩

/-! ### Ticks and periods of a running line (R113) -/

section
variable {p : Part} {k : LineId} {g : Generator} {n i : Nat} {sh : ShownPattern}

theorem tick_counts (hs : g.state = .running) (hsh : g.shown = some sh) (h : g.counter + 1 < sh.period) :
    g.tick = { g with counter := g.counter + 1 } := by
  simp [Generator.tick, hs, hsh, h]

theorem tick_ends (hs : g.state = .running) (hsh : g.shown = some sh) (h : sh.period ≤ g.counter + 1) :
    g.tick = { g with endDue := true } := by
  simp [Generator.tick, hs, hsh, Nat.not_lt.2 h]

theorem output_running (hs : g.state = .running) (hsh : g.shown = some sh) : g.output = decide (sh.lead ≤ g.counter) := by
  simp [Generator.output, hs, hsh]

/-- Line `k`'s generator `g` is at the beginning of a period with pattern `n`, the highest demand's (R113). -/
structure beginsPeriod (p : Part) (k : LineId) (n : Nat) (g : Generator) : Prop where
  demand  : p.highestPattern k g = some n
  state   : g.state = .running
  counter : g.counter = 0
  shown   : g.shown = some (p.shownOf n)
  endDue  : g.endDue = false

theorem restartLine_begins (h : p.highestPattern k g = some n) : beginsPeriod p k n (p.restartLine k g) := by
  rw [restartLine_runs h]
  exact ⟨h, rfl, rfl, rfl, rfl⟩

namespace beginsPeriod

variable (h : beginsPeriod p k n g)
include h

theorem at_zero : g = { g with counter := 0 } := by
  rw [← h.counter]

theorem counts (hi : i + 1 < (p.pattern n).period) :
    ({ g with counter := i } : Generator).tick = { g with counter := i + 1 } :=
  tick_counts h.state h.shown hi

theorem ends (hi : (p.pattern n).period ≤ i + 1) :
    ({ g with counter := i } : Generator).tick = { g with counter := i, endDue := true } :=
  tick_ends h.state h.shown hi

theorem output_at : ({ g with counter := i } : Generator).output = decide ((p.pattern n).lead ≤ i) :=
  output_running (g := { g with counter := i }) h.state h.shown

/-- The end of the period, taken with the demands standing, begins the next one alike. -/
theorem restarts : p.restartLine k { g with counter := i, endDue := true } = g := by
  have hdemand : p.highestPattern k { g with counter := i, endDue := true } = some n := h.demand
  rw [restartLine_runs hdemand, ← h.state, ← h.counter, ← h.shown, ← h.endDue]

/-- Within its first period a line counts the ticks. -/
theorem afterTicks_eq : ∀ i, i < (p.pattern n).period → afterTicks i g = { g with counter := i } := by
  intro i
  induction i with
  | zero => exact fun _ => h.at_zero
  | succ i ih =>
    intro hi
    rw [afterTicks, ih (by omega)]
    exact h.counts hi

/-- With the period ends taken and the demands standing, the counter is the number of ticks modulo the period. -/
theorem afterPeriods_eq (hP : 2 ≤ (p.pattern n).period) :
    ∀ i, afterPeriods p k i g = { g with counter := i % (p.pattern n).period } := by
  intro i
  induction i with
  | zero =>
    rw [Nat.zero_mod]
    exact h.at_zero
  | succ i ih =>
    have hlt : i % (p.pattern n).period < (p.pattern n).period := Nat.mod_lt _ (by omega)
    rw [afterPeriods, ih]
    by_cases hlast : i % (p.pattern n).period + 1 < (p.pattern n).period
    · have hmod : (i + 1) % (p.pattern n).period = i % (p.pattern n).period + 1 := by
        rw [Nat.add_mod, Nat.mod_eq_of_lt (show 1 < _ by omega), Nat.mod_eq_of_lt hlast]
      rw [h.counts hlast, hmod]
      exact if_neg (by simp [h.endDue])
    · have hmod : (i + 1) % (p.pattern n).period = 0 := by
        rw [Nat.add_mod, Nat.mod_eq_of_lt (show 1 < _ by omega),
          show i % (p.pattern n).period + 1 = (p.pattern n).period by omega, Nat.mod_self]
      rw [h.ends (by omega), hmod, ← h.at_zero]
      exact (if_pos rfl).trans h.restarts

/-- Every tick whose number is a multiple of the period ends one. -/
theorem ends_at_multiples (hP : 2 ≤ (p.pattern n).period) {c : Nat} (hc : 0 < c) :
    (afterPeriods p k (c * (p.pattern n).period - 1) g).tick.endDue = true := by
  have hmod : (c * (p.pattern n).period - 1) % (p.pattern n).period = (p.pattern n).period - 1 := by
    obtain ⟨b, rfl⟩ := Nat.exists_eq_add_of_le' hc
    rw [Nat.add_one_mul, Nat.add_sub_assoc (by omega), Nat.mul_comm, Nat.mul_add_mod, Nat.mod_eq_of_lt (by omega)]
  rw [h.afterPeriods_eq hP, hmod, h.ends (by omega)]

end beginsPeriod

end

/-! ### A demand posted on a STOPPED line (R115) -/

section
variable {p : Part} {k : LineId} {n : Nat} {post : Part → Part}

/-- The posting restarts the line with its demand, which is the highest one. -/
theorem post_restarts (hpost : postsPattern p k n post) (hs : (p.line k).state = .stopped)
    (hf : (p.line k).fire = false) (hw : (p.line k).warn = false) :
    ∃ g, post p = p.setLine k (p.restartLine k g) ∧ topDemand p k g n := by
  rcases hpost with ⟨rfl, rfl⟩ | ⟨rfl, z, hz, rfl⟩ | rfl
  · refine ⟨{ p.line k with fire := true }, ?_, .inl ⟨rfl, rfl⟩⟩
    simp [postFire, hf]
  · refine ⟨{ p.line k with warn := true }, ?_, .inr (.inl ⟨hf, rfl, z, hz, rfl⟩)⟩
    simp [postWarn, hf, hw, Part.afterDemand, hs, Generator.highest]
  · refine ⟨{ p.line k with chime := some n }, ?_, .inr (.inr ⟨hf, hw, rfl⟩)⟩
    simp [postChime, hf, hw, Part.afterDemand, hs, Generator.highest]

end

/-- Settles O17: the posting begins a period; the rest follows its counter. -/
theorem postStartsStoppedLine : Obligations.PostStartsStoppedLine := by
  intro p k n post hpost hs hf hw _ hP
  obtain ⟨g₀, hset, htop⟩ := post_restarts hpost hs hf hw
  have h := restartLine_begins (highestPattern_of_topDemand htop)
  refine ⟨p.restartLine k g₀, hset, h.state, h.counter, h.shown, ?_, fun i hi => ?_, ?_,
    fun c hc => h.ends_at_multiples hP hc, ?_⟩
  · rw [h.at_zero, h.output_at]
    exact decide_eq_decide.2 Nat.le_zero
  · rw [h.afterTicks_eq i hi]
    exact ⟨rfl, h.endDue, h.output_at⟩
  · obtain ⟨i, hi⟩ : ∃ i, (p.pattern n).period = i + 1 := ⟨(p.pattern n).period - 1, by omega⟩
    rw [hi, afterTicks, h.afterTicks_eq i (by omega), h.ends (by omega)]
  · rw [PlanPattern.chimeTicks, Nat.mul_comm]
    exact h.ends_at_multiples hP (by split <;> omega)

end Sys2Proof.Machine
end

section
/-! The deck tick and the centisecond mark (R107 to R111, R113, R144): with nothing left over, one change of the blocks. -/

namespace Sys2Proof.Machine

/-! ### The deck tick (R107, R108, R113) -/

section
variable {s : State}

/-- With nothing left over the tick's event takes the tick alone. -/
theorem tickEvent_eq (h : nothingLeftOver s.part) : tickEvent s = runLocal takeTick s := by
  obtain ⟨hcycle, hcheck, hmark, hends, hchime, honly⟩ := h
  rw [tickEvent, runAll_idle]
  intro f hf
  simp only [leftOver, List.mem_append, List.mem_cons, List.not_mem_nil, or_false, List.mem_map, List.mem_finRange,
    true_and] at hf
  rcases hf with ((rfl | rfl | rfl) | ⟨k, rfl⟩) | rfl | rfl
  · exact runWhen_idle hcycle
  · exact if_neg (by simp [hcheck])
  · exact if_neg (by simp [hmark])
  · exact runWhen_idle (hends k)
  · exact runWhen_idle hchime
  · exact runWhen_idle honly

theorem exec_deckTick (h : s.Quiet) (hl : nothingLeftOver s.part) : exec .deckTick s = .next (runLocal takeTick s) := by
  show Host.Outcome.next (unlessReset tickEvent s) = _
  rw [unlessReset_quiet h, tickEvent_eq hl]

end

section
variable (t : TimeBase)

@[simp] theorem TimeBase.tick_clock : t.tick.clock = t.clock := by
  unfold TimeBase.tick
  split <;> rfl

@[simp] theorem TimeBase.tick_restart : t.tick.restart = false := by
  cases h : t.restart <;> simp [TimeBase.tick, h]

@[simp] theorem TimeBase.tick_cycleCount : t.tick.cycleCount = (t.cycleCount + 1) % 64 := by
  unfold TimeBase.tick
  split <;> rfl

@[simp] theorem TimeBase.tick_interval : t.tick.interval = if t.restart then 0 else t.interval := by
  cases h : t.restart <;> simp [TimeBase.tick, h]

@[simp] theorem TimeBase.tick_tickCount : t.tick.tickCount = (if t.restart then 0 else t.tickCount) + 1 := by
  cases h : t.restart <;> simp [TimeBase.tick, h]

theorem TimeBase.tick_cycleDue : t.tick.cycleDue = true ↔ t.tick.cycleCount % 16 = 0 :=
  beq_iff_eq

theorem TimeBase.tick_checkDue : t.tick.checkDue = true ↔ t.tick.cycleCount = 0 :=
  beq_iff_eq

theorem TimeBase.tick_markDue : t.tick.markDue = true ↔ intervalLength t.tick.interval ≤ t.tick.tickCount :=
  decide_eq_true_iff

end

/-- Settles O12: the tick's event is one change of the blocks, the Time Base's part of it by its fields. -/
theorem deckTickAdvancesDivider : Obligations.DeckTickAdvancesDivider := by
  intro s h hl
  have hran : s.Ran (runLocal takeTick s) (takeTick s.part) := ran_of_deckChange h rfl ⟨rfl, rfl, rfl, rfl, rfl⟩
  have htime : (runLocal takeTick s).part.time = s.part.time.tick := hran.follows.time
  refine ⟨_, exec_deckTick h hl, ?_, ?_⟩
  · rw [htime]
    exact hran
  · rw [htime]
    exact ⟨s.part.time.tick_clock, s.part.time.tick_restart, s.part.time.tick_cycleCount, s.part.time.tick_interval,
      s.part.time.tick_tickCount, s.part.time.tick_cycleDue, s.part.time.tick_checkDue, s.part.time.tick_markDue⟩

/-! ### The centisecond mark (R108 to R110, R144) -/

section
variable {s : State}

/-- Where no duration has counted its last mark, no expiry comes before the mark. -/
theorem allExpiries_idle (h : nothingExpired s.part) : runAll allExpiries s = s := by
  obtain ⟨hconfirm, hmover, hdoor, hreply, hprobe, hlane⟩ := h
  refine runAll_idle _ fun f hf => ?_
  simp only [allExpiries, List.mem_append, List.mem_cons, List.not_mem_nil, or_false, List.mem_map, List.mem_finRange,
    true_and] at hf
  rcases hf with (((((((⟨k, rfl⟩ | ⟨m, rfl⟩) | ⟨m, rfl⟩) | ⟨d, rfl⟩) | ⟨d, rfl⟩) | ⟨d, rfl⟩) | rfl | rfl) | ⟨n, rfl⟩) |
    ⟨n, rfl⟩
  · exact runWhen_idle (hconfirm k)
  · exact runWhen_idle (hmover m).1
  · exact runWhen_idle (hmover m).2
  · exact runWhen_idle (hdoor d).1
  · exact runWhen_idle (hdoor d).2.1
  · exact runWhen_idle (hdoor d).2.2
  · exact runWhen_idle hreply
  · exact runWhen_idle hprobe
  · exact runWhen_idle (hlane n).1
  · exact runWhen_idle (hlane n).2

theorem markEvent_eq (hdue : s.part.time.markDue = true) (h : nothingExpired s.part) :
    markEvent s = runLocal takeMark s := by
  rw [markEvent, if_pos hdue, allExpiries_idle h]

/-- The mark that ends interval 99 is that second's end. -/
theorem exec_mark {c : Instr} (h : s.Quiet) (hdue : s.part.time.markDue = true) (hr : s.part.time.restart = false)
    (hx : nothingExpired s.part) (hc : c = .centisecondMark ∨ (c = .secondEnd ∧ s.part.time.interval = 99)) :
    exec c s = .next (runLocal takeMark s) := by
  rw [← markEvent_eq hdue hx]
  rcases hc with rfl | ⟨rfl, hi⟩
  · show Host.Outcome.next (unlessReset markEvent s) = _
    rw [unlessReset_quiet h]
  · show Host.Outcome.next (unlessReset secondEvent s) = _
    rw [unlessReset_quiet h, secondEvent, if_pos ⟨hi, hr⟩]

end

/-- The mark at the Time Base, outside a restart of the divider. -/
theorem TimeBase.mark_eq {t : TimeBase} (h : t.restart = false) : t.mark =
    { t with
      markDue := false, tickCount := 0, interval := if t.interval = 99 then 0 else t.interval + 1,
      clock := if t.interval = 99 then { seconds := t.clock.seconds + 1, centis := 0 }
               else { t.clock with centis := t.clock.centis + 1 } } := by
  unfold TimeBase.mark
  rw [if_neg (by simp [h])]
  split <;> rfl

theorem takeMark_lane (p : Part) (n : Lane) : (takeMark p).lane n = (p.lane n).mark :=
  getAt_mapAll LaneContext.mark p.lanes n

/-- Settles O15: the mark's event is one change of the blocks, which leaves each lane's state and wait as they are. -/
theorem markAdvancesClock : Obligations.MarkAdvancesClock := by
  intro s c h hdue hr hx hc
  refine ⟨_, exec_mark h hdue hr hx hc, ?_⟩
  have hran : s.Ran (runLocal takeMark s) (takeMark s.part) :=
    ran_of_drain h (drain_done h.agenda) h.agenda h.settled.1
      (fun n => by rw [takeMark_lane]; exact ⟨rfl, rfl, rfl⟩) rfl rfl
  rw [← TimeBase.mark_eq hr]
  exact hran

end Sys2Proof.Machine
end

section
/-! The check mark (R107, R131, R142, R26): the seen-count read, the RESTING lanes' anchors, the moving movers' slots. -/

namespace Sys2Proof.Machine

/-! ### The parts of the check mark -/

section
variable {p : Part}

theorem startRead_equalised (h : p.equalised = true) : startRead p =
    { p with board := { p.board with read := if p.board.read = .idle then .underWay else .further } } := by
  unfold startRead
  rw [if_pos h]
  cases p.board.read <;> rfl

theorem reread_eq (n : Lane) (m : List Host.Cell) (p : Part) : reread n m p = p.setLane n ((p.lane n).rereads n m) := by
  by_cases h : (p.lane n).state = .resting
  · rw [LaneContext.rereads, if_pos h]
    exact (if_pos h).trans (followLink_eq ..)
  · rw [LaneContext.rereads, if_neg h, Part.setLane_self]
    exact if_neg h

/-- Lanes that are each set from their own context, one after the other. -/
theorem forEach_setLane (F : Lane → LaneContext → LaneContext) : ∀ (l : List Lane) (p : Part), l.Nodup →
    forEach l (fun n q => q.setLane n (F n (q.lane n))) p =
      { p with lanes := tableOf 4 (fun n => if n ∈ l then F n (p.lane n) else p.lane n) } := by
  intro l
  induction l with
  | nil =>
    intro p _
    have hlanes : tableOf 4 p.lane = p.lanes := table_ext fun n => getAt_tableOf 4 p.lane n
    simp [hlanes]
  | cons x rest ih =>
    intro p hnodup
    obtain ⟨hx, hrest⟩ := List.nodup_cons.1 hnodup
    rw [forEach_cons, ih _ hrest]
    refine congrArg (fun lanes => ({ p with lanes := lanes } : Part)) (table_ext fun n => ?_)
    rw [getAt_tableOf, getAt_tableOf, Part.setLane_get]
    by_cases hn : x = n
    · subst hn
      simp [hx]
    · simp [hn, Ne.symm hn]

theorem reread_all (m : List Host.Cell) (p : Part) : forEach (List.finRange 4) (fun n => reread n m) p =
    { p with lanes := tableOf 4 (fun n => (p.lane n).rereads n m) } := by
  have hset : (fun n => reread n m) = fun n q => q.setLane n ((q.lane n).rereads n m) :=
    funext fun n => funext fun q => reread_eq n m q
  rw [hset, forEach_setLane (fun n c => c.rereads n m) _ p (List.nodup_finRange 4)]
  simp

/-- Forcing the slots of the movers that are in motion forces no other field, and each of those slots. -/
theorem forceMoving_eq : ∀ (l : List MoverId) (p : Part), ∃ slots,
    forEach l (fun v q => whenTrue (q.mover v).motion.state.rewritten (fun r => r.forceSlot (moverSlot v)) q) p =
      { p with forced := slots } ∧ (∀ j ∈ p.forced, j ∈ slots) ∧
    ∀ v ∈ l, (p.mover v).motion.state.rewritten = true → moverSlot v ∈ slots := by
  intro l
  induction l with
  | nil => exact fun p => ⟨p.forced, rfl, fun _ hj => hj, by simp⟩
  | cons x rest ih =>
    intro p
    rw [forEach_cons]
    cases hx : (p.mover x).motion.state.rewritten
    · obtain ⟨slots, he, hkept, hmoving⟩ := ih p
      refine ⟨slots, he, hkept, fun v hv hr => ?_⟩
      rcases List.mem_cons.1 hv with rfl | hv
      · exact absurd hr (by simp [hx])
      · exact hmoving v hv hr
    · obtain ⟨slots, he, hkept, hmoving⟩ := ih (p.forceSlot (moverSlot x))
      refine ⟨slots, he, fun j hj => hkept j (List.mem_cons_of_mem _ hj), fun v hv hr => ?_⟩
      rcases List.mem_cons.1 hv with rfl | hv
      · exact hkept _ (List.mem_cons_self ..)
      · exact hmoving v hv hr

/-- The part once the check mark has been taken, with the slots `slots` to rewrite. -/
def checkTaken (m : List Host.Cell) (slots : List SlotId) (p : Part) : Part :=
  { p with
    time := { p.time with checkDue := false }, lanes := tableOf 4 (fun n => (p.lane n).rereads n m), forced := slots,
    board := { p.board with read := if p.board.read = .idle then .underWay else .further } }

theorem takeCheck_eq (m : List Host.Cell) (h : p.equalised = true) : ∃ slots, takeCheck m p = checkTaken m slots p ∧
    ∀ v, (p.mover v).motion.state.rewritten = true → moverSlot v ∈ slots := by
  obtain ⟨slots, he, -, hmoving⟩ := forceMoving_eq (List.finRange 8)
    (forEach (List.finRange 4) (fun n => reread n m) (startRead { p with time := { p.time with checkDue := false } }))
  rw [reread_all, startRead_equalised (by exact h)] at he hmoving
  refine ⟨slots, ?_, fun v hr => hmoving v (List.mem_finRange v) hr⟩
  unfold takeCheck
  simp only
  rw [reread_all, startRead_equalised (by exact h)]
  exact he

theorem checkTaken_lane (m : List Host.Cell) (slots : List SlotId) (p : Part) (n : Lane) :
    (checkTaken m slots p).lane n = (p.lane n).rereads n m :=
  getAt_tableOf 4 (fun n => (p.lane n).rereads n m) n

theorem rereads_waitKind (n : Lane) (m : List Host.Cell) (c : LaneContext) : (c.rereads n m).waitKind = c.waitKind := by
  unfold LaneContext.rereads
  split <;> rfl

theorem rereads_other {n : Lane} {m : List Host.Cell} {c : LaneContext} (h : c.state ≠ .resting) : c.rereads n m = c :=
  if_neg h

/-- What mover `v`'s slot shows reads none of the fields that a check mark changes. -/
theorem checkTaken_slotContent (m : List Host.Cell) (slots : List SlotId) (p : Part) (v : MoverId) :
    (checkTaken m slots p).slotContent (moverSlot v) = p.moverContent v := by
  have hsource : sourceOf (moverSlot v) = .mover v := by
    revert v
    decide
  unfold Part.slotContent
  rw [hsource]
  rfl

end

/-! ### An event that changes lanes -/

/-- An event that comes to rest at `q`, which leaves what each lane waits for, the generation and the part state. -/
theorem ranLanes_of_drain {f : List Host.Cell → Part → Part} {s : State} (h : s.Quiet) {q : Part}
    (hd : drain s.mem Config.agendaBound (f s.mem s.part) = q) (ha : q.agenda = []) (hw : q.writes = [])
    (hl : ∀ n, (q.lane n).waitKind = (s.part.lane n).waitKind) (hg : q.generation = s.part.generation)
    (hp : q.port.partState = s.part.port.partState) : s.RanLanes (runEvent f s) q := by
  have hhold : ∀ n, (q.lane n).waitKind ≠ some .hold := fun n => by rw [hl]; exact h.noHold n (by simp)
  obtain ⟨hfollows, hdone, hqueue⟩ := runEvent_follows hd ha (metHolds_none hhold)
  obtain ⟨cells, hmem, hcells⟩ :=
    runEvent_mem hd ha (metHolds_none hhold) (fun e => by rw [Part.equalised, ← hp]; exact e)
  refine ⟨hfollows, fun a houtside => ?_, hqueue, hdone⟩
  rw [hmem, hw, List.nil_append]
  refine readByte_writeCells_other h.mem fun c hc => ?_
  rcases hcells c hc with ⟨n, hlow, hhigh, -⟩ | ⟨-, -, hne⟩
  · have := houtside n
    unfold outsideLane at this
    omega
  · exact absurd hg.symm hne

section
variable {s t : State} {p q : Part}

theorem State.Ran.of_follows (h : s.Ran t q) (hp : p.Follows q) : s.Ran t p :=
  ⟨hp.trans h.follows, h.mem, h.queue, h.done⟩

theorem State.RanLanes.of_follows (h : s.RanLanes t q) (hp : p.Follows q) : s.RanLanes t p :=
  ⟨hp.trans h.follows, h.keeps, h.queue, h.done⟩

end

/-- Settles O14: the check mark's event comes to rest at once, and hands the moving movers' slots over. -/
theorem checkMarkStartsRead : Obligations.CheckMarkStartsRead := by
  intro s h hdue heq
  obtain ⟨slots, htake, hmoving⟩ := takeCheck_eq s.mem heq
  have hexec : exec .checkMark s = .next (runEvent takeCheck s) := by
    show Host.Outcome.next (unlessReset checkEvent s) = _
    rw [unlessReset_quiet h, checkEvent, if_pos hdue]
  have hdrain : drain s.mem Config.agendaBound (takeCheck s.mem s.part) = checkTaken s.mem slots s.part := by
    rw [htake]
    exact drain_done h.agenda
  have hwait : ∀ n, ((checkTaken s.mem slots s.part).lane n).waitKind = (s.part.lane n).waitKind := fun n => by
    rw [checkTaken_lane, rereads_waitKind]
  have hmet : (checkTaken s.mem slots s.part).metHolds = [] :=
    metHolds_none fun n => by rw [hwait]; exact h.noHold n (by simp)
  have hran := ranLanes_of_drain h hdrain h.agenda h.settled.1 hwait rfl rfl
  have hfollows : Part.Follows
      { s.part with
        time := { s.part.time with checkDue := false }, lanes := tableOf 4 (fun n => (s.part.lane n).rereads n s.mem) }
      (checkTaken s.mem slots s.part) :=
    ⟨rfl, rfl, rfl, rfl, rfl, rfl, rfl, rfl, rfl, rfl, rfl, rfl, rfl, rfl, rfl⟩
  refine ⟨_, hexec, hran.of_follows hfollows, fun hrest => ?_, ?_, fun v hv => ?_⟩
  · have hlane : ∀ n, (checkTaken s.mem slots s.part).lane n = s.part.lane n := fun n => by
      rw [checkTaken_lane, rereads_other (hrest n)]
    have hlanes : (checkTaken s.mem slots s.part).lanes = s.part.lanes := table_ext hlane
    have hquiet := ran_of_drain h hdrain h.agenda h.settled.1 (fun n => by rw [hlane]; exact ⟨rfl, rfl, rfl⟩) rfl rfl
    exact hquiet.of_follows ⟨rfl, rfl, rfl, rfl, rfl, rfl, rfl, hlanes, rfl, rfl, rfl, rfl, rfl, rfl, rfl⟩
  · exact (runEvent_samePending hdrain h.agenda hmet (fun _ => heq)).1.read
  · rw [runEvent_slot hdrain h.agenda hmet heq heq, if_pos (by simp [checkTaken, hmoving v hv])]
    exact ⟨rfl, checkTaken_slotContent ..⟩

end Sys2Proof.Machine
end

section
/-! The invariant of the machine (R121, R130, R132): the reset state has it and every step keeps it. -/

namespace Sys2Proof.Machine

/-- A reset leaves the invariant, whatever has been written to exchange memory before it. -/
theorem inv_of_reset {s : State} (h : s.Inv) (cells : List Host.Cell) (seconds : Word) (b : Bool) (ov : List Word)
    (oc : Nat) : State.Inv { s with mem := writeCells s.mem cells, part := Part.reset seconds b ov oc } :=
  ⟨writeCells_wf h.1, ⟨rfl, rfl⟩, reset_intHolds seconds b ov oc⟩

theorem placeOrder_part (n : Lane) (image : List Byte) (s : State) : (placeOrder n image s).part = s.part := by
  unfold placeOrder
  split
  · split <;> rfl
  · rfl

theorem placeOrder_wf (n : Lane) (image : List Byte) {s : State} (h : Memory.wf s.mem = true) :
    Memory.wf (placeOrder n image s).mem = true := by
  unfold placeOrder
  split
  · split
    · exact writeCells_wf h
    · exact h
  · exact h

theorem inv_placeOrder {s : State} (n : Lane) (image : List Byte) (h : s.Inv) : (placeOrder n image s).Inv := by
  obtain ⟨hmem, hrest⟩ := h
  refine ⟨placeOrder_wf n image hmem, ?_⟩
  rw [placeOrder_part]
  exact hrest

/-- Every command completes and keeps the invariant. -/
theorem exec_inv (c : Instr) {s : State} (h : s.Inv) : ∃ t, exec c s = .next t ∧ t.Inv :=
  exec_keeps (P := State.Inv) (fun f _ hs => runEvent_inv f hs.1)
    (fun _ cells seconds b ov oc hs => inv_of_reset hs cells seconds b ov oc)
    (fun _ n image hs => inv_placeOrder n image hs) c s h

/-- Settles O3: a step is idle or the front command, which keeps the invariant. -/
theorem stepKeepsInvariant : Obligations.StepKeepsInvariant := by
  intro s t hs hstep
  unfold step at hstep
  split at hstep
  · cases hstep
    exact hs
  · next c rest _ =>
    have hpopped : State.Inv { s with pending := rest } := hs
    obtain ⟨u, hexec, hu⟩ := exec_inv c hpopped
    rw [hexec] at hstep
    cases hstep
    exact hu

/-- Settles O4: every field that the invariant reads stands at its reset value. -/
theorem resetHoldsInvariant : Obligations.ResetHoldsInvariant :=
  ⟨reset_mem_wf, ⟨rfl, rfl⟩, reset_intHolds 0 false [] 0⟩

end Sys2Proof.Machine
end

section
/-! The host's access to exchange memory (R121, R122). -/

namespace Sys2Proof.Machine

/-- A half word written to exchange memory reads back. -/
theorem readHalf_writeCells_halfBytes {m : List Host.Cell} {a : Nat} {v : Half} (h : Memory.wf m = true)
    (ha : a + 2 ≤ Config.memoryBytes) : readHalf (writeCells m (cellsFrom a (halfBytes v))) a = v :=
  readHalf_at (readBytes_writeCells_inside h ha)

/-- Settles O33: the two cells of the word are written, or the access faults. -/
theorem hostWriteReadsBack : Obligations.HostWriteReadsBack := by
  intro s a v hm
  constructor
  · intro heven hlt
    have hword : a % 2 = 0 ∧ a + 1 < Config.memoryBytes := ⟨heven, by simp only [Config.memoryBytes]; omega⟩
    refine ⟨_, if_pos hword, readHalf_writeCells_halfBytes hm (by omega), rfl, rfl, writeCells_wf hm, ?_⟩
    intro b hb hb'
    exact readByte_writeCells_cellsFrom_outside hm (by rw [halfBytes_length]; omega)
  · intro hpast
    exact if_neg fun hword => by simp only [Config.memoryBytes] at hword; omega

end Sys2Proof.Machine
end

section
/-! The completion of a seen-count read (R131, R132). -/

namespace Sys2Proof.Machine

/-- Slots that are each set from their own record, one after the other. -/
theorem forEach_setSlot (F : SlotId → BoardSlot → BoardSlot) : ∀ (l : List SlotId) (p : Part), l.Nodup →
    forEach l (fun j q => q.setSlot j (F j (q.slot j))) p =
      { p with board := { p.board with
          slots := tableOf 52 (fun j => if j ∈ l then F j (p.slot j) else p.slot j) } } := by
  intro l
  induction l with
  | nil =>
    intro p _
    have hslots : tableOf 52 p.slot = p.board.slots := table_ext fun j => getAt_tableOf 52 p.slot j
    simp [hslots]
  | cons x rest ih =>
    intro p hnodup
    obtain ⟨hx, hrest⟩ := List.nodup_cons.1 hnodup
    rw [forEach_cons, ih _ hrest]
    refine congrArg (fun slots => ({ p with board := { p.board with slots := slots } } : Part)) (table_ext fun j => ?_)
    rw [getAt_tableOf, getAt_tableOf, Part.setSlot_get]
    by_cases hj : x = j
    · subst hj
      simp [hx]
    · simp [hj, Ne.symm hj]

/-- The slot after a seen-count read: the host's fields as exchange memory holds them. -/
def BoardSlot.readFrom (m : List Host.Cell) (j : SlotId) (b : BoardSlot) : BoardSlot :=
  { b with seen := readSeen m j, notify := readNotify m j }

theorem seenCountRead_eq (m : List Host.Cell) (p : Part) : seenCountRead m p =
    { p with board := { p.board with
        slots := tableOf 52 (fun j => (p.slot j).readFrom m j),
        read := if p.board.read = .further then .underWay else .idle } } := by
  have hslots : forEach (List.finRange 52)
      (fun j q => q.setSlot j { q.slot j with seen := readSeen m j, notify := readNotify m j }) p =
        { p with board := { p.board with slots := tableOf 52 (fun j => (p.slot j).readFrom m j) } } :=
    (forEach_setSlot (fun j b => b.readFrom m j) _ p (List.nodup_finRange 52)).trans (by simp)
  unfold seenCountRead
  rw [hslots]
  cases p.board.read <;> rfl

theorem seenCountRead_slot (m : List Host.Cell) (p : Part) (j : SlotId) :
    (seenCountRead m p).slot j = (p.slot j).readFrom m j := by
  rw [seenCountRead_eq]
  exact getAt_tableOf 52 (fun j => (p.slot j).readFrom m j) j

theorem seenCountRead_follows (m : List Host.Cell) (p : Part) : p.Follows (seenCountRead m p) := by
  rw [seenCountRead_eq]
  exact ⟨rfl, rfl, rfl, rfl, rfl, rfl, rfl, rfl, rfl, rfl, rfl, rfl, rfl, rfl, rfl⟩

theorem exec_seenCountRead {s : State} (h : s.Quiet) (hread : s.part.board.read ≠ .idle) :
    exec .seenCountRead s = .next (runEvent seenCountRead s) := by
  have hdue : readDue s.part = true := bne_iff_ne.2 hread
  show Host.Outcome.next (unlessReset _ s) = _
  rw [unlessReset_quiet h, if_pos hdue]

/-- Settles O31: the event is the read alone, and the pending slots and nINT follow at its end. -/
theorem seenReadUpdatesPending : Obligations.SeenReadUpdatesPending := by
  intro s h hread
  have hfollows := seenCountRead_follows s.mem s.part
  have hagenda : (seenCountRead s.mem s.part).agenda = [] := by
    rw [seenCountRead_eq]
    exact h.agenda
  have hwrites : (seenCountRead s.mem s.part).writes = [] := by
    rw [seenCountRead_eq]
    exact h.settled.1
  have hran : s.Ran (runEvent seenCountRead s) (seenCountRead s.mem s.part) :=
    ran_of_runEvent h rfl hagenda hwrites hfollows.lanes hfollows.generation (by rw [hfollows.port])
  have hport : (runEvent seenCountRead s).part.port = s.part.port := hran.follows.port.trans hfollows.port
  obtain ⟨hsame, -⟩ := runEvent_samePending (f := seenCountRead) (drain_done hagenda) hagenda
    (metHolds_none fun n => by rw [hfollows.lane]; exact h.noHold n (by simp))
    (fun e => by rw [Part.equalised, ← hfollows.port]; exact e)
  obtain ⟨-, -, hcount, hlowest, hnInt⟩ := runEvent_inv seenCountRead h.mem
  refine ⟨_, exec_seenCountRead h hread, hran.of_follows hfollows, ?_, fun j => ?_, hcount, ?_, ?_⟩
  · rw [hsame.read, seenCountRead_eq]
  · obtain ⟨hshadow, hseen, hnotify⟩ := hsame.slot j
    rw [hshadow, hseen, hnotify, seenCountRead_slot]
    exact ⟨rfl, rfl, rfl⟩
  · exact hlowest.trans List.head?_filter
  · rw [hnInt, hport]

end Sys2Proof.Machine
end

section
/-! The bytes of a board slot in exchange memory (R128, R130, Table 6-6) and BOARD_WRITE. -/

namespace Sys2Proof.Machine

/-! ### One burst -/

section
variable {m : List Host.Cell} {j : SlotId} {c : SlotContent} {count : Half}

theorem boardBase_bound (j : SlotId) : 512 ≤ boardBase j ∧ boardBase j + 32 ≤ 2176 := by
  have := j.isLt
  unfold boardBase
  omega

theorem boardBase_apart {i j : SlotId} (h : i ≠ j) :
    boardBase i + 32 ≤ boardBase j ∨ boardBase j + 32 ≤ boardBase i := by
  have : i.val ≠ j.val := fun e => h (Fin.ext e)
  unfold boardBase
  omega

theorem SlotContent.bytes_length (c : SlotContent) : c.bytes.length = 27 := rfl

/-- The cells of one burst (R130): the content, then the change count. -/
def slotCells (j : SlotId) (c : SlotContent) (count : Half) : List Host.Cell :=
  cellsFrom (boardBase j + 5) c.bytes ++ cellsFrom (boardBase j) (halfBytes count)

theorem writeSlot_writes (j : SlotId) (c : SlotContent) (count : Half) (p : Part) :
    writeSlot j c count p = { p with writes := p.writes ++ slotCells j c count } := by
  simp [writeSlot, Part.write, slotCells]

/-- A burst names the slot's bytes alone, and none of the host's bytes 2 to 4. -/
theorem slotCells_address {x : Host.Cell} (h : x ∈ slotCells j c count) :
    (boardBase j ≤ x.1 ∧ x.1 < boardBase j + 2) ∨ (boardBase j + 5 ≤ x.1 ∧ x.1 < boardBase j + 32) := by
  rcases List.mem_append.1 h with h | h
  · have := mem_cellsFrom h
    rw [SlotContent.bytes_length] at this
    omega
  · have := mem_cellsFrom h
    rw [halfBytes_length] at this
    omega

theorem slotCells_count (h : Memory.wf m = true) :
    readHalf (writeCells m (slotCells j c count)) (boardBase j) = count := by
  have := boardBase_bound j
  rw [slotCells, writeCells_append]
  exact readHalf_writeCells_halfBytes (writeCells_wf h) (by simp only [Config.memoryBytes]; omega)

theorem slotCells_byte (h : Memory.wf m = true) {i : Nat} (hi : i < 27) :
    readByte (writeCells m (slotCells j c count)) (boardBase j + 5 + i) = byteAt c.bytes i := by
  have := boardBase_bound j
  rw [slotCells, writeCells_append,
    readByte_writeCells_cellsFrom_outside (writeCells_wf h) (by rw [halfBytes_length]; omega)]
  exact readByte_writeCells_cellsFrom_inside h (by rw [SlotContent.bytes_length]; exact hi)
    (by simp only [Config.memoryBytes]; omega)

/-- A run of the slot's content bytes. -/
theorem slotCells_run (h : Memory.wf m = true) {i k : Nat} {l : List Byte} (hik : i + k ≤ 27)
    (hl : (c.bytes.drop i).take k = l) :
    readBytes (writeCells m (slotCells j c count)) (boardBase j + 5 + i) k = l := by
  subst hl
  have hlength : ((c.bytes.drop i).take k).length = k := by
    rw [List.length_take, List.length_drop, SlotContent.bytes_length]
    omega
  refine bytes_ext (by rw [readBytes_length, hlength]) fun x hx => ?_
  rw [readBytes_length] at hx
  rw [byteAt_readBytes hx, Nat.add_assoc, slotCells_byte h (by omega)]
  simp [byteAt, List.getD, hx]

theorem slotCells_half (h : Memory.wf m = true) {i : Nat} {v : Half} (hi : i + 2 ≤ 27)
    (hl : (c.bytes.drop i).take 2 = halfBytes v) :
    readHalf (writeCells m (slotCells j c count)) (boardBase j + 5 + i) = v :=
  readHalf_at (slotCells_run h hi hl)

theorem slotCells_word (h : Memory.wf m = true) {i : Nat} {v : Word} (hi : i + 4 ≤ 27)
    (hl : (c.bytes.drop i).take 4 = wordBytes v) :
    readWord (writeCells m (slotCells j c count)) (boardBase j + 5 + i) = v :=
  readWord_at (slotCells_run h hi hl)

end

/-! ### What an event that changes the Exchange Port alone hands over -/

theorem Part.Follows.slotKey {p q : Part} (h : p.Follows q) (j : SlotId) : q.slotKey j = p.slotKey j := by
  obtain ⟨⟩ := p
  obtain ⟨⟩ := q
  obtain ⟨rfl, rfl, rfl, rfl, rfl, rfl, rfl, rfl, rfl, rfl, rfl, rfl, rfl, rfl, rfl⟩ := h
  unfold Part.slotKey
  cases sourceOf j <;> rfl

/-- Where every block but the Exchange Port is as before the event and nothing is forced, no slot is handed over. -/
theorem handOverAll_slot_same {pre p : Part} (h : pre.Follows p) (hforced : p.forced = []) (j : SlotId) :
    (handOverAll pre p).slot j = p.slot j := by
  rw [handOverAll_slot, if_neg]
  simp [hforced, h.slotKey]

theorem closeEvent_slot_same (m : List Host.Cell) {pre p : Part} (h : pre.Follows p) (hforced : p.forced = [])
    (j : SlotId) : (closeEvent m pre p).slot j = p.slot j := by
  have hequalised : p.equalised = pre.equalised := by rw [Part.equalised, h.port]; rfl
  rw [← handOverAll_slot_same h hforced j]
  cases he : p.equalised
  · unfold closeEvent
    simp only [he]
    rfl
  · exact closeEvent_slot p m he (hequalised.symm.trans he) j

/-- Such an event writes what it has asked for alone. -/
theorem closeEvent_writes_same (m : List Host.Cell) {pre p : Part} (h : pre.Follows p) :
    (closeEvent m pre p).writes = p.writes := by
  obtain ⟨cells, hwrites, hheader⟩ := closeEvent_writes (m := m) (pre := pre) (p := p)
    (fun e => by rw [Part.equalised, ← h.port]; exact e)
  cases cells with
  | nil => rw [hwrites, List.append_nil]
  | cons c rest =>
    rcases hheader c (by simp) with ⟨n, -, -, hne⟩ | ⟨-, -, hne⟩
    · simp [h.lane] at hne
    · exact absurd h.generation.symm hne

/-! ### BOARD_WRITE -/

/-- The slot after its burst. -/
def BoardSlot.written (b : BoardSlot) : BoardSlot := { b with shadow := b.shadow + 1, waiting := false }

theorem boardWrite_eq (j : SlotId) (p : Part) : boardWrite j p =
    { p.setSlot j (p.slot j).written with
      writes := p.writes ++ slotCells j (p.slot j).content ((p.slot j).shadow + 1) } := by
  unfold boardWrite
  simp only
  rw [writeSlot_writes]
  rfl

theorem boardWrite_follows (j : SlotId) (p : Part) : p.Follows (boardWrite j p) := by
  rw [boardWrite_eq]
  exact ⟨rfl, rfl, rfl, rfl, rfl, rfl, rfl, rfl, rfl, rfl, rfl, rfl, rfl, rfl, rfl⟩

theorem exec_boardWrite {s : State} {j : SlotId} (h : s.Quiet) (hwaiting : (s.part.slot j).waiting = true) :
    exec (.boardWrite j) s = .next (runLocal (boardWrite j) s) := by
  show Host.Outcome.next (unlessReset _ s) = _
  rw [unlessReset_quiet h, runWhen_due hwaiting]

/-- The event is the burst alone: what it writes, and what becomes of the slots. -/
theorem boardWrite_event {s : State} (h : s.Quiet) (j : SlotId) :
    s.part.Follows (runLocal (boardWrite j) s).part ∧
      (runLocal (boardWrite j) s).mem =
        writeCells s.mem (slotCells j (s.part.slot j).content ((s.part.slot j).shadow + 1)) ∧
      ∀ i, (runLocal (boardWrite j) s).part.slot i = if j = i then (s.part.slot j).written else s.part.slot i := by
  have hfollows := boardWrite_follows j s.part
  have hagenda : (boardWrite j s.part).agenda = [] := by
    rw [boardWrite_eq]
    exact h.agenda
  have hforced : (boardWrite j s.part).forced = [] := by
    rw [boardWrite_eq]
    exact h.settled.2
  have hwrites : (boardWrite j s.part).writes = slotCells j (s.part.slot j).content ((s.part.slot j).shadow + 1) := by
    rw [boardWrite_eq, h.settled.1]
    rfl
  have hhold : (boardWrite j s.part).metHolds = [] :=
    metHolds_none fun n => by rw [hfollows.lane]; exact h.noHold n (by simp)
  have hpart : eventPart (fun _ => boardWrite j) s.mem s.part = closeEvent s.mem s.part (boardWrite j s.part) :=
    eventPart_of_drain (drain_done hagenda) hagenda hhold
  refine ⟨hfollows.trans (runEvent_follows (f := fun _ => boardWrite j) (drain_done hagenda) hagenda hhold).1, ?_,
    fun i => ?_⟩
  · show writeCells s.mem (eventPart (fun _ => boardWrite j) s.mem s.part).writes = _
    rw [hpart, closeEvent_writes_same s.mem hfollows, hwrites]
  · show (eventPart (fun _ => boardWrite j) s.mem s.part).slot i = _
    rw [hpart, closeEvent_slot_same s.mem hfollows hforced, boardWrite_eq]
    exact Part.setSlot_get ..

/-- Settles O30: each field is its run of the bytes that the burst writes. -/
theorem boardWriteLayout : Obligations.BoardWriteLayout := by
  rintro s j c h hwaiting rfl
  obtain ⟨hfollows, hmem, hslot⟩ := boardWrite_event h j
  refine ⟨_, exec_boardWrite h hwaiting, hfollows, rfl, ?_⟩
  rw [hmem]
  refine ⟨slotCells_count h.mem, slotCells_byte (i := 0) h.mem (by omega), slotCells_half (i := 1) h.mem (by omega) rfl,
    slotCells_half (i := 3) h.mem (by omega) rfl, slotCells_word (i := 7) h.mem (by omega) rfl,
    slotCells_word (i := 11) h.mem (by omega) rfl, slotCells_word (i := 15) h.mem (by omega) rfl,
    slotCells_byte (i := 19) h.mem (by omega), slotCells_half (i := 5) h.mem (by omega) rfl, ?_, ?_, ?_, ?_, ?_⟩
  · intro i hlow hhigh
    have hbyte := slotCells_byte (j := j) (c := (s.part.slot j).content) (count := (s.part.slot j).shadow + 1)
      (i := i - 5) h.mem (by omega)
    rw [Nat.add_assoc, Nat.add_sub_of_le (by omega)] at hbyte
    rw [hbyte]
    interval_cases i <;> rfl
  · intro a ha
    refine readByte_writeCells_other h.mem fun x hx => ?_
    have := slotCells_address hx
    omega
  · rw [hslot, if_pos rfl]
    rfl
  · rw [hslot, if_pos rfl]
    rfl
  · intro i hi
    rw [hslot, if_neg (Ne.symm hi)]

end Sys2Proof.Machine
end

section
/-! The equalisation of the board (R133). -/

namespace Sys2Proof.Machine

/-! ### What the equalisation writes -/

/-- The cells of lane `n`'s link and state in the header (R124). -/
def laneHeaderCells (p : Part) (n : Lane) : List Host.Cell :=
  cellsFrom (18 + 8 * n.val) (halfBytes (p.lane n).headerLink) ++
    cellsFrom (20 + 8 * n.val) [BitVec.ofNat 8 (p.lane n).state.num]

/-- The cells of slot `j` in the equalisation: its source, with the seen count read as its change count. -/
def equalisingCells (m : List Host.Cell) (p : Part) (j : SlotId) : List Host.Cell :=
  slotCells j (p.slotContent j) (readSeen m j)

/-- The cells that the equalisation writes: the slots, the lanes' header fields, the generation. -/
def equaliseCells (m : List Host.Cell) (p : Part) : List Host.Cell :=
  (List.finRange 52).flatMap (equalisingCells m p) ++
    ((List.finRange 4).flatMap (laneHeaderCells p) ++ cellsFrom 4 (halfBytes (p.generation.setWidth 16)))

/-- Slot `j` once it has been equalised. -/
def equalSlot (m : List Host.Cell) (p : Part) (j : SlotId) : BoardSlot :=
  { shadow := readSeen m j, seen := readSeen m j, notify := readNotify m j, content := p.slotContent j, waiting := false }

/-- The part once the slots in `l` have been equalised and `cells` have been asked for. -/
def Part.equalising (p : Part) (m : List Host.Cell) (l : List SlotId) (cells : List Host.Cell) : Part :=
  { p with
    board := { p.board with slots := tableOf 52 (fun j => if j ∈ l then equalSlot m p j else p.slot j) }
    writes := p.writes ++ cells }

theorem Part.equalising_writes (p : Part) (m : List Host.Cell) (l : List SlotId) (cells : List Host.Cell) (a : Nat)
    (bytes : List Byte) : (p.equalising m l cells).write a bytes = p.equalising m l (cells ++ cellsFrom a bytes) := by
  simp [Part.equalising, Part.write]

theorem equaliseSlot_equalising (m : List Host.Cell) (p : Part) (l : List SlotId) (cells : List Host.Cell) (j : SlotId) :
    equaliseSlot m j (p.equalising m l cells) = p.equalising m (l ++ [j]) (cells ++ equalisingCells m p j) := by
  have hcontent : (p.equalising m l cells).slotContent j = p.slotContent j := by
    unfold Part.slotContent
    cases sourceOf j <;> rfl
  have hslots : setAt (p.equalising m l cells).board.slots j (equalSlot m p j) =
      (p.equalising m (l ++ [j]) cells).board.slots := by
    refine table_ext fun i => ?_
    rw [getAt_setAt]
    by_cases hi : j = i
    · subst hi
      simp [Part.equalising]
    · simp [Part.equalising, hi, Ne.symm hi]
  unfold equaliseSlot
  simp only
  rw [hcontent, writeSlot_writes]
  show ({ (p.equalising m l cells) with
      board := { (p.equalising m l cells).board with
        slots := setAt (p.equalising m l cells).board.slots j (equalSlot m p j) }
      writes := p.writes ++ cells ++ equalisingCells m p j } : Part) = _
  rw [hslots, List.append_assoc]
  rfl

theorem equaliseSlots_equalising (m : List Host.Cell) (p : Part) : ∀ (rest l : List SlotId) (cells : List Host.Cell),
    forEach rest (equaliseSlot m) (p.equalising m l cells) =
      p.equalising m (l ++ rest) (cells ++ rest.flatMap (equalisingCells m p)) := by
  intro rest
  induction rest with
  | nil => simp
  | cons j rest ih =>
    intro l cells
    rw [forEach_cons, equaliseSlot_equalising, ih]
    simp

theorem writeLaneHeaders_equalising (m : List Host.Cell) (p : Part) (l : List SlotId) : ∀ (rest : List Lane)
    (cells : List Host.Cell),
    forEach rest (fun n q => writeLaneState n (writeLaneLink n q)) (p.equalising m l cells) =
      p.equalising m l (cells ++ rest.flatMap (laneHeaderCells p)) := by
  intro rest
  induction rest with
  | nil => simp
  | cons n rest ih =>
    intro cells
    have hlane : writeLaneState n (writeLaneLink n (p.equalising m l cells)) =
        p.equalising m l (cells ++ laneHeaderCells p n) := by
      unfold writeLaneState writeLaneLink
      rw [Part.equalising_writes, Part.equalising_writes, List.append_assoc]
      rfl
    rw [forEach_cons, hlane, ih]
    simp

theorem equalise_equalising (m : List Host.Cell) (p : Part) :
    equalise m p = p.equalising m (List.finRange 52) (equaliseCells m p) := by
  have hstart : p = p.equalising m [] [] := by
    have hslots : tableOf 52 p.slot = p.board.slots := table_ext fun j => getAt_tableOf 52 p.slot j
    simp [Part.equalising, hslots]
  unfold equalise writeGeneration
  simp only
  rw [hstart, equaliseSlots_equalising, writeLaneHeaders_equalising, Part.equalising_writes, ← hstart]
  simp only [List.nil_append, List.append_assoc]
  rfl

/-! ### What exchange memory then shows -/

section
variable {m : List Host.Cell} {p : Part}

/-- Writes after which no cell names an address of interest leave it as the writes before them do. -/
theorem readByte_writeCells_append {cells post : List Host.Cell} {a : Nat} (h : Memory.wf m = true)
    (hpost : ∀ c ∈ post, c.1 ≠ a) : readByte (writeCells m (cells ++ post)) a = readByte (writeCells m cells) a := by
  rw [writeCells_append]
  exact readByte_writeCells_other (writeCells_wf h) hpost

/-- Of a list of runs of cells, one run alone names addresses of a region. -/
theorem readByte_writeCells_flatMap {α : Type} {l : List α} {F : α → List Host.Cell} {x : α} {post : List Host.Cell}
    {region : Nat → Prop} (h : Memory.wf m = true) (hx : x ∈ l) (hnodup : l.Nodup)
    (hF : ∀ y, y ≠ x → ∀ c ∈ F y, ¬ region c.1) (hpost : ∀ c ∈ post, ¬ region c.1) :
    ∃ m', Memory.wf m' = true ∧ (∀ a, region a → readByte m' a = readByte m a) ∧
      ∀ a, region a → readByte (writeCells m (l.flatMap F ++ post)) a = readByte (writeCells m' (F x)) a := by
  obtain ⟨l₁, l₂, rfl⟩ := List.append_of_mem hx
  have hnot : x ∉ l₁ ++ l₂ := (List.nodup_cons.1 (List.nodup_middle.1 hnodup)).1
  have hother : ∀ (l' : List α) (a : Nat), region a → (∀ y ∈ l', y ≠ x) → ∀ c ∈ l'.flatMap F, c.1 ≠ a := by
    intro l' a ha hl' c hc e
    obtain ⟨y, hy, hcy⟩ := List.mem_flatMap.1 hc
    exact hF y (hl' y hy) c hcy (e ▸ ha)
  have h₁ : ∀ y ∈ l₁, y ≠ x := fun y hy e => hnot (by simp [← e, hy])
  have h₂ : ∀ y ∈ l₂, y ≠ x := fun y hy e => hnot (by simp [← e, hy])
  refine ⟨writeCells m (l₁.flatMap F), writeCells_wf h, fun a ha => readByte_writeCells_other h (hother l₁ a ha h₁),
    fun a ha => ?_⟩
  rw [readByte_writeCells_append h fun c hc e => hpost c hc (e ▸ ha), List.flatMap_append, List.flatMap_cons,
    ← List.append_assoc, readByte_writeCells_append h (hother l₂ a ha h₂), writeCells_append]

theorem readHalf_congr {m m' : List Host.Cell} {a : Nat} (h : ∀ i, i < 2 → readByte m (a + i) = readByte m' (a + i)) :
    readHalf m a = readHalf m' a := by
  rw [readHalf, readHalf, readBytes_congr h]

/-- Every cell of the header that the equalisation writes lies before the board. -/
theorem laneHeaderCells_address {n : Lane} {c : Host.Cell} (h : c ∈ laneHeaderCells p n) :
    18 + 8 * n.val ≤ c.1 ∧ c.1 ≤ 20 + 8 * n.val := by
  rcases List.mem_append.1 h with h | h
  · have := mem_cellsFrom h
    rw [halfBytes_length] at this
    omega
  · have := mem_cellsFrom h
    simp only [List.length_cons, List.length_nil] at this
    omega

theorem generationCells_address {c : Host.Cell} {h : Half} (hc : c ∈ cellsFrom 4 (halfBytes h)) : c.1 = 4 ∨ c.1 = 5 := by
  have := mem_cellsFrom hc
  rw [halfBytes_length] at this
  omega

theorem slotsCells_address {c : Host.Cell} (h : c ∈ (List.finRange 52).flatMap (equalisingCells m p)) :
    512 ≤ c.1 ∧ c.1 < 2176 := by
  obtain ⟨j, -, hc⟩ := List.mem_flatMap.1 h
  have := slotCells_address hc
  have := boardBase_bound j
  omega

theorem headerCells_before_board {c : Host.Cell}
    (h : c ∈ (List.finRange 4).flatMap (laneHeaderCells p) ++ cellsFrom 4 (halfBytes (p.generation.setWidth 16))) :
    c.1 < 512 := by
  rcases List.mem_append.1 h with h | h
  · obtain ⟨n, -, hc⟩ := List.mem_flatMap.1 h
    have := laneHeaderCells_address hc
    have := n.isLt
    omega
  · have := generationCells_address h
    omega

/-- A slot's bytes after the equalisation are those of its burst. -/
theorem equaliseCells_slot (h : Memory.wf m = true) (j : SlotId) :
    ∃ m', Memory.wf m' = true ∧
      (∀ a, boardBase j ≤ a ∧ a < boardBase j + 32 → readByte m' a = readByte m a) ∧
      ∀ a, boardBase j ≤ a ∧ a < boardBase j + 32 →
        readByte (writeCells m (equaliseCells m p)) a = readByte (writeCells m' (equalisingCells m p j)) a := by
  refine readByte_writeCells_flatMap h (List.mem_finRange j) (List.nodup_finRange 52) ?_ ?_
  · intro i hi c hc
    have := slotCells_address hc
    have := boardBase_apart hi
    omega
  · intro c hc
    have := headerCells_before_board hc
    have := boardBase_bound j
    omega

/-- A lane's header fields after the equalisation are those written for it. -/
theorem equaliseCells_lane (h : Memory.wf m = true) (n : Lane) :
    ∃ m', Memory.wf m' = true ∧ ∀ a, 18 + 8 * n.val ≤ a ∧ a ≤ 20 + 8 * n.val →
      readByte (writeCells m (equaliseCells m p)) a = readByte (writeCells m' (laneHeaderCells p n)) a := by
  have hlanes : ∀ l, l ≠ n → ∀ c ∈ laneHeaderCells p l, ¬ (18 + 8 * n.val ≤ c.1 ∧ c.1 ≤ 20 + 8 * n.val) := by
    intro l hl c hc
    have := laneHeaderCells_address hc
    have : l.val ≠ n.val := fun e => hl (Fin.ext e)
    omega
  have hgeneration : ∀ c ∈ cellsFrom 4 (halfBytes (p.generation.setWidth 16)),
      ¬ (18 + 8 * n.val ≤ c.1 ∧ c.1 ≤ 20 + 8 * n.val) := by
    intro c hc
    have := generationCells_address hc
    omega
  obtain ⟨m', hwf, -, hread⟩ := readByte_writeCells_flatMap (F := laneHeaderCells p)
    (region := fun a => 18 + 8 * n.val ≤ a ∧ a ≤ 20 + 8 * n.val)
    (writeCells_wf (cells := (List.finRange 52).flatMap (equalisingCells m p)) h) (List.mem_finRange n)
    (List.nodup_finRange 4) hlanes hgeneration
  rw [equaliseCells, writeCells_append]
  exact ⟨m', hwf, hread⟩

theorem equaliseCells_generation (h : Memory.wf m = true) :
    readHalf (writeCells m (equaliseCells m p)) 4 = p.generation.setWidth 16 := by
  rw [equaliseCells, ← List.append_assoc, writeCells_append]
  exact readHalf_writeCells_halfBytes (writeCells_wf h) (by simp [Config.memoryBytes])

/-- Outside the board and the part-owned header fields the equalisation writes nothing. -/
theorem equaliseCells_other (h : Memory.wf m = true) {a : Nat} (hboard : a < 512 ∨ 2176 ≤ a)
    (hlanes : ∀ n, outsideLane n a) (h4 : a ≠ 4) (h5 : a ≠ 5) :
    readByte (writeCells m (equaliseCells m p)) a = readByte m a := by
  refine readByte_writeCells_other h fun c hc => ?_
  rcases List.mem_append.1 hc with hc | hc
  · have := slotsCells_address hc
    omega
  · rcases List.mem_append.1 hc with hc | hc
    · obtain ⟨n, -, hcn⟩ := List.mem_flatMap.1 hc
      have := laneHeaderCells_address hcn
      have := hlanes n
      unfold outsideLane at this
      omega
    · have := generationCells_address hc
      omega

end

/-! ### The event that equalises the board -/

theorem Part.Follows.slotContent {p q : Part} (h : p.Follows q) (j : SlotId) : q.slotContent j = p.slotContent j := by
  obtain ⟨⟩ := p
  obtain ⟨⟩ := q
  obtain ⟨rfl, rfl, rfl, rfl, rfl, rfl, rfl, rfl, rfl, rfl, rfl, rfl, rfl, rfl, rfl⟩ := h
  unfold Part.slotContent
  cases sourceOf j <;> rfl

/-- The end of an event that leaves STARTING or LAYOUT_WAIT for PLAN_WAIT. -/
theorem closeEvent_equalises (m : List Host.Cell) {pre p : Part} (hpre : pre.equalised = false) (hp : p.equalised = true) :
    closeEvent m pre p = settleInt { equalise m p with forced := [] } := by
  unfold closeEvent
  simp only [hp, hpre, if_true, Bool.false_eq_true, if_false]

/-- With every seen count read taken as the change count, no slot is pending. -/
theorem equalising_pendingSlots (m : List Host.Cell) (p : Part) (cells : List Host.Cell) :
    (p.equalising m (List.finRange 52) cells).pendingSlots = [] := by
  unfold Part.pendingSlots
  rw [List.filter_eq_nil_iff]
  intro j _
  simp [Part.slot, Part.equalising, BoardSlot.pending, equalSlot]

/-- R133: an event that comes to rest at `q`, with the board equalised for the first time, equalises it. -/
theorem runEvent_equalises {f : List Host.Cell → Part → Part} {s : State} {q : Part} (hmem : Memory.wf s.mem = true)
    (hdrain : drain s.mem Config.agendaBound (f s.mem s.part) = q) (hagenda : q.agenda = []) (hhold : q.metHolds = [])
    (hwrites : q.writes = []) (hpre : s.part.equalised = false) (hq : q.equalised = true) :
    s.Equalised (runEvent f s) := by
  have hfollows : q.Follows (runEvent f s).part := (runEvent_follows hdrain hagenda hhold).1
  have hpart : eventPart f s.mem s.part =
      settleInt { q.equalising s.mem (List.finRange 52) (equaliseCells s.mem q) with forced := [] } := by
    rw [eventPart_of_drain hdrain hagenda hhold, closeEvent_equalises s.mem hpre hq, equalise_equalising]
  have hbytes : (runEvent f s).mem = writeCells s.mem (equaliseCells s.mem q) := by
    show writeCells s.mem (eventPart f s.mem s.part).writes = _
    rw [hpart]
    show writeCells s.mem (q.writes ++ _) = _
    rw [hwrites, List.nil_append]
  have hslot : ∀ j, (runEvent f s).part.slot j = equalSlot s.mem q j := by
    intro j
    show (eventPart f s.mem s.part).slot j = _
    rw [hpart]
    simp [settleInt, Part.slot, Part.equalising]
  have hpending := equalising_pendingSlots s.mem q (equaliseCells s.mem q)
  refine ⟨fun j => ?_, fun j => ?_, fun j => ?_, fun j => ?_, fun n => ?_, fun n => ?_, ?_, fun a => ?_, ?_⟩
  · rw [hslot, hfollows.slotContent]
    rfl
  · obtain ⟨m', hwf, -, hread⟩ := equaliseCells_slot (p := q) hmem j
    rw [hbytes, hfollows.slotContent, readBytes_congr fun i hi => hread _ (by omega)]
    exact slotCells_run (i := 0) hwf (by omega) rfl
  · obtain ⟨m', hwf, -, hread⟩ := equaliseCells_slot (p := q) hmem j
    rw [hbytes, readHalf_congr fun i hi => hread _ (by omega)]
    exact slotCells_count hwf
  · obtain ⟨m', hwf, hsame, hread⟩ := equaliseCells_slot (p := q) hmem j
    rw [hbytes]
    refine readBytes_congr fun i hi => ?_
    rw [hread _ (by omega), ← hsame _ (by omega)]
    refine readByte_writeCells_other hwf fun c hc => ?_
    have := slotCells_address hc
    omega
  · obtain ⟨m', hwf, hread⟩ := equaliseCells_lane (p := q) hmem n
    have := n.isLt
    rw [hbytes, hfollows.lane, readHalf_congr fun i hi => hread _ (by omega), laneHeaderCells, writeCells_append, readHalf,
      readBytes_writeCells_outside (writeCells_wf hwf) (by omega)]
    exact readHalf_writeCells_halfBytes hwf (by simp only [Config.memoryBytes]; omega)
  · obtain ⟨m', hwf, hread⟩ := equaliseCells_lane (p := q) hmem n
    have := n.isLt
    rw [hbytes, hfollows.lane, hread _ (by omega), laneHeaderCells, writeCells_append]
    exact readByte_writeCells_cellsFrom_inside (i := 0) (writeCells_wf hwf) (by simp)
      (by simp only [Config.memoryBytes]; omega)
  · rw [hbytes, hfollows.generation]
    exact equaliseCells_generation hmem
  · rw [hbytes]
    exact equaliseCells_other hmem
  · show (eventPart f s.mem s.part).board.pendingCount = 0 ∧ (eventPart f s.mem s.part).board.lowest = none ∧
      (eventPart f s.mem s.part).board.nIntLow = false
    rw [hpart]
    refine ⟨congrArg List.length hpending, congrArg List.head? hpending, ?_⟩
    show (_ && decide (0 < (q.equalising s.mem (List.finRange 52) (equaliseCells s.mem q)).pendingSlots.length)) = false
    rw [hpending]
    simp

end Sys2Proof.Machine
end

section
/-! RESCAN (R131, R133, R142, R186, R187). -/

namespace Sys2Proof.Machine

/-! ### In LAYOUT_WAIT -/

theorem takeRescan_layoutWait {m : List Host.Cell} {p : Part} (h : p.port.partState = .layoutWait) :
    takeRescan m p = { p with port := { p.port with partState := stateByLayout m } } := by
  unfold takeRescan
  rw [h]

theorem stateByLayout_eq (m : List Host.Cell) :
    stateByLayout m = if readHalf m 0 = 1 then .planWait else .layoutWait := rfl

/-- A layout word other than 1 leaves the part as it is. -/
theorem takeRescan_layoutWait_stays {m : List Host.Cell} {p : Part} (h : p.port.partState = .layoutWait)
    (hword : readHalf m 0 ≠ 1) : takeRescan m p = p := by
  rw [takeRescan_layoutWait h, stateByLayout_eq, if_neg hword, ← h]

/-! ### In PLAN_WAIT and READY -/

/-- The part once a RESCAN has started or joined a seen-count read and had the RESTING lanes reread their anchors. -/
def rescanned (m : List Host.Cell) (p : Part) : Part :=
  { p with
    lanes := tableOf 4 (fun n => (p.lane n).rereads n m)
    board := { p.board with read := if p.board.read = .idle then .underWay else .further } }

theorem takeRescan_equalised (m : List Host.Cell) {p : Part} (h : p.port.partState = .planWait ∨ p.port.partState = .ready) :
    takeRescan m p = rescanned m p := by
  have hequalised : p.equalised = true := by rcases h with e | e <;> rw [Part.equalised, e] <;> rfl
  have hrescan : takeRescan m p = forEach (List.finRange 4) (fun n => reread n m) (startRead p) := by
    unfold takeRescan
    rcases h with e | e <;> rw [e]
  rw [hrescan, startRead_equalised hequalised, reread_all]
  rfl

theorem rescanned_lane (m : List Host.Cell) (p : Part) (n : Lane) : (rescanned m p).lane n = (p.lane n).rereads n m :=
  getAt_tableOf 4 (fun n => (p.lane n).rereads n m) n

theorem exec_rescan {s : State} (h : s.Quiet) : exec .rescan s = .next (runEvent takeRescan s) := by
  show Host.Outcome.next (unlessReset _ s) = _
  rw [unlessReset_quiet h]

theorem rescan_inLayoutWait {s : State} (h : s.Quiet) (hstate : s.part.port.partState = .layoutWait) :
    ∃ t, exec .rescan s = .next t ∧
      t.part.port.partState = (if readHalf s.mem 0 = 1 then .planWait else .layoutWait) ∧
      (readHalf s.mem 0 = 1 → s.Equalised t) ∧ (readHalf s.mem 0 ≠ 1 → s.Ran t s.part) := by
  have htake := takeRescan_layoutWait (m := s.mem) hstate
  have hagenda : (takeRescan s.mem s.part).agenda = [] := by
    rw [htake]
    exact h.agenda
  have hhold : (takeRescan s.mem s.part).metHolds = [] :=
    metHolds_none fun n => by rw [htake]; exact h.noHold n (by simp)
  have hfollows := (runEvent_follows (drain_done hagenda) hagenda hhold).1
  refine ⟨_, exec_rescan h, ?_, fun hword => ?_, fun hword => ?_⟩
  · rw [hfollows.port, htake]
    exact stateByLayout_eq s.mem
  · refine runEvent_equalises h.mem (drain_done hagenda) hagenda hhold ?_ ?_ ?_
    · rw [htake]
      exact h.settled.1
    · rw [Part.equalised, hstate]
      rfl
    · rw [htake, Part.equalised, stateByLayout_eq, if_pos hword]
      rfl
  · exact ran_of_runEvent h (takeRescan_layoutWait_stays hstate hword) h.agenda h.settled.1 rfl rfl rfl

section
variable {s : State}

theorem rescan_read (h : s.Quiet) (hstate : s.part.port.partState = .planWait ∨ s.part.port.partState = .ready) :
    (runEvent takeRescan s).part.board.read = (if s.part.board.read = .idle then .underWay else .further) := by
  have htake := takeRescan_equalised s.mem hstate
  have hhold : (rescanned s.mem s.part).metHolds = [] :=
    metHolds_none fun n => by rw [rescanned_lane, rereads_waitKind]; exact h.noHold n (by simp)
  have hdrain : drain s.mem Config.agendaBound (takeRescan s.mem s.part) = rescanned s.mem s.part := by
    rw [htake]
    exact drain_done h.agenda
  exact (runEvent_samePending hdrain h.agenda hhold fun e => e).1.read

theorem rescan_ranLanes (h : s.Quiet) (hstate : s.part.port.partState = .planWait ∨ s.part.port.partState = .ready) :
    s.RanLanes (runEvent takeRescan s)
      { s.part with lanes := tableOf 4 (fun n => (s.part.lane n).rereads n s.mem) } := by
  have htake := takeRescan_equalised s.mem hstate
  have hran : s.RanLanes (runEvent takeRescan s) (rescanned s.mem s.part) :=
    ranLanes_of_drain h (by rw [htake]; exact drain_done h.agenda) h.agenda h.settled.1
      (fun n => by rw [rescanned_lane, rereads_waitKind]) rfl rfl
  exact hran.of_follows ⟨rfl, rfl, rfl, rfl, rfl, rfl, rfl, rfl, rfl, rfl, rfl, rfl, rfl, rfl, rfl⟩

/-- With no lane RESTING no lane rereads an anchor. -/
theorem rescan_ran (h : s.Quiet) (hstate : s.part.port.partState = .planWait ∨ s.part.port.partState = .ready)
    (hrest : ∀ n, (s.part.lane n).state ≠ .resting) : s.Ran (runEvent takeRescan s) s.part := by
  have hlanes : (rescanned s.mem s.part).lanes = s.part.lanes :=
    table_ext fun n => (rescanned_lane s.mem s.part n).trans (rereads_other (hrest n))
  have hran : s.Ran (runEvent takeRescan s) (rescanned s.mem s.part) :=
    ran_of_runEvent h (takeRescan_equalised s.mem hstate) h.agenda h.settled.1 hlanes rfl rfl
  exact hran.of_follows ⟨rfl, rfl, rfl, rfl, rfl, rfl, rfl, hlanes, rfl, rfl, rfl, rfl, rfl, rfl, rfl⟩

end

/-- Settles O11: by the part state, the layout word's event, or the read and the RESTING lanes' anchors. -/
theorem rescanByPartState : Obligations.RescanByPartState := fun _ h =>
  ⟨rescan_inLayoutWait h, fun hstate =>
    ⟨fun hrest => ⟨_, exec_rescan h, rescan_ran h hstate hrest, rescan_read h hstate⟩,
      ⟨_, exec_rescan h, rescan_ranLanes h hstate, rescan_read h hstate⟩⟩⟩

end Sys2Proof.Machine
end

section
/-! The abort of a nest of one level at rest that stops its lane with a cause of its own (R143, R151, R163, R164, R167). -/

namespace Sys2Proof.Machine

/-- The abort of a nest of one level that stops its lane (R164). -/
def stopAbort (cause : AbortCause) (link : Half) (stop : LaneCause) (badLink : Option Half) : AbortRecord :=
  { haltAbort cause link with stopCause := some stop, badLink := badLink }

/-- The lane of a nest of one level once the abort has ended and stopped it. -/
def LaneContext.nestStopped (c : LaneContext) (top : Level) (stop : LaneCause) (badLink : Option Half) : LaneContext :=
  { LaneContext.stopped { c.retiredAt top.record.link with nest := [] } stop with badLink := badLink }

/-- The link that a lane stopped with this cause shows as the one it could not take (R143). -/
def LaneCause.shownLink (stop : LaneCause) (badLink : Option Half) : Option Half :=
  if stop = .linkInvalid ∨ stop = .notArmed then badLink else none

theorem stopAbort_result (cause : AbortCause) (link : Half) (stop : LaneCause) (badLink : Option Half) :
    (stopAbort cause link stop badLink).result = Result.of .aborted cause.num 1 (link.setWidth 32) := by
  simp [stopAbort, haltAbort, AbortRecord.result, word]

/-- Where no actuator and no call keeps a record of the lane, forgetting it takes its waiter alone. -/
theorem forgetLane_waiters {p : Part} {n : Lane} (h : p.Unwaited n) :
    forgetLane n p = { p with waiters := p.waiters.filter (fun w => w.lane != n) } := by
  have hnone := forgetLane_unwaited (p := { p with waiters := [] }) h.movers h.doors h.calls rfl
  calc forgetLane n p
      = { forgetLane n { p with waiters := [] } with waiters := p.waiters.filter (fun w => w.lane != n) } := rfl
    _ = { p with waiters := p.waiters.filter (fun w => w.lane != n) } := by rw [hnone]

section
variable {p : Part} {n : Lane} {c : LaneContext} {top : Level} {a : AbortRecord} {cause : AbortCause} {stop : LaneCause}
  {badLink : Option Half}

theorem endCurrent_none (code : ResultCode) (hcur : (p.lane n).current = none) : endCurrent n code p = forgetLane n p := by
  unfold endCurrent retireCurrent
  rw [hcur]

/-- R163, R164: a cause with a stop cause reaches a lane of one level with no record in hand, all its actuators at rest; the abort
is under HALT. -/
theorem nestAbort_stops (hnest : (p.lane n).nest = [top]) (hhalt : top.returns = false ∨ cause = .cancel)
    (hstate : (p.lane n).state ≠ .aborting) (hcur : (p.lane n).current = none) (hw : p.waiters = []) (hu : p.Unwaited n)
    (hsteady : ∀ e, (p.claim e).inNest n = true → p.steady e = true) :
    nestAbort n cause 0 (some stop) badLink p =
      (p.setLane n ((p.lane n).aborting (stopAbort cause (badLink.getD (p.lane n).anchor.link) stop badLink))).emit
        [.abortTest n] := by
  have hend : endCurrent n .aborted p = p :=
    (endCurrent_none .aborted hcur).trans (forgetLane_unwaited hu.movers hu.doors hu.calls hw)
  have hreturns : (top.returns && (cause != .cancel)) = false := by
    rcases hhalt with e | e
    · rw [e]
      rfl
    · rw [e]
      simp
  have hhalts : ∀ c, forEach ((p.setLane n c).nestEntries n) haltEntry (p.setLane n c) = p.setLane n c := fun c =>
    forEach_id _ fun e he => haltEntry_steady (hsteady e (mem_nestEntries.1 he))
  unfold nestAbort
  simp only [hnest, List.getLast?_singleton, if_neg hstate, hend, hreturns, Bool.false_eq_true, if_false]
  refine congrArg (Part.emit [.abortTest n]) ((hhalts _).trans ?_)
  simp [LaneContext.aborting, stopAbort, haltAbort, hnest]

/-- An abort with an actuator still in motion, or a return to come, goes on (R167). -/
theorem abortTest_underWay (h : p.abortDone n = false) : abortTest n p = p := by
  unfold abortTest
  dsimp only
  split
  · simp [h]
  · rfl

theorem abortDone_iff : p.abortDone n = true ↔
    ∀ e, (p.claim e).inNest n = true → p.steady e = true ∧ (p.claim e).status ≠ .pending := by
  simp [Part.abortDone, List.all_eq_true, mem_nestEntries]

/-- R167: with every actuator of the one level at rest, its claims are given back, its record retires and the lane stops. -/
theorem abortTest_stops (hnest : c.nest = [top]) (hstop : a.stopCause = some stop)
    (hdone : ∀ e, (p.claim e).inNest n = true → p.steady e = true ∧ (p.claim e).status ≠ .pending) :
    ∃ d f g ov oc fs,
      abortTest n (p.setLane n (c.aborting a)) =
        ({ p with lanes := setAt p.lanes n (c.nestStopped top stop (stop.shownLink a.badLink)),
                  claims := mapAll (fun x => if x.inNest n then Claim.free else x) p.claims,
                  writes := p.writes ++ retireCells top.record a.result d f g p.now,
                  forced := fs, openValues := ov, openCount := oc } : Part).emit [.arbitrate] ∧
      (∀ h, a.result.detail = some h → d = h) ∧ (∀ w, a.result.first = some w → f = w) ∧
      (∀ w, a.result.second = some w → g = w) := by
  obtain ⟨q, hq⟩ : ∃ q, q = releaseWhere (fun x => x.inNest n) (p.setLane n (c.aborting a)) := ⟨_, rfl⟩
  obtain ⟨d, f, g, ov, oc, fs, hretires, h1, h2, h3⟩ := laneRetires_eq n top.record a.result q
  refine ⟨d, f, g, ov, oc, fs, ?_, h1, h2, h3⟩
  have hlane : (p.setLane n (c.aborting a)).lane n = c.aborting a := by simp [Part.lane, Part.setLane]
  have habort : ((p.setLane n (c.aborting a)).lane n).abort = some a := by rw [hlane]; rfl
  have hlevel : ((p.setLane n (c.aborting a)).lane n).nest = [top] := by rw [hlane]; exact hnest
  have hstate : (((p.setLane n (c.aborting a)).lane n).state == .aborting) = true := by rw [hlane]; rfl
  have hdone' : (p.setLane n (c.aborting a)).abortDone n = true := abortDone_iff.2 hdone
  have hqlane : q.lane n = c.aborting a := by rw [hq]; exact hlane
  unfold abortTest
  dsimp only
  rw [habort, hlevel, List.getLast?_singleton]
  dsimp only
  rw [hstate, hdone', if_pos (by rfl), forEach_cons, forEach_nil, ← hq, hretires]
  unfold afterAbort
  rw [hstop, hqlane, hq]
  simp only [stopLane, releaseWhere, Part.setLane, Part.lane, setAt_setAt, getAt_setAt_same]
  rfl

/-- An event that comes to the abort of lane `n`'s nest of one level, with a stop cause, and to nothing more: the nest ends in the
event and the lane stops. -/
theorem event_nestStops {fn : List Host.Cell → Part → Part} {s : State} (h : s.Quiet) (hlanes : p.lanes = s.part.lanes)
    (hgeneration : p.generation = s.part.generation) (hstate : p.port.partState = s.part.port.partState)
    (hagenda : p.agenda = []) (hwrites : p.writes = []) (hwaiters : p.waiters = [])
    (hnest : (p.lane n).nest = [top]) (hvalid : linkValid top.record.link = true) (hclean : top.record.clamped = false)
    (hstop : a.stopCause = some stop)
    (hdone : ∀ e, (p.claim e).inNest n = true → p.steady e = true ∧ (p.claim e).status ≠ .pending)
    (hdrain : ∀ r, (p.setLane n ((p.lane n).aborting a)).Does [.abortTest n] 1 r [.arbitrate] → r.agenda = [] →
      r.waiters = [] → (∀ l, l ≠ n → r.lane l = p.lane l) → drain s.mem Config.agendaBound (fn s.mem s.part) = r) :
    s.Retires (runEvent fn s) n top.record.link
      (if top.record.standing then readByte s.mem (slotBase top.record.link) else ownerRetired) a.result
      (Part.setLane n ((p.lane n).nestStopped top stop (stop.shownLink a.badLink))
        { p with claims := mapAll (fun x => if x.inNest n then Claim.free else x) p.claims }) := by
  obtain ⟨d, f, g, ov, oc, fs, htest, h1, h2, h3⟩ := abortTest_stops (a := a) hnest hstop hdone
  obtain ⟨r, hr⟩ : ∃ r : Part, r = { p with
      lanes := setAt p.lanes n ((p.lane n).nestStopped top stop (stop.shownLink a.badLink)),
      claims := mapAll (fun x => if x.inNest n then Claim.free else x) p.claims,
      writes := p.writes ++ retireCells top.record a.result d f g p.now,
      forced := fs, openValues := ov, openCount := oc } := ⟨_, rfl⟩
  rw [← hr] at htest
  have hra : r.agenda = [] := by rw [hr]; exact hagenda
  have hother : ∀ l, l ≠ n → r.lane l = p.lane l := fun l hl => by
    rw [hr]
    exact getAt_setAt_ne _ _ (Ne.symm hl)
  have hsame : ∀ l, p.lane l = s.part.lane l := fun l => by rw [Part.lane, hlanes]; rfl
  have hown : (r.lane n).waitKind = none := by
    rw [hr]
    exact congrArg LaneContext.waitKind (getAt_setAt_same ..)
  have hretires := event_retires (fn := fn) (n := n) (held := top.record) (at' := p.now) h.mem hvalid
    (hdrain r (.one hagenda (by simp) fun _ => htest) hra (by rw [hr]; exact hwaiters) hother) hra
    (metHolds_none fun l => by
      by_cases e : l = n
      · rw [e, hown]
        simp
      · rw [hother l e, hsame]
        exact h.noHold l (by simp))
    (by rw [hr, hwrites]; rfl) h1 h2 h3 (fun l hl => (hother l hl).trans (hsame l)) (by rw [hr]; exact hgeneration)
    (by rw [hr]; exact hstate)
  rw [hclean] at hretires
  refine ⟨Part.Follows.trans ?_ hretires.follows, hretires.owner, hretires.result, hretires.keeps, hretires.queue,
    hretires.done⟩
  rw [hr]
  exact ⟨rfl, rfl, rfl, rfl, rfl, rfl, rfl, rfl, rfl, rfl, rfl, rfl, rfl, rfl, rfl⟩

end

end Sys2Proof.Machine
end

section
/-! Links (R123, R138, R139, R143, R178): a link that no lane can take, and a plan area that no plan can have. -/

namespace Sys2Proof.Machine

theorem linkValid_iff (link : Half) : linkValid link = true ↔ 48 ≤ link.toNat ∧ link.toNat ≤ 4095 := by
  unfold linkValid
  rw [Bool.and_eq_true, decide_eq_true_iff, decide_eq_true_iff]
  rfl

/-! ### A link that cannot be taken -/

/-- Why lane's link `link` cannot be taken (R138, R143): it names no record, or its record is not the part's to take. -/
def linkBad (m : List Host.Cell) (link : Half) (cause : LaneCause) : Prop :=
  (linkValid link = false ∧ cause = .linkInvalid) ∨
    (linkValid link = true ∧ readByte m (slotBase link) ≠ 1 ∧ readByte m (slotBase link) ≠ 4 ∧ cause = .notArmed)

theorem imageOwner_readImage (m : List Host.Cell) (link : Half) :
    imageOwner (readImage m link) = readByte m (slotBase link) := rfl

section
variable {s : State} {n : Lane} {link : Half} {cause : LaneCause} {m : List Host.Cell} {p : Part}

theorem takesNow_working (h : p.takesNow n = some link) : (p.lane n).state = .working := by
  unfold Part.takesNow at h
  dsimp only at h
  split at h
  · next hnow => exact hnow.1
  · cases h

theorem linkTake_bad (hnow : p.takesNow n = some link) (hbad : linkBad m link cause) :
    linkTake n m p = cannotTake n cause link p := by
  unfold linkTake
  rw [hnow]
  rcases hbad with ⟨hvalid, rfl⟩ | ⟨hvalid, harmed, hstanding, rfl⟩
  · simp [hvalid]
  · have howner : ¬ (imageOwner (readImage m link) == ownerArmed || imageOwner (readImage m link) == ownerStanding) := by
      rw [imageOwner_readImage, Bool.or_eq_true, beq_iff_eq, beq_iff_eq]
      exact fun e => e.elim harmed hstanding
    dsimp only
    rw [if_pos hvalid, if_neg howner]

/-- Either cause shows the link that could not be taken. -/
theorem linkBad.shownLink (h : linkBad m link cause) (badLink : Option Half) : cause.shownLink badLink = badLink := by
  rcases h with ⟨-, rfl⟩ | ⟨-, -, -, rfl⟩ <;> rfl

theorem exec_linkTake (h : s.Quiet) : exec (.linkTake n) s = .next (runEvent (linkTake n) s) := by
  show Host.Outcome.next (unlessReset (takeEvent n) s) = _
  rw [unlessReset_quiet h]
  rfl

/-- With no open group the lane stops. -/
theorem badLink_stops (h : s.Quiet) (hnow : s.part.takesNow n = some link) (hbad : linkBad s.mem link cause)
    (hnest : (s.part.lane n).nest = []) :
    s.RanLane (runEvent (linkTake n) s) n (s.part.setLane n { (s.part.lane n).stopped cause with badLink := some link }) := by
  refine ranLane_of_setLane h ?_ (by simp [LaneContext.stopped])
  rw [linkTake_bad hnow hbad, cannotTake, hnest]
  rfl

/-- Inside a HALT group at rest the nest aborts, and the lane stops. -/
theorem badLink_aborts {top : Level} (h : s.Quiet) (hnow : s.part.takesNow n = some link) (hbad : linkBad s.mem link cause)
    (hends : endsAtOnce s.part n top) (hcur : (s.part.lane n).current = none) :
    s.Retires (runEvent (linkTake n) s) n top.record.link (anchorOwner s top) (Result.of .aborted 6 1 (link.setWidth 32))
      (Part.setLane n
        { LaneContext.stopped { (s.part.lane n).retiredAt top.record.link with nest := [] } cause with badLink := some link }
        { s.part with claims := mapAll (fun c => if c.inNest n then Claim.free else c) s.part.claims }) := by
  have htake : linkTake n s.mem s.part =
      (s.part.setLane n ((s.part.lane n).aborting (stopAbort .order link cause (some link)))).emit [.abortTest n] := by
    rw [linkTake_bad hnow hbad, cannotTake, hends.nest]
    exact nestAbort_stops hends.nest (Or.inl hends.halts) (by simp [takesNow_working hnow]) hcur hends.waiters
      hends.unwaited fun e he => (hends.steady e he).1
  have hretires := event_nestStops (fn := linkTake n) (a := stopAbort .order link cause (some link)) h rfl rfl rfl h.agenda
    h.settled.1 hends.waiters hends.nest hends.valid hends.clean rfl hends.steady fun r hdoes hra hrw _ => by
      rw [htake, show Config.agendaBound = 65534 + 1 + 1 from rfl, ← List.append_nil [Act.abortTest n], hdoes,
        List.append_nil, drain_arbitrate_alone hra hrw]
  rw [stopAbort_result, show (stopAbort .order link cause (some link)).badLink = some link from rfl, hbad.shownLink]
    at hretires
  exact hretires

end

/-! ### A plan area -/

section
variable {s : State} {n : Lane} {link target : Half} {head : OrderHead} {kind : OrderKind} {params : List Byte} {p : Part}

/-- The fields that every kind has before its parameters are in their ranges (R139, check 1). -/
theorem headChecks_pass (h : headPasses head p) : ∀ c ∈
    [(2, decide ((byteAt (orderImage head kind params) 2).toNat < 4)), (3, zeros (orderImage head kind params) 3 1),
      (8, (imageExpectMask (orderImage head kind params) == 0) ||
        decide ((imageExpectZone (orderImage head kind params)).toNat ≤ 11)),
      (9, decide ((imageExpectMask (orderImage head kind params)).toNat < 16)),
      (10, zeros (orderImage head kind params) 10 2)], c.2 = true := by
  obtain ⟨hflags, hmask, hexpect⟩ := h
  intro c hc
  simp only [List.mem_cons, List.not_mem_nil, or_false] at hc
  rcases hc with rfl | rfl | rfl | rfl | rfl
  · exact decide_eq_true hflags
  · rfl
  · show (head.expectMask == 0 || decide (head.expectZone.toNat ≤ 11)) = true
    rcases hexpect with e | ⟨k, hk, -⟩
    · simp [e]
    · have := k.isLt
      simp only [Bool.or_eq_true, decide_eq_true_eq]
      omega
  · exact decide_eq_true hmask
  · rfl

/-- A record whose first parameter field is out of its range is refused at that field's offset. -/
theorem badField_firstParam {offset : Nat} {rest : List (Nat × Bool)} (h : headPasses head p)
    (hparams : p.paramChecks (orderImage head kind params) kind = (offset, false) :: rest) :
    p.badField (orderImage head kind params) = some offset := by
  unfold Part.badField Part.recordChecks
  rw [imageKind_orderImage]
  dsimp only
  rw [List.append_assoc, List.find?_append, hparams,
    List.find?_eq_none.2 fun c hc => by simp [headChecks_pass h c hc]]
  rfl

theorem paramHalf_orderImage (target : Half) : paramHalf (orderImage head kind (halfBytes target)) = target := by
  have hbyte : ∀ i, i < 2 → byteAt (orderImage head kind (halfBytes target)) (12 + i) = byteAt (halfBytes target ++ []) i :=
    fun i hi => byteAt_params head kind (params := halfBytes target) (by simp [halfBytes]) (by simpa [halfBytes] using hi)
  refine Eq.trans ?_ (halfAt_halfBytes target [])
  unfold paramHalf halfAt
  rw [hbyte 0 (by omega), hbyte 1 (by omega)]

theorem adoptPlan_badArea (h : headPasses head p) (htarget : target.toNat < 48 ∨ 4052 < target.toNat) :
    p.refusal n (orderImage head .adoptPlan (halfBytes target)) =
      some { Result.bare .badRecord with detail := some 12, first := some 0 } := by
  have hout : ¬ (48 ≤ target.toNat ∧ target.toNat ≤ 4052) := by omega
  have hparams : p.paramChecks (orderImage head .adoptPlan (halfBytes target)) .adoptPlan =
      (12, false) :: [restZero (orderImage head .adoptPlan (halfBytes target)) 14] := by
    unfold Part.paramChecks
    rw [paramHalf_orderImage]
    simp [Config.firstRecordSlot, Config.lastPlanSlot, hout]
  unfold Part.refusal
  rw [badField_firstParam h hparams]
  rfl

end

/-- Settles O39: the ranges of a link and of a plan area, and what a lane does with a link that it cannot take. -/
theorem linksNameRecords : Obligations.LinksNameRecords := by
  refine ⟨linkValid_iff, fun _ hvalid => slotBase_bound hvalid, ?_, ?_⟩
  · intro s n link cause h hnow hbad
    exact ⟨fun hnest => ⟨_, exec_linkTake h, badLink_stops h hnow hbad hnest⟩,
      fun top hends hcur _ => ⟨_, exec_linkTake h, badLink_aborts h hnow hbad hends hcur⟩⟩
  · intro s n link target head h halternate htarget
    have hrefused := adoptPlan_badArea (n := n) (headPasses_taken (n := n) (link := link) (st := head.standing)
      (image := orderImage head .adoptPlan (halfBytes target)) h.passes) htarget
    exact ⟨_, orderCommand_runs h.takes, order_refused h.takes (by simp [halfBytes]) hrefused fun _ => halternate⟩

end Sys2Proof.Machine
end

section
/-! The cancel of a lane (R140, R151, R155, R164, R167, R168): what it leaves, by what the lane does. -/

namespace Sys2Proof.Machine

/-- A lane with no record in hand and no open group after a cancel (R151). -/
def LaneContext.cancelled (c : LaneContext) (cause : LaneCause) : LaneContext :=
  match c.state with
  | .resting | .working => c.stopped cause
  | .idle | .stopped | .waiting | .aborting => c

section
variable {p : Part} {n : Lane} {cause : LaneCause} {held : HeldRecord} {r : Result}

theorem laneCancel_idle (h : (p.lane n).state = .idle ∨ (p.lane n).state = .stopped) : laneCancel n cause p = p := by
  unfold laneCancel
  rcases h with e | e <;> rw [e]

theorem laneCancel_running (h : (p.lane n).state = .resting ∨ (p.lane n).state = .working ∨ (p.lane n).state = .waiting) :
    laneCancel n cause p =
      if ((endCurrent n .cancelled p).lane n).nest.isEmpty then stopLane n cause none (endCurrent n .cancelled p)
      else nestAbort n .cancel 0 (some cause) none (endCurrent n .cancelled p) := by
  unfold laneCancel
  rcases h with e | e | e <;> rw [e]

/-- A cancel of a lane with no record in hand and no open group stops it where it runs; what waits for it elsewhere is forgotten. -/
theorem laneCancel_noRecord (hstate : (p.lane n).state ≠ .waiting ∧ (p.lane n).state ≠ .aborting)
    (hnest : (p.lane n).nest = []) (hcur : (p.lane n).current = none) :
    ∃ movers doors calls waiters, laneCancel n cause p =
      { p with lanes := setAt p.lanes n ((p.lane n).cancelled cause), movers := movers, doors := doors, calls := calls,
               waiters := waiters } := by
  have hstays : ∀ c, (p.lane n).cancelled cause = c → c = p.lane n →
      p = { p with lanes := setAt p.lanes n ((p.lane n).cancelled cause) } := fun c h e => by
    rw [h, e]
    exact (Part.setLane_self p n).symm
  have hstops : (p.lane n).state = .resting ∨ (p.lane n).state = .working ∨ (p.lane n).state = .waiting →
      (p.lane n).cancelled cause = (p.lane n).stopped cause →
      laneCancel n cause p = { forgetLane n p with lanes := setAt p.lanes n ((p.lane n).cancelled cause) } := by
    intro hrun hcancelled
    have hnest' : ((forgetLane n p).lane n).nest = [] := hnest
    rw [laneCancel_running hrun, endCurrent_none .cancelled hcur, hnest', hcancelled]
    rfl
  cases e : (p.lane n).state with
  | idle => exact ⟨_, _, _, _, (laneCancel_idle (Or.inl e)).trans (hstays _ rfl (by rw [LaneContext.cancelled, e]))⟩
  | stopped => exact ⟨_, _, _, _, (laneCancel_idle (Or.inr e)).trans (hstays _ rfl (by rw [LaneContext.cancelled, e]))⟩
  | resting => exact ⟨_, _, _, _, hstops (Or.inl e) (by rw [LaneContext.cancelled, e])⟩
  | working => exact ⟨_, _, _, _, hstops (Or.inr (Or.inl e)) (by rw [LaneContext.cancelled, e])⟩
  | waiting => exact absurd e hstate.1
  | aborting => exact absurd e hstate.2

/-- A cancel of a lane of no open group whose record waits, where no actuator and no call keeps it: the record retires with its
owning block's values, its waiter is gone and the lane stops. -/
theorem laneCancel_waiting (hstate : (p.lane n).state = .waiting) (hnest : (p.lane n).nest = [])
    (hcur : (p.lane n).current = some held) (hu : p.Unwaited n) (hr : currentResult n .cancelled p = r) :
    ∃ d f g ov oc fs,
      laneCancel n cause p =
        { p with lanes := setAt p.lanes n (((p.lane n).retiredAt held.link).stopped cause),
                 waiters := p.waiters.filter (fun w => w.lane != n),
                 writes := p.writes ++ retireCells held r d f g p.now, forced := fs, openValues := ov, openCount := oc } ∧
      (∀ h, r.detail = some h → d = h) ∧ (∀ w, r.first = some w → f = w) ∧ (∀ w, r.second = some w → g = w) := by
  obtain ⟨d, f, g, ov, oc, fs, hretired, h1, h2, h3⟩ := retireCurrent_eq r hcur
  refine ⟨d, f, g, ov, oc, fs, ?_, h1, h2, h3⟩
  have hu' : (retireCurrent n r p).Unwaited n := by
    rw [hretired]
    exact ⟨hu.movers, hu.doors, hu.calls⟩
  have hend : endCurrent n .cancelled p = { retireCurrent n r p with
      waiters := (retireCurrent n r p).waiters.filter (fun w => w.lane != n) } := by
    rw [endCurrent, hr]
    exact forgetLane_waiters hu'
  have hnone : ((endCurrent n .cancelled p).lane n).nest.isEmpty = true := by
    rw [hend, hretired]
    simp [Part.lane, show (getAt p.lanes n).nest = [] from hnest]
  rw [laneCancel_running (Or.inr (Or.inr hstate)), if_pos hnone, hend, hretired]
  simp [Part.lane, stopLane, Part.setLane, LaneContext.stopped, LaneContext.retiredAt]

/-- A cancel of a lane with one open group at rest and no record in hand aborts the nest. -/
theorem laneCancel_nest {top : Level} (hstate : (p.lane n).state = .resting ∨ (p.lane n).state = .working)
    (hnest : (p.lane n).nest = [top]) (hcur : (p.lane n).current = none) (hw : p.waiters = []) (hu : p.Unwaited n)
    (hsteady : ∀ e, (p.claim e).inNest n = true → p.steady e = true) :
    laneCancel n cause p =
      (p.setLane n ((p.lane n).aborting (stopAbort .cancel (p.lane n).anchor.link cause none))).emit [.abortTest n] := by
  have hend : endCurrent n .cancelled p = p :=
    (endCurrent_none .cancelled hcur).trans (forgetLane_unwaited hu.movers hu.doors hu.calls hw)
  have hrunning : (p.lane n).state ≠ .aborting := by rcases hstate with e | e <;> simp [e]
  rw [laneCancel_running (hstate.imp_right Or.inl), hend, hnest]
  exact nestAbort_stops hnest (Or.inr rfl) hrunning hcur hw hu hsteady

/-! ### In ABORTING (R168) -/

/-- The abort record after a cancel in ABORTING. -/
def AbortRecord.cancelledBy (a : AbortRecord) (cause : LaneCause) : AbortRecord :=
  { a with
    furtherCause := true, returns := false,
    stopCause := if a.stopCause = some .cancelled ∨ a.stopCause = some .lanesDisabled ∨ a.stopCause = some .haltOrder then
      a.stopCause else some cause }

theorem fromCancel_iff (stop : Option LaneCause) : LaneCause.fromCancel stop = true ↔
    stop = some .cancelled ∨ stop = some .lanesDisabled ∨ stop = some .haltOrder := by
  cases stop with
  | none => decide
  | some c => cases c <;> decide

theorem laneCancel_aborting {a : AbortRecord} (hstate : (p.lane n).state = .aborting) (habort : (p.lane n).abort = some a)
    (hnest : (p.lane n).nest ≠ [])
    (hreturns : ∀ e, (p.claim e).inNest n = true → (p.claim e).status ≠ .underWay ∧ (p.claim e).status ≠ .pending) :
    laneCancel n cause p =
      if a.cause = .cancel then p
      else (p.setLane n { p.lane n with abort := some (a.cancelledBy cause) }).emit [.abortTest n] := by
  have hleft : (p.nestEntries n).filter (fun e => ((p.claim e).status == .underWay) || ((p.claim e).status == .pending)) =
      [] := by
    rw [List.filter_eq_nil_iff]
    intro e he
    obtain ⟨hunderWay, hpending⟩ := hreturns e (mem_nestEntries.1 he)
    simp [hunderWay, hpending]
  have hfurther : laneCancel n cause p = furtherCause n .cancel (some cause) p := by
    unfold laneCancel
    rw [hstate]
    dsimp only
    unfold nestAbort
    rw [List.getLast?_eq_some_getLast hnest]
    dsimp only
    rw [if_pos hstate]
  rw [hfurther]
  unfold furtherCause
  dsimp only
  rw [habort, hleft]
  dsimp only
  rw [if_pos rfl]
  by_cases hcancel : a.cause = .cancel
  · rw [if_pos hcancel, if_pos hcancel]
  · rw [if_neg hcancel, if_neg hcancel, forEach_nil, forEach_nil, AbortRecord.cancelledBy]
    simp only [fromCancel_iff]

end

end Sys2Proof.Machine
end

section
/-! CONTROL writes (R132, R151, R152, R168, R185): the bits, nINT, and the lanes that a cleared LANES_ENABLE cancels. -/

namespace Sys2Proof.Machine

/-! ### INT_EN and BRIDGE_LANES -/

/-- The part with the Control Port at `c`. -/
def Part.withPort (p : Part) (c : ControlPort) : Part := { p with port := c }

section
variable {s : State} {c : ControlPort} {n : Lane}

/-- An event that writes bits of CONTROL alone. -/
theorem ran_of_withPort {f : Part → Part} (h : s.Quiet) (hf : f s.part = s.part.withPort c)
    (hc : c.partState = s.part.port.partState) :
    s.Ran (runLocal f s) (s.part.withPort c) ∧ (runLocal f s).part.pendingSlots = s.part.pendingSlots ∧
      (runLocal f s).part.board.nIntLow = (c.intEn && decide (0 < s.part.pendingSlots.length)) := by
  have hdrain : drain s.mem Config.agendaBound (f s.part) = s.part.withPort c := by
    rw [hf]
    exact drain_done h.agenda
  obtain ⟨hsame, hnInt⟩ := runEvent_samePending (f := fun _ => f) hdrain h.agenda
    (metHolds_none fun n => h.noHold n (by simp)) fun e => by rw [Part.equalised, ← hc]; exact e
  exact ⟨ran_of_runLocal h hf h.agenda h.settled.1 rfl rfl hc, hsame.pendingSlots, hnInt⟩

theorem exec_intEn (h : s.Quiet) (on : Bool) :
    exec (.intEn on) s = .next (runLocal (fun p => p.withPort { p.port with intEn := on }) s) := by
  show Host.Outcome.next (unlessReset _ s) = _
  rw [unlessReset_quiet h]
  rfl

theorem exec_bridgeLanes (h : s.Quiet) (mask : BitVec 4) :
    exec (.bridgeLanes mask) s = .next (runLocal (fun p => p.withPort { p.port with bridgeLanes := mask }) s) := by
  show Host.Outcome.next (unlessReset _ s) = _
  rw [unlessReset_quiet h]
  rfl

/-! ### LANES_ENABLE -/

theorem exec_lanesEnable (h : s.part.port.inReset = false) (on : Bool) :
    exec (.lanesEnable on) s = .next (runLocal (writeLanesEnable on) s) := by
  show Host.Outcome.next (unlessReset _ s) = _
  unfold unlessReset
  rw [h]
  rfl

/-- The part with LANES_ENABLE clear. -/
def Part.lanesOff (p : Part) : Part := p.withPort { p.port with lanesEnable := false }

/-- The cancels that a cleared LANES_ENABLE asks for. -/
def disablingActs (l : List Lane) : List Act := l.map fun n => .laneCancel n .lanesDisabled

theorem writeLanesEnable_true (p : Part) : writeLanesEnable true p = p.withPort { p.port with lanesEnable := true } := by
  unfold writeLanesEnable
  simp [Part.withPort]

theorem writeLanesEnable_false {p : Part} (h : p.port.lanesEnable = true) :
    writeLanesEnable false p = p.lanesOff.emit (disablingActs (List.finRange 4)) := by
  unfold writeLanesEnable
  rw [h]
  rfl

/-! ### Lanes with no record in hand and no open group -/

/-- A lane that a cancel stops at once or leaves alone. -/
def LaneContext.free (c : LaneContext) : Prop :=
  c.nest = [] ∧ c.current = none ∧ c.state ≠ .waiting ∧ c.state ≠ .aborting

/-- The cancels of lanes with no record in hand and no open group change each of these lanes alone, and forget what waits for
them. -/
theorem disablingActs_free : ∀ (l : List Lane) {p : Part}, l.Nodup → p.agenda = [] → (∀ n ∈ l, (p.lane n).free) →
    ∃ movers doors calls waiters, p.Does (disablingActs l) l.length
      { p with lanes := tableOf 4 (fun n => if n ∈ l then (p.lane n).cancelled .lanesDisabled else p.lane n),
               movers := movers, doors := doors, calls := calls, waiters := waiters } [] := by
  intro l
  induction l with
  | nil =>
    intro p _ hp _
    have hlanes : tableOf 4 p.lane = p.lanes := table_ext fun n => getAt_tableOf 4 p.lane n
    refine ⟨p.movers, p.doors, p.calls, p.waiters, ?_⟩
    simp only [List.not_mem_nil, if_false, hlanes]
    exact Part.Does.idle (acts := []) hp (by simp)
  | cons x rest ih =>
    intro p hnodup hp hfree
    obtain ⟨hx, hrest⟩ := List.nodup_cons.1 hnodup
    obtain ⟨hnest, hcur, hstate⟩ := hfree x (by simp)
    obtain ⟨movers, doors, calls, waiters, hcancel⟩ := laneCancel_noRecord (cause := .lanesDisabled) hstate hnest hcur
    obtain ⟨q, hq⟩ : ∃ q, q = laneCancel x .lanesDisabled p := ⟨_, rfl⟩
    have hqlane : ∀ n, q.lane n = if x = n then (p.lane x).cancelled .lanesDisabled else p.lane n := fun n => by
      rw [hq, hcancel]
      exact getAt_setAt ..
    have hqa : q.agenda = [] := by
      rw [hq, hcancel]
      exact hp
    have hne : ∀ n ∈ rest, x ≠ n := fun n hn e => hx (e ▸ hn)
    obtain ⟨movers', doors', calls', waiters', hdoes⟩ := ih hrest hqa fun n hn => by
      rw [hqlane, if_neg (hne n hn)]
      exact hfree n (by simp [hn])
    have hlanes : tableOf 4 (fun n => if n ∈ rest then (q.lane n).cancelled .lanesDisabled else q.lane n) =
        tableOf 4 (fun n => if n ∈ x :: rest then (p.lane n).cancelled .lanesDisabled else p.lane n) := by
      refine table_ext fun n => ?_
      rw [getAt_tableOf, getAt_tableOf, hqlane]
      by_cases e : x = n
      · subst e
        simp [hx]
      · simp [e, Ne.symm e]
    have hone : p.Does [.laneCancel x .lanesDisabled] 1 q [] :=
      .one hp (by simp) fun _ => by rw [emit_nil, hq]; rfl
    refine ⟨movers', doors', calls', waiters', ?_⟩
    have hall := hone.append hdoes
    rw [hlanes, hq, hcancel] at hall
    rw [List.length_cons, Nat.add_comm]
    exact hall

theorem cancelled_waitKind {c : LaneContext} {cause : LaneCause} (h : c.waitKind ≠ some .hold) :
    (c.cancelled cause).waitKind ≠ some .hold := by
  unfold LaneContext.cancelled
  split <;> simp [LaneContext.stopped, h]

/-- LANES_ENABLE cleared with every lane free of a record and of a group: the running ones stop. -/
theorem lanesDisabled_free (h : s.Quiet) (hfree : ∀ n, (s.part.lane n).free) (hon : s.part.port.lanesEnable = true) :
    (runLocal (writeLanesEnable false) s).part.port.lanesEnable = false ∧
      ∀ n, (runLocal (writeLanesEnable false) s).part.lane n = (s.part.lane n).cancelled .lanesDisabled := by
  obtain ⟨movers, doors, calls, waiters, hdoes⟩ := disablingActs_free (List.finRange 4) (p := s.part.lanesOff)
    (List.nodup_finRange 4) h.agenda fun n _ => hfree n
  obtain ⟨q, hq⟩ : ∃ q : Part, q = { s.part.lanesOff with
      lanes := tableOf 4 (fun n => if n ∈ List.finRange 4 then (s.part.lanesOff.lane n).cancelled .lanesDisabled
        else s.part.lanesOff.lane n),
      movers := movers, doors := doors, calls := calls, waiters := waiters } := ⟨_, rfl⟩
  rw [← hq] at hdoes
  have hqa : q.agenda = [] := by
    rw [hq]
    exact h.agenda
  have hlane : ∀ n, q.lane n = (s.part.lane n).cancelled .lanesDisabled := fun n => by
    rw [hq]
    refine (getAt_tableOf 4 _ n).trans ?_
    rw [if_pos (List.mem_finRange n)]
    rfl
  have hdrain : drain s.mem Config.agendaBound (writeLanesEnable false s.part) = q := by
    rw [writeLanesEnable_false hon]
    exact hdoes.drain_eq hqa (by simp [Config.agendaBound]) _
  have hfollows := (runEvent_follows (f := fun _ => writeLanesEnable false) hdrain hqa
    (metHolds_none fun n => by rw [hlane]; exact cancelled_waitKind (h.noHold n (by simp)))).1
  refine ⟨?_, fun n => (hfollows.lane n).trans (hlane n)⟩
  refine (congrArg ControlPort.lanesEnable hfollows.port).trans ?_
  rw [hq]
  rfl

end

end Sys2Proof.Machine
end

section
/-! LANES_ENABLE cleared with one lane that waits, has an open group or is in ABORTING, alone among IDLE and STOPPED ones (R151,
R152, R168). -/

namespace Sys2Proof.Machine

section
variable {p r : Part} {n : Lane}

/-- Every lane but `n` is IDLE or STOPPED. -/
def Part.AloneRuns (p : Part) (n : Lane) : Prop := ∀ l, l ≠ n → (p.lane l).state = .idle ∨ (p.lane l).state = .stopped

/-- What follows an arbitration changes nothing, and there is nothing to arbitrate. -/
theorem drain_left_idle {left post : List Act} (hr : r.agenda = [])
    (hleft : left = [] ∨ (left = [.arbitrate] ∧ r.waiters = []))
    (hpost : ∀ m, ∀ a ∈ post, a ≠ .arbitrate ∧ perform m a r = r) (m : List Host.Cell) (b : Nat) :
    drain m (b + 2 + post.length) (r.emit (left ++ post)) = r := by
  rcases hleft with rfl | ⟨rfl, hw⟩
  · exact (Part.Does.idle hr hpost).drain_eq hr (by omega) m
  · cases post with
    | nil => exact drain_arbitrate_alone hr hw
    | cons a rest =>
      have hlast := drain_arbitrate_last (mm := m) (rest := rest) (b := b + 1 + (a :: rest).length) hr
        (hpost m a (by simp)).1
        fun x hx => (hpost m x (by simp [hx])).1
      rw [show b + 2 + (a :: rest).length = b + 1 + (a :: rest).length + 1 by omega, List.singleton_append, hlast,
        drain_idle hr (hpost m), drain_arbitrate_alone hr hw]

/-- The cancels that a cleared LANES_ENABLE asks for, where lane `n` alone runs, come to what the cancel of lane `n` comes to. -/
theorem disablingActs_alone {a : Nat} {left : List Act} (hp : p.agenda = []) (halone : p.AloneRuns n)
    (hdoes : p.Does [.laneCancel n .lanesDisabled] a r left) (ha : a ≤ 60000) (hr : r.agenda = [])
    (hlanes : ∀ l, l ≠ n → r.lane l = p.lane l) (hleft : left = [] ∨ (left = [.arbitrate] ∧ r.waiters = []))
    (m : List Host.Cell) : drain m Config.agendaBound (p.emit (disablingActs (List.finRange 4))) = r := by
  obtain ⟨pre, post, hsplit⟩ := List.append_of_mem (List.mem_finRange n)
  have hnot : n ∉ pre ++ post :=
    (List.nodup_cons.1 (List.nodup_middle.1 (hsplit ▸ List.nodup_finRange 4))).1
  have hlength : pre.length + (post.length + 1) = 4 := by
    have := congrArg List.length hsplit
    simpa using this.symm
  have hidle : ∀ (q : Part) (l : List Lane), (∀ x ∈ l, (q.lane x).state = .idle ∨ (q.lane x).state = .stopped) →
      ∀ m, ∀ x ∈ disablingActs l, x ≠ .arbitrate ∧ perform m x q = q := by
    intro q l hl m x hx
    obtain ⟨i, hi, rfl⟩ := List.mem_map.1 hx
    exact ⟨by simp, laneCancel_idle (hl i hi)⟩
  have hpre := hidle p pre fun x hx => halone x fun e => hnot (by simp [← e, hx])
  have hpost := hidle r post fun x hx => by
    have hne : x ≠ n := fun e => hnot (by simp [← e, hx])
    rw [hlanes x hne]
    exact halone x hne
  have hall := (Part.Does.idle hp hpre).append hdoes
  have hacts : disablingActs (List.finRange 4) =
      disablingActs pre ++ [.laneCancel n .lanesDisabled] ++ disablingActs post := by
    rw [hsplit]
    simp [disablingActs]
  have hpreLength : (disablingActs pre).length = pre.length := List.length_map ..
  have hpostLength : (disablingActs post).length = post.length := List.length_map ..
  obtain ⟨b, hb⟩ : ∃ b, Config.agendaBound = b + 2 + (disablingActs post).length + ((disablingActs pre).length + a) :=
    ⟨65536 - 2 - post.length - pre.length - a, by simp only [Config.agendaBound]; omega⟩
  rw [hacts, hb, hall, drain_left_idle hr hleft hpost]

end

section
variable {s : State} {n : Lane} {held : HeldRecord} {res : Result}

theorem drain_lanesOff (hon : s.part.port.lanesEnable = true) {r : Part}
    (h : drain s.mem Config.agendaBound (s.part.lanesOff.emit (disablingActs (List.finRange 4))) = r) :
    drain s.mem Config.agendaBound (writeLanesEnable false s.part) = r := by
  rw [writeLanesEnable_false hon]
  exact h

/-- A record that waits and that no actuator and no call keeps retires CANCELLED, its waiter goes and the lane stops. -/
theorem lanesDisabled_waiting (h : s.QuietBut (some n)) (hon : s.part.port.lanesEnable = true)
    (halone : s.part.AloneRuns n) (hstate : (s.part.lane n).state = .waiting) (hnest : (s.part.lane n).nest = [])
    (hcur : (s.part.lane n).current = some held) (hvalid : linkValid held.link = true) (hclean : held.clamped = false)
    (hu : s.part.Unwaited n) (hres : currentResult n .cancelled s.part.lanesOff = res) :
    s.Retires (runLocal (writeLanesEnable false) s) n held.link
      (if held.standing then readByte s.mem (slotBase held.link) else ownerRetired) res
      (Part.setLane n (((s.part.lane n).retiredAt held.link).stopped .lanesDisabled)
        { s.part.lanesOff with waiters := s.part.waiters.filter (fun w => w.lane != n) }) := by
  obtain ⟨d, f, g, ov, oc, fs, hcancel, h1, h2, h3⟩ := laneCancel_waiting (p := s.part.lanesOff) (cause := .lanesDisabled)
    hstate hnest hcur ⟨hu.movers, hu.doors, hu.calls⟩ hres
  obtain ⟨r, hr⟩ : ∃ r, r = laneCancel n .lanesDisabled s.part.lanesOff := ⟨_, rfl⟩
  have hra : r.agenda = [] := by
    rw [hr, hcancel]
    exact h.agenda
  have hother : ∀ l, l ≠ n → r.lane l = s.part.lane l := fun l hl => by
    rw [hr, hcancel]
    exact getAt_setAt_ne _ _ (Ne.symm hl)
  have hown : (r.lane n).waitKind = none := by
    rw [hr, hcancel]
    exact congrArg LaneContext.waitKind (getAt_setAt_same ..)
  have hdrain := drain_lanesOff hon (disablingActs_alone (p := s.part.lanesOff) (r := r) (left := []) h.agenda halone
    (.one h.agenda (by simp) fun _ => by rw [emit_nil, hr]; rfl) (by omega) hra hother (Or.inl rfl) s.mem)
  have hretires := event_retires (fn := fun _ => writeLanesEnable false) (at' := s.part.now) h.mem hvalid hdrain hra
    (metHolds_none fun l => by
      by_cases e : l = n
      · rw [e, hown]
        simp
      · rw [hother l e]
        exact h.noHold l fun e' => e (Option.some.inj e').symm)
    (by rw [hr, hcancel]; exact congrArg (· ++ _) h.settled.1) h1 h2 h3 hother (by rw [hr, hcancel]; rfl)
    (by rw [hr, hcancel]; rfl)
  rw [hclean] at hretires
  refine ⟨Part.Follows.trans ?_ hretires.follows, hretires.owner, hretires.result, hretires.keeps, hretires.queue,
    hretires.done⟩
  rw [hr, hcancel]
  exact ⟨rfl, rfl, rfl, rfl, rfl, rfl, rfl, rfl, rfl, rfl, rfl, rfl, rfl, rfl, rfl⟩

theorem currentResult_hold {p : Part} (hcur : (p.lane n).current = some held) (hwait : (p.lane n).waitKind = some .hold)
    (hkind : imageKind held.bytes = some .hold) : currentResult n .cancelled p =
      { code := .cancelled, flags := 0, detail := some ((holdCondition held.bytes).setWidth 16),
        first := some (word (p.lane n).holdMarks), second := p.holdWatched n held.bytes } := by
  have hbytes : p.currentBytes n = held.bytes := by rw [Part.currentBytes, hcur]
  unfold currentResult holdResult
  rw [hbytes]
  dsimp only
  rw [hkind, hwait]
  rfl

theorem currentResult_claim {p : Part} (hwait : (p.lane n).waitKind = some .claim) :
    currentResult n .cancelled p = Result.bare .cancelled := by
  unfold currentResult
  rw [hwait]
  rfl

/-- The nest of one level at rest aborts and the lane stops. -/
theorem lanesDisabled_nest {top : Level} {l : Half} (h : s.Quiet) (hon : s.part.port.lanesEnable = true)
    (halone : s.part.AloneRuns n) (hstate : (s.part.lane n).state = .resting ∨ (s.part.lane n).state = .working)
    (hcur : (s.part.lane n).current = none) (hnest : (s.part.lane n).nest = [top])
    (hanchor : (s.part.lane n).anchor = .record l) (hvalid : linkValid top.record.link = true)
    (hclean : top.record.clamped = false)
    (hdone : ∀ e, (s.part.claim e).inNest n = true → s.part.steady e = true ∧ (s.part.claim e).status ≠ .pending)
    (hw : s.part.waiters = []) (hu : s.part.Unwaited n) :
    s.Retires (runLocal (writeLanesEnable false) s) n top.record.link
      (if top.record.standing then readByte s.mem (slotBase top.record.link) else ownerRetired)
      (Result.of .aborted 8 1 (l.setWidth 32))
      (Part.setLane n ({ (s.part.lane n).retiredAt top.record.link with nest := [] }.stopped .lanesDisabled)
        { s.part.lanesOff with claims := mapAll (fun c => if c.inNest n then Claim.free else c) s.part.claims }) := by
  have hcancel : s.part.lanesOff.Does [.laneCancel n .lanesDisabled] 1
      (s.part.lanesOff.setLane n ((s.part.lane n).aborting (stopAbort .cancel l .lanesDisabled none))) [.abortTest n] :=
    .one h.agenda (by simp) fun _ => by
      have hnestCancel := laneCancel_nest (p := s.part.lanesOff) (cause := .lanesDisabled) hstate hnest hcur hw
        ⟨hu.movers, hu.doors, hu.calls⟩ fun e he => (hdone e he).1
      rw [show (s.part.lanesOff.lane n).anchor = .record l from hanchor] at hnestCancel
      exact hnestCancel
  have hretires := event_nestStops (fn := fun _ => writeLanesEnable false) (p := s.part.lanesOff)
    (a := stopAbort .cancel l .lanesDisabled none) h rfl rfl rfl h.agenda h.settled.1 hw hnest hvalid hclean rfl hdone
    fun r hdoes hra hrw hother =>
      drain_lanesOff hon (disablingActs_alone (p := s.part.lanesOff) h.agenda halone
        (hcancel.andThen hdoes) (by omega) hra hother (Or.inr ⟨rfl, hrw⟩) s.mem)
  rw [stopAbort_result] at hretires
  exact hretires

/-- In ABORTING the cancel is a further cause, or changes nothing; an abort with an actuator in motion goes on. -/
theorem lanesDisabled_aborting {a : AbortRecord} (h : s.Quiet) (hon : s.part.port.lanesEnable = true)
    (halone : s.part.AloneRuns n) (hstate : (s.part.lane n).state = .aborting) (habort : (s.part.lane n).abort = some a)
    (hnest : (s.part.lane n).nest ≠ []) (hmoving : ∃ e, (s.part.claim e).inNest n = true ∧ s.part.steady e = false)
    (hreturns : ∀ e, (s.part.claim e).inNest n = true →
      (s.part.claim e).status ≠ .underWay ∧ (s.part.claim e).status ≠ .pending) :
    s.Ran (runLocal (writeLanesEnable false) s) (s.part.lanesOff.setLane n
      (if a.cause = .cancel then s.part.lane n
       else { s.part.lane n with abort := some (a.cancelledBy .lanesDisabled) })) := by
  obtain ⟨c, hc⟩ : ∃ c, c = if a.cause = .cancel then s.part.lane n
      else { s.part.lane n with abort := some (a.cancelledBy .lanesDisabled) } := ⟨_, rfl⟩
  have hsame : c.waitKind = (s.part.lane n).waitKind ∧ c.state = (s.part.lane n).state ∧
      c.headerLink = (s.part.lane n).headerLink := by
    rw [hc]
    split <;> exact ⟨rfl, rfl, rfl⟩
  have hunderWay : (s.part.lanesOff.setLane n c).abortDone n = false := by
    rw [Bool.eq_false_iff]
    intro hdone
    obtain ⟨e, hclaim, hsteady⟩ := hmoving
    exact Bool.false_ne_true (hsteady.symm.trans (abortDone_iff.1 hdone e hclaim).1)
  have hcancel := laneCancel_aborting (p := s.part.lanesOff) (cause := .lanesDisabled) hstate habort hnest hreturns
  have htest : (s.part.lanesOff.setLane n c).Does [.abortTest n] 1 (s.part.lanesOff.setLane n c) [] :=
    .one h.agenda (by simp) fun _ => (abortTest_underWay hunderWay).trans (emit_nil _).symm
  have hdoes : ∃ k, k ≤ 60000 ∧ s.part.lanesOff.Does [.laneCancel n .lanesDisabled] k (s.part.lanesOff.setLane n c) [] := by
    by_cases e : a.cause = .cancel
    · refine ⟨1, by omega, .one h.agenda (by simp) fun _ => ?_⟩
      rw [emit_nil, hc, if_pos e]
      exact (hcancel.trans (if_pos e)).trans (Part.setLane_self s.part.lanesOff n).symm
    · refine ⟨1 + 1, by omega, Part.Does.andThen (.one h.agenda (by simp) fun _ => ?_) htest⟩
      rw [hc, if_neg e]
      exact hcancel.trans (if_neg e)
  obtain ⟨k, hk, hdoes⟩ := hdoes
  rw [← hc]
  refine ran_of_drain (f := fun _ => writeLanesEnable false) h
    (drain_lanesOff hon (disablingActs_alone (p := s.part.lanesOff) h.agenda halone hdoes hk h.agenda
      (fun l hl => Part.setLane_ne _ _ (Ne.symm hl)) (Or.inl rfl) s.mem)) h.agenda h.settled.1 (fun l => ?_) rfl rfl
  rw [Part.setLane_get]
  split
  · next e =>
    subst e
    exact hsame
  · exact ⟨rfl, rfl, rfl⟩

/-- LANES_ENABLE cleared ends the one lane that runs as a CANCEL does, with the cause LANES_DISABLED. -/
theorem lanesDisabled_cancelEnds (s : State) (n : Lane) (hon : s.part.port.lanesEnable = true)
    (halone : s.part.AloneRuns n) : cancelEnds (.lanesEnable false) .lanesDisabled s n s.part.lanesOff := by
  refine ⟨?_, ?_, ?_⟩
  · intro held h hstate hnest hcur hvalid hclean hu
    have hu' : s.part.Unwaited n := ⟨hu.movers, hu.doors, hu.calls⟩
    constructor
    · intro hwait hkind hwaiters
      have hkept : s.part.waiters.filter (fun w => w.lane != n) = s.part.waiters :=
        List.filter_eq_self.2 fun w hw => bne_iff_ne.2 (hwaiters w hw)
      refine ⟨_, exec_lanesEnable h.running false, ?_⟩
      have hheld := lanesDisabled_waiting h hon halone hstate hnest hcur hvalid hclean hu'
        (currentResult_hold hcur hwait hkind)
      rw [hkept] at hheld
      exact hheld
    · intro hwait
      exact ⟨_, exec_lanesEnable h.running false,
        lanesDisabled_waiting h hon halone hstate hnest hcur hvalid hclean hu' (currentResult_claim hwait)⟩
  · intro top l h hstate hcur _ hnest hanchor hvalid hclean hdone hw hu
    exact ⟨_, exec_lanesEnable h.running false, lanesDisabled_nest h hon halone hstate hcur hnest hanchor hvalid hclean hdone
      hw ⟨hu.movers, hu.doors, hu.calls⟩⟩
  · intro a h hstate habort hnest hmoving hreturns
    exact ⟨_, exec_lanesEnable h.running false,
      lanesDisabled_aborting h hon halone hstate habort hnest hmoving hreturns⟩

end

/-- Settles O8: the bits with nINT, LANES_ENABLE with lanes free of records and groups, and the one lane that ends as under a
CANCEL. -/
theorem controlWritesTakeEffect : Obligations.ControlWritesTakeEffect := by
  refine ⟨fun s on mask h hint => ⟨?_, ?_⟩, fun s h => ⟨?_, fun hfree hon => ?_⟩, lanesDisabled_cancelEnds⟩
  · obtain ⟨hran, hpending, hnInt⟩ := ran_of_withPort
      (f := fun p => p.withPort { p.port with intEn := on }) h rfl rfl
    refine ⟨_, exec_intEn h on, hran, hpending, hnInt.trans ?_⟩
    cases s.part.pendingSlots <;> rfl
  · obtain ⟨hran, -, hnInt⟩ := ran_of_withPort
      (f := fun p => p.withPort { p.port with bridgeLanes := mask }) h rfl rfl
    obtain ⟨hcount, -, hbefore⟩ := hint
    refine ⟨_, exec_bridgeLanes h mask, hran, hnInt.trans ?_⟩
    rw [hbefore, hcount]
  · exact ⟨_, exec_lanesEnable h.running true,
      (ran_of_withPort h (writeLanesEnable_true s.part) rfl).1⟩
  · obtain ⟨hoff, hlane⟩ := lanesDisabled_free h hfree hon
    exact ⟨_, exec_lanesEnable h.running false, hoff, rfl, hlane⟩

end Sys2Proof.Machine
end

section
/-! LINK_TAKE (R138, R125): a record that the host has placed. -/

namespace Sys2Proof.Machine

/-- Settles O40: the order's command places the record that is there already, which changes nothing, and takes it. -/
theorem linkTakeIsTheOrder : Obligations.LinkTakeIsTheOrder := by
  intro s c n link head k params hc h himage
  have hplaced : placed s link (orderImage head k params) = s.mem := by
    rw [placed, ← himage]
    exact placed_same h.quiet.mem
  refine ⟨_, exec_linkTake h.quiet, ?_⟩
  rw [exec_orderOf hc, orderCommand_runs h, runOrder_takes h]
  show Host.Outcome.next (runEvent (linkTake n) { s with mem := placed s link (orderImage head k params) }) = _
  rw [hplaced]

end Sys2Proof.Machine
end

section
/-! START (R137, R142). -/

namespace Sys2Proof.Machine

/-- The lane that START begins, before it follows its start link (R137). -/
def LaneContext.begun (bridge : Bool) (c : LaneContext) : LaneContext :=
  { c with bridge := bridge, cause := none, retired := 0, lastMark := 0, budget := 8, returnAnchor := none,
           anchor := .start, badLink := none }

section
variable {s : State} {n : Lane} {m : List Host.Cell} {p : Part}

theorem startable_iff : p.startable n = true ↔
    ((p.lane n).state = .idle ∨ (p.lane n).state = .stopped) ∧ p.port.lanesEnable = true ∧
      (p.port.partState = .planWait ∨ p.port.partState = .ready) := by
  simp only [Part.startable, Bool.and_eq_true, Bool.or_eq_true, beq_iff_eq, and_assoc]

theorem laneStart_begins (h : p.startable n = true) : laneStart n m p =
    p.setLane n (((p.lane n).begun (p.port.bridgeLanes.getLsbD n.val)).follows (startLink m n)) := by
  unfold laneStart
  rw [if_pos h, followLink_eq]
  simp [LaneContext.begun, LaneContext.follows]

theorem laneStart_resting (h : (p.lane n).state = .resting) :
    laneStart n m p = p.setLane n ((p.lane n).rereads n m) := by
  have hnot : ¬ p.startable n = true := by simp [startable_iff, h]
  unfold laneStart
  rw [if_neg hnot, if_pos h, reread_eq]

theorem laneStart_ignored (h : ¬ p.startable n = true) (hrest : (p.lane n).state ≠ .resting) :
    laneStart n m p = p.setLane n { p.lane n with cause := some .startIgnored } := by
  unfold laneStart
  rw [if_neg h, if_neg hrest]

theorem exec_start (h : s.Quiet) : exec (.start n) s = .next (runEvent (laneStart n) s) := by
  show Host.Outcome.next (unlessReset _ s) = _
  rw [unlessReset_quiet h]

/-- A START that sets lane `n`'s context alone. -/
theorem start_ranLane {c : LaneContext} (h : s.Quiet) (hstart : laneStart n s.mem s.part = s.part.setLane n c)
    (hc : c.waitKind = (s.part.lane n).waitKind) :
    ∃ t, exec (.start n) s = .next t ∧ s.RanLane t n (s.part.setLane n c) :=
  ⟨_, exec_start h, ranLane_of_setLane h hstart (by rw [hc]; exact h.noHold n (by simp))⟩

end

/-- Settles O9: a START that takes effect, one that is ignored, and one on a RESTING lane. -/
theorem startBeginsAtStartLink : Obligations.StartBeginsAtStartLink := by
  intro s n h
  refine ⟨fun hstate hon hpart => ?_, fun hcases => ?_, fun hrest => ?_⟩
  · exact start_ranLane h (laneStart_begins (startable_iff.2 ⟨hstate, hon, hpart⟩)) rfl
  · refine start_ranLane h (laneStart_ignored (fun hstart => ?_) ?_) rfl
    · obtain ⟨hstate, hon, hpart⟩ := startable_iff.1 hstart
      rcases hcases with e | e | e | ⟨-, e | e | e⟩ <;> simp [e] at hstate hon hpart
    · rcases hcases with e | e | e | ⟨e, -⟩ <;> simp [e]
  · exact start_ranLane h (laneStart_resting hrest) (rereads_waitKind ..)

end Sys2Proof.Machine
end

section
/-! CANCEL (R140, R151, R155, R164, R167, R168). -/

namespace Sys2Proof.Machine

section
variable {s : State} {n : Lane} {held : HeldRecord} {res : Result}

theorem exec_cancel (h : s.part.port.inReset = false) :
    exec (.cancel n) s = .next (runLocal (laneCancel n .cancelled) s) := by
  show Host.Outcome.next (unlessReset _ s) = _
  unfold unlessReset
  rw [h]
  rfl

/-- A retirement in the terms of a part with the same blocks. -/
theorem State.Retires.of_follows {t : State} {link : Half} {o : Byte} {p q : Part} (h : s.Retires t n link o res q)
    (hp : p.Follows q) : s.Retires t n link o res p :=
  ⟨hp.trans h.follows, h.owner, h.result, h.keeps, h.queue, h.done⟩

/-- An event whose own change retires lane `n`'s record `held` and lets another lane's context alone. -/
theorem runLocal_retires {f : Part → Part} {q : Part} {d : Half} {x y : Word} (h : s.QuietBut (some n))
    (hvalid : linkValid held.link = true) (hclean : held.clamped = false) (hf : f s.part = q) (hagenda : q.agenda = [])
    (hwait : (q.lane n).waitKind ≠ some .hold) (hwrites : q.writes = retireCells held res d x y s.part.now)
    (hdetail : ∀ v, res.detail = some v → d = v) (hfirst : ∀ v, res.first = some v → x = v)
    (hsecond : ∀ v, res.second = some v → y = v) (hother : ∀ l, l ≠ n → q.lane l = s.part.lane l)
    (hgeneration : q.generation = s.part.generation) (hport : q.port = s.part.port) :
    s.Retires (runLocal f s) n held.link
      (if held.standing then readByte s.mem (slotBase held.link) else ownerRetired) res q := by
  have hretires := event_retires (fn := fun _ => f) (n := n) (at' := s.part.now) h.mem hvalid
    (by rw [hf]; exact drain_done hagenda) hagenda
    (metHolds_none fun l => by
      by_cases e : l = n
      · rw [e]
        exact hwait
      · rw [hother l e]
        exact h.noHold l fun e' => e (Option.some.inj e').symm)
    hwrites hdetail hfirst hsecond hother hgeneration (by rw [hport])
  rw [hclean] at hretires
  exact hretires

/-- R140, R155: a record that waits and that no actuator and no call keeps retires CANCELLED, its waiter goes and the lane
stops. -/
theorem cancel_waiting (h : s.QuietBut (some n)) (hstate : (s.part.lane n).state = .waiting)
    (hnest : (s.part.lane n).nest = []) (hcur : (s.part.lane n).current = some held) (hvalid : linkValid held.link = true)
    (hclean : held.clamped = false) (hu : s.part.Unwaited n) (hres : currentResult n .cancelled s.part = res) :
    s.Retires (runLocal (laneCancel n .cancelled) s) n held.link
      (if held.standing then readByte s.mem (slotBase held.link) else ownerRetired) res
      (Part.setLane n (((s.part.lane n).retiredAt held.link).stopped .cancelled)
        { s.part with waiters := s.part.waiters.filter (fun w => w.lane != n) }) := by
  obtain ⟨d, f, g, ov, oc, fs, hcancel, h1, h2, h3⟩ := laneCancel_waiting (cause := .cancelled) hstate hnest hcur hu hres
  have hretires := runLocal_retires h hvalid hclean hcancel h.agenda
    (by simp [Part.lane, LaneContext.stopped]) (congrArg (· ++ _) h.settled.1) h1 h2 h3
    (fun l hl => getAt_setAt_ne _ _ (Ne.symm hl)) rfl rfl
  exact hretires.of_follows ⟨rfl, rfl, rfl, rfl, rfl, rfl, rfl, rfl, rfl, rfl, rfl, rfl, rfl, rfl, rfl⟩

/-- R164, R167: the nest of one level at rest aborts and the lane stops. -/
theorem cancel_nest {top : Level} {l : Half} (h : s.Quiet)
    (hstate : (s.part.lane n).state = .resting ∨ (s.part.lane n).state = .working)
    (hcur : (s.part.lane n).current = none) (hnest : (s.part.lane n).nest = [top])
    (hanchor : (s.part.lane n).anchor = .record l) (hvalid : linkValid top.record.link = true)
    (hclean : top.record.clamped = false)
    (hdone : ∀ e, (s.part.claim e).inNest n = true → s.part.steady e = true ∧ (s.part.claim e).status ≠ .pending)
    (hw : s.part.waiters = []) (hu : s.part.Unwaited n) :
    s.Retires (runLocal (laneCancel n .cancelled) s) n top.record.link
      (if top.record.standing then readByte s.mem (slotBase top.record.link) else ownerRetired)
      (Result.of .aborted 8 1 (l.setWidth 32))
      (Part.setLane n ({ (s.part.lane n).retiredAt top.record.link with nest := [] }.stopped .cancelled)
        { s.part with claims := mapAll (fun c => if c.inNest n then Claim.free else c) s.part.claims }) := by
  have hcancel := laneCancel_nest (cause := .cancelled) hstate hnest hcur hw hu fun e he => (hdone e he).1
  rw [hanchor] at hcancel
  have hretires := event_nestStops (fn := fun _ => laneCancel n .cancelled) (p := s.part)
    (a := stopAbort .cancel l .cancelled none) h rfl rfl rfl h.agenda h.settled.1 hw hnest hvalid hclean rfl hdone
    fun r hdoes hra hrw _ => by
      rw [hcancel, show Config.agendaBound = 65534 + 1 + 1 from rfl, ← List.append_nil [Act.abortTest n]]
      exact (hdoes _ _ _).trans (by rw [List.append_nil, drain_arbitrate_alone hra hrw])
  rw [stopAbort_result] at hretires
  exact hretires

/-- R168: in ABORTING a first cancel is a further cause and a second changes nothing; an abort with an actuator in motion goes
on. -/
theorem cancel_aborting {a : AbortRecord} (h : s.Quiet) (hstate : (s.part.lane n).state = .aborting)
    (habort : (s.part.lane n).abort = some a) (hnest : (s.part.lane n).nest ≠ [])
    (hmoving : ∃ e, (s.part.claim e).inNest n = true ∧ s.part.steady e = false)
    (hreturns : ∀ e, (s.part.claim e).inNest n = true →
      (s.part.claim e).status ≠ .underWay ∧ (s.part.claim e).status ≠ .pending) :
    s.Ran (runLocal (laneCancel n .cancelled) s) (s.part.setLane n
      (if a.cause = .cancel then s.part.lane n
       else { s.part.lane n with abort := some (a.cancelledBy .cancelled) })) := by
  have hcancel := laneCancel_aborting (cause := .cancelled) hstate habort hnest hreturns
  by_cases e : a.cause = .cancel
  · rw [if_pos e] at hcancel ⊢
    exact ran_of_runLocal h (hcancel.trans (Part.setLane_self s.part n).symm) h.agenda h.settled.1
      (congrArg Part.lanes (Part.setLane_self s.part n)) rfl rfl
  · rw [if_neg e] at hcancel ⊢
    have hunderWay : (s.part.setLane n { s.part.lane n with abort := some (a.cancelledBy .cancelled) }).abortDone n =
        false := by
      rw [Bool.eq_false_iff]
      intro hdone
      obtain ⟨i, hclaim, hsteady⟩ := hmoving
      exact Bool.false_ne_true (hsteady.symm.trans (abortDone_iff.1 hdone i hclaim).1)
    refine ran_of_drain (f := fun _ => laneCancel n .cancelled) h ?_ h.agenda h.settled.1 (fun l => ?_) rfl rfl
    · have htest : (s.part.setLane n { s.part.lane n with abort := some (a.cancelledBy .cancelled) }).Does [.abortTest n] 1
          (s.part.setLane n { s.part.lane n with abort := some (a.cancelledBy .cancelled) }) [] :=
        .one h.agenda (by simp) fun _ => (abortTest_underWay hunderWay).trans (emit_nil _).symm
      rw [hcancel]
      exact htest.drain_eq h.agenda (by simp [Config.agendaBound]) _
    · rw [Part.setLane_get]
      split
      · next e' =>
        subst e'
        exact ⟨rfl, rfl, rfl⟩
      · exact ⟨rfl, rfl, rfl⟩

theorem cancel_cancelEnds (s : State) (n : Lane) : cancelEnds (.cancel n) .cancelled s n s.part := by
  refine ⟨?_, ?_, ?_⟩
  · intro held h hstate hnest hcur hvalid hclean hu
    constructor
    · intro hwait hkind hwaiters
      have hkept : s.part.waiters.filter (fun w => w.lane != n) = s.part.waiters :=
        List.filter_eq_self.2 fun w hw => bne_iff_ne.2 (hwaiters w hw)
      have hheld := cancel_waiting h hstate hnest hcur hvalid hclean hu (currentResult_hold hcur hwait hkind)
      rw [hkept] at hheld
      exact ⟨_, exec_cancel h.running, hheld⟩
    · intro hwait
      exact ⟨_, exec_cancel h.running, cancel_waiting h hstate hnest hcur hvalid hclean hu (currentResult_claim hwait)⟩
  · intro top l h hstate hcur _ hnest hanchor hvalid hclean hdone hw hu
    exact ⟨_, exec_cancel h.running, cancel_nest h hstate hcur hnest hanchor hvalid hclean hdone hw hu⟩
  · intro a h hstate habort hnest hmoving hreturns
    exact ⟨_, exec_cancel h.running, cancel_aborting h hstate habort hnest hmoving hreturns⟩

/-! ### With no record in hand and no open group (R151) -/

/-- A cancel of a lane with no record in hand and no open group changes no other lane and none of these blocks. -/
theorem laneCancel_noGroup (hnest : (s.part.lane n).nest = []) (hcur : (s.part.lane n).current = none) :
    ∃ c movers doors calls waiters, laneCancel n .cancelled s.part =
        { s.part with lanes := setAt s.part.lanes n c, movers := movers, doors := doors, calls := calls,
                      waiters := waiters } ∧
      (c.waitKind = none ∨ c = s.part.lane n) ∧
      ((s.part.lane n).state ≠ .waiting ∧ (s.part.lane n).state ≠ .aborting →
        c = (s.part.lane n).cancelled .cancelled) := by
  by_cases hstate : (s.part.lane n).state ≠ .waiting ∧ (s.part.lane n).state ≠ .aborting
  · obtain ⟨movers, doors, calls, waiters, hcancel⟩ := laneCancel_noRecord (cause := .cancelled) hstate hnest hcur
    refine ⟨_, movers, doors, calls, waiters, hcancel, ?_, fun _ => rfl⟩
    unfold LaneContext.cancelled
    split
    · exact Or.inl rfl
    · exact Or.inl rfl
    all_goals exact Or.inr rfl
  · cases e : (s.part.lane n).state with
    | waiting =>
      have hempty : ((endCurrent n .cancelled s.part).lane n).nest.isEmpty = true := by
        rw [endCurrent_none .cancelled hcur]
        exact List.isEmpty_iff.2 hnest
      refine ⟨(s.part.lane n).stopped .cancelled, (forgetLane n s.part).movers, (forgetLane n s.part).doors,
        (forgetLane n s.part).calls, (forgetLane n s.part).waiters, ?_, Or.inl rfl, fun h => absurd rfl h.1⟩
      rw [laneCancel_running (Or.inr (Or.inr e)), if_pos hempty, endCurrent_none .cancelled hcur]
      rfl
    | aborting =>
      refine ⟨s.part.lane n, s.part.movers, s.part.doors, s.part.calls, s.part.waiters, ?_, Or.inr rfl,
        fun h => absurd rfl h.2⟩
      unfold laneCancel nestAbort
      rw [e]
      simp only [hnest, List.getLast?_nil]
      exact (Part.setLane_self s.part n).symm
    | idle => exact absurd (by simp [e]) hstate
    | resting => exact absurd (by simp [e]) hstate
    | working => exact absurd (by simp [e]) hstate
    | stopped => exact absurd (by simp [e]) hstate

end

/-- Settles O10: the records, the nests and the aborts that a CANCEL ends, and the lanes that it stops at once. -/
theorem cancelStopsLane : Obligations.CancelStopsLane := by
  refine ⟨cancel_cancelEnds, fun s n h hnest hcur => ?_⟩
  obtain ⟨c, movers, doors, calls, waiters, hcancel, hwait, hc⟩ := laneCancel_noGroup hnest hcur
  obtain ⟨q, hq⟩ : ∃ q, q = laneCancel n .cancelled s.part := ⟨_, rfl⟩
  rw [← hq] at hcancel
  have hagenda : q.agenda = [] := by rw [hcancel]; exact h.agenda
  have hown : q.lane n = c := by rw [hcancel]; exact getAt_setAt_same ..
  have hother : ∀ l, l ≠ n → q.lane l = s.part.lane l := fun l hl => by
    rw [hcancel]
    exact getAt_setAt_ne _ _ (Ne.symm hl)
  have hran : s.RanLane (runLocal (laneCancel n .cancelled) s) n q := by
    refine ranLane_of_drain h.mem (by rw [← hq]; exact drain_done hagenda) hagenda (metHolds_none fun l => ?_)
      (by rw [hcancel]; exact h.settled.1) hother (by rw [hcancel]) (by rw [hcancel])
    by_cases e : l = n
    · rw [e, hown]
      rcases hwait with hnone | hsame
      · simp [hnone]
      · rw [hsame]
        exact h.noHold n (by simp)
    · rw [hother l e]
      exact h.noHold l (by simp)
  refine ⟨_, exec_cancel h.running, hran.queue, hran.follows.time.trans (by rw [hcancel]),
    hran.follows.zones.trans (by rw [hcancel]), hran.follows.plan.trans (by rw [hcancel]),
    hran.follows.claims.trans (by rw [hcancel]), fun l hl => (hran.follows.lane l).trans (hother l hl),
    fun hrun => ?_, fun hstill => ?_, hran.keeps⟩
  · rw [hran.follows.lane, hown, hc (by rcases hrun with e | e <;> simp [e]), LaneContext.cancelled]
    rcases hrun with e | e <;> rw [e]
  · rw [hran.follows.lane, hown, hc (by rcases hstill with e | e <;> simp [e]), LaneContext.cancelled]
    rcases hstill with e | e <;> rw [e]

end Sys2Proof.Machine
end

section
/-! The ends of a HOLD and of a claim wait by time and by WAKE (R144, R146, R155). -/

namespace Sys2Proof.Machine

/-- The result of a HOLD that ends with its record `held` in hand (R144). -/
def holdShown (p : Part) (n : Lane) (bytes : List Byte) (code : ResultCode) : Result :=
  { code := code, flags := 0, detail := some ((holdCondition bytes).setWidth 16), first := some (word (p.lane n).holdMarks),
    second := p.holdWatched n bytes }

section
variable {s : State} {n : Lane} {held : HeldRecord} {code : ResultCode} {p : Part}

theorem currentBytes_held (hcur : (p.lane n).current = some held) : p.currentBytes n = held.bytes := by
  rw [Part.currentBytes, hcur]

theorem holdResult_held (hcur : (p.lane n).current = some held) (code : ResultCode) :
    holdResult n code p = holdShown p n held.bytes code := by
  rw [holdResult, currentBytes_held hcur]
  rfl

theorem laneWake_hold (hstate : (p.lane n).state = .waiting) (hwait : (p.lane n).waitKind = some .hold)
    (hcur : (p.lane n).current = some held) :
    laneWake n p = p.emit [.orderEnds n (holdShown p n held.bytes .signalled)] := by
  unfold laneWake
  rw [hstate, hwait]
  dsimp only
  rw [holdResult_held hcur]

theorem laneWake_claim (hstate : (p.lane n).state = .waiting) (hwait : (p.lane n).waitKind = some .claim)
    (hu : p.Unwaited n) :
    laneWake n p = Part.emit [.orderEnds n (Result.bare .signalled)]
      { p with waiters := p.waiters.filter (fun w => w.lane != n) } := by
  unfold laneWake
  rw [hstate, hwait]
  dsimp only
  rw [forgetLane_waiters hu]

/-- With no condition the time that runs out is the HOLD's end; with one it has expired (R144). -/
theorem holdExpiry_ends (hcur : (p.lane n).current = some held)
    (hcode : (holdCondition held.bytes = 0xFF ∧ code = .done) ∨ (holdCondition held.bytes ≠ 0xFF ∧ code = .expired)) :
    holdExpiry n p = p.emit [.orderEnds n (holdShown p n held.bytes code)] := by
  unfold holdExpiry
  dsimp only
  rw [currentBytes_held hcur, holdResult_held hcur]
  rcases hcode with ⟨h, rfl⟩ | ⟨h, rfl⟩
  · rw [if_pos h]
  · rw [if_neg h]

theorem exec_wake (h : s.part.port.inReset = false) : exec (.wake n) s = .next (runLocal (laneWake n) s) := by
  show Host.Outcome.next (unlessReset _ s) = _
  unfold unlessReset
  rw [h]
  rfl

theorem exec_holdExpiry (h : s.part.port.inReset = false) (hwait : (s.part.lane n).waitKind = some .hold)
    (htimer : (s.part.lane n).holdTimer = some 0) :
    exec (.holdExpiry n) s = .next (runLocal (holdExpiry n) s) := by
  have hdue : holdDue n s.part = true := by
    unfold holdDue
    rw [hwait, htimer]
    rfl
  show Host.Outcome.next (unlessReset _ s) = _
  unfold unlessReset
  rw [h]
  exact congrArg Host.Outcome.next (runWhen_due hdue)

/-- An event that ends the order that lane `n` holds, and may take its waiter: the record retires and the lane goes on by the class
of the result (R141). -/
theorem local_ends {f : Part → Part} {r : Result} {next : Half} {waiters : List Waiter} (h : s.QuietBut (some n))
    (hvalid : linkValid held.link = true) (hclean : held.clamped = false) (hcur : (s.part.lane n).current = some held)
    (hf : f s.part = Part.emit [.orderEnds n r] { s.part with waiters := waiters })
    (hnext : (r.code.failure = false ∧ next = held.next) ∨
      (r.code.failure = true ∧ held.alternate ≠ 0 ∧ next = held.alternate)) :
    s.Retires (runLocal f s) n held.link
      (if held.standing then readByte s.mem (slotBase held.link) else ownerRetired) r
      (Part.setLane n ((s.part.lane n).goesOn held.link next) { s.part with waiters := waiters }) := by
  have hretires := event_ends (fn := fun _ => f) h.mem hvalid hf h.agenda h.settled.1 (fun _ => rfl) rfl rfl
    (fun l hl => h.noHold l fun e => hl (Option.some.inj e).symm) hcur hnext
  rw [hclean] at hretires
  exact hretires

end

theorem State.QuietBut.weaken {s : State} {n : Option Lane} (h : s.Quiet) : s.QuietBut n :=
  ⟨h.running, h.agenda, h.settled, h.mem, fun l _ => h.noHold l (by simp)⟩

/-- Settles O25: a claim wait that is woken, a HOLD whose time runs out, and one that is woken. -/
theorem holdEndsByTimeOrWake : Obligations.HoldEndsByTimeOrWake := by
  refine ⟨?_, ?_⟩
  · intro s n held h hstate hwait hcur hvalid hclean halternate hu
    exact ⟨_, exec_wake h.running, local_ends (.weaken h) hvalid hclean hcur (laneWake_claim hstate hwait hu)
      (Or.inr ⟨failure_signalled, halternate, rfl⟩)⟩
  · intro s n held h hstate hwait hcur hvalid hclean halternate
    refine ⟨fun code next htimer hcase => ?_, ?_⟩
    · refine ⟨_, exec_holdExpiry h.running hwait htimer,
        local_ends (r := holdShown s.part n held.bytes code) h hvalid hclean hcur (holdExpiry_ends hcur ?_) ?_⟩
      · exact hcase.imp (fun ⟨hnone, hcode, _⟩ => ⟨hnone, hcode⟩) fun ⟨hsome, hcode, _⟩ => ⟨hsome, hcode⟩
      · rcases hcase with ⟨-, rfl, rfl⟩ | ⟨-, rfl, rfl⟩
        · exact Or.inl ⟨failure_done, rfl⟩
        · exact Or.inr ⟨failure_expired, halternate, rfl⟩
    · exact ⟨_, exec_wake h.running, local_ends (r := holdShown s.part n held.bytes .signalled) h hvalid hclean hcur
        (laneWake_hold hstate hwait hcur) (Or.inr ⟨failure_signalled, halternate, rfl⟩)⟩

end Sys2Proof.Machine
end

section
/-! The fields of an order's record and the ranges that the orders' rules give them (R125, R139, check 1). -/

namespace Sys2Proof.Machine

/-! ### Tests and the fields that they test -/

/-- The tests of a record are the ranges of these fields, in their order, besides reserved bytes that are zero. -/
inductive FieldTests : List (Nat × Bool) → List (Nat × Prop) → Prop
  | nil : FieldTests [] []
  | reserved (i : Nat) {tests : List (Nat × Bool)} {fields : List (Nat × Prop)} :
      FieldTests tests fields → FieldTests ((i, true) :: tests) fields
  | field (i : Nat) {b : Bool} {condition : Prop} {tests : List (Nat × Bool)} {fields : List (Nat × Prop)} :
      (b = true ↔ condition) → FieldTests tests fields → FieldTests ((i, b) :: tests) ((i, condition) :: fields)

theorem not_firstUnfit_nil {α : Type} {i : α} : ¬ firstUnfit [] i := by
  rintro ⟨before, condition, after, h, -, -⟩
  simp at h

theorem firstUnfit_cons {α : Type} {i j : α} {condition : Prop} {fields : List (α × Prop)} :
    firstUnfit ((j, condition) :: fields) i ↔ (¬ condition ∧ j = i) ∨ (condition ∧ firstUnfit fields i) := by
  constructor
  · rintro ⟨before, c, after, h, hc, hbefore⟩
    cases before with
    | nil =>
      obtain ⟨rfl, rfl⟩ := Prod.mk.inj (List.cons.inj h).1
      exact Or.inl ⟨hc, rfl⟩
    | cons x rest =>
      obtain ⟨rfl, rfl⟩ := List.cons.inj h
      exact Or.inr ⟨hbefore (j, condition) (by simp), rest, c, after, rfl, hc, fun f hf => hbefore f (by simp [hf])⟩
  · rintro (⟨hc, rfl⟩ | ⟨hc, before, c, after, rfl, hunfit, hbefore⟩)
    · exact ⟨[], condition, fields, rfl, hc, by simp⟩
    · refine ⟨(j, condition) :: before, c, after, rfl, hunfit, fun f hf => ?_⟩
      rcases List.mem_cons.1 hf with rfl | hf
      · exact hc
      · exact hbefore f hf

namespace FieldTests

variable {tests tests' : List (Nat × Bool)} {fields fields' : List (Nat × Prop)}

theorem append (h : FieldTests tests fields) (h' : FieldTests tests' fields') :
    FieldTests (tests ++ tests') (fields ++ fields') := by
  induction h with
  | nil => exact h'
  | reserved i _ ih => exact .reserved i ih
  | field i hb _ ih => exact .field i hb ih

theorem all_pass (h : FieldTests tests fields) : (∀ c ∈ tests, c.2 = true) ↔ ∀ f ∈ fields, f.2 := by
  induction h with
  | nil => simp
  | reserved i _ ih => simpa using ih
  | field i hb _ ih => rw [List.forall_mem_cons, List.forall_mem_cons, ih, hb]

/-- The first test that fails is that of the first field out of its range. -/
theorem first_fails (h : FieldTests tests fields) (i : Nat) :
    (tests.find? (fun c => !c.2)).map (fun c => c.1) = some i ↔ firstUnfit fields i := by
  induction h with
  | nil => simp [not_firstUnfit_nil]
  | reserved j _ ih => simpa using ih
  | @field j b condition _ _ hb _ ih =>
    rw [firstUnfit_cons, ← hb, ← ih]
    cases b <;> simp

theorem none_fails (h : FieldTests tests fields) :
    (tests.find? (fun c => !c.2)).map (fun c => c.1) = none ↔ ∀ f ∈ fields, f.2 := by
  rw [← h.all_pass, Option.map_eq_none_iff, List.find?_eq_none]
  simp

end FieldTests

/-! ### The parameters as they stand in the record (R125) -/

section
variable (head : OrderHead) (p : Part)

theorem holdImage_fields (duration : Half) (condition index state : Byte) :
    holdDuration (orderImage head .hold (holdParams duration condition index state)) = duration.toNat ∧
      holdCondition (orderImage head .hold (holdParams duration condition index state)) = condition ∧
      holdIndex (orderImage head .hold (holdParams duration condition index state)) = index.toNat ∧
      holdState (orderImage head .hold (holdParams duration condition index state)) = state.toNat :=
  ⟨congrArg BitVec.toNat (halfAt_halfBytes duration []), rfl, rfl, rfl⟩

theorem moveImage_valueField (mover mode share : Byte) (value : Word) :
    moveValue (orderImage head .move (moveParams mover mode share value)) = value.toInt :=
  congrArg BitVec.toInt (wordAt_wordBytes value [])

theorem callImage_linesField (priority message : Byte) (lines : Half) (repeats policy chime : Byte) :
    callLines (orderImage head .call (callParams priority message lines repeats policy chime)) = lines :=
  halfAt_halfBytes lines []

/-! ### The tests of each kind's operands (R16 to R22, R29, R36, R49, R53, R72, R73, R76, R79, R85, R99, R144, R147, R158, R178) -/

theorem reservedFrom (i : Nat) {k : OrderKind} {params : List Byte} (hi : 12 + params.length ≤ i) (h36 : i ≤ 36) :
    FieldTests [restZero (orderImage head k params) i] [] := by
  rw [restZero_orderImage head k hi h36]
  exact .reserved i .nil

theorem indexTests (k : OrderKind) (b : Byte) (bound : Nat) :
    FieldTests [(12, decide (paramIndex (orderImage head k [b]) < bound)), restZero (orderImage head k [b]) 13]
      [(12, b.toNat < bound)] :=
  .field 12 (decide_eq_true_iff ..) (reservedFrom head 13 (by simp) (by omega))

theorem halfTests (k : OrderKind) (h : Half) {test : Bool} {condition : Prop} (htest : test = true ↔ condition) :
    FieldTests [(12, test), restZero (orderImage head k (halfBytes h)) 14] [(12, condition)] :=
  .field 12 htest (reservedFrom head 14 (by simp [halfBytes]) (by omega))

theorem holdIndexOk_iff (duration : Half) (condition index state : Byte) :
    holdIndexOk (orderImage head .hold (holdParams duration condition index state)) = true ↔
      index.toNat < (if condition = 0 then 12 else if condition = 1 then 8 else if condition = 2 then 24 else 1) := by
  unfold holdIndexOk
  obtain ⟨-, hcondition, hindex, -⟩ := holdImage_fields head duration condition index state
  rw [hcondition, hindex]
  by_cases h0 : condition = 0
  · simp [h0]
  by_cases h1 : condition = 1
  · simp [h1]
  by_cases h2 : condition = 2
  · simp [h2]
  have hne : condition.toNat ≠ 0 ∧ condition.toNat ≠ 1 ∧ condition.toNat ≠ 2 := by
    refine ⟨fun e => h0 ?_, fun e => h1 ?_, fun e => h2 ?_⟩ <;> exact BitVec.eq_of_toNat_eq e
  obtain ⟨n0, n1, n2⟩ := hne
  rw [if_neg h0, if_neg h1, if_neg h2]
  split <;> simp_all

theorem holdStateOk_iff (duration : Half) (condition index state : Byte) :
    holdStateOk (orderImage head .hold (holdParams duration condition index state)) = true ↔
      state.toNat < (if condition = 0 then 4 else if condition = 2 then 2 else 1) := by
  unfold holdStateOk
  obtain ⟨-, hcondition, -, hstate⟩ := holdImage_fields head duration condition index state
  rw [hcondition, hstate]
  by_cases h0 : condition = 0
  · simp [h0]
  by_cases h2 : condition = 2
  · simp [h2]
  have hne : condition.toNat ≠ 0 ∧ condition.toNat ≠ 2 := by
    refine ⟨fun e => h0 ?_, fun e => h2 ?_⟩ <;> exact BitVec.eq_of_toNat_eq e
  obtain ⟨n0, n2⟩ := hne
  rw [if_neg h0, if_neg h2]
  split <;> simp_all

theorem mem_setEntries {cs : Word} {e : EntryId} : e ∈ setEntries cs ↔ cs.getLsbD e.val = true := by
  simp [setEntries, inSet]

theorem groupSetOk_iff (cs : Word) : p.groupSetOk cs = true ↔ ∀ m : MoverId, cs.getLsbD m.val = true →
    p.leader m = m ∨ ∀ e : EntryId, cs.getLsbD e.val = true → e.val = m.val ∨ e.val = (p.leader m).val := by
  have hentry : ∀ m : MoverId, actuatorOf (moverEntry m) = .mover m := fun m => dif_pos m.isLt
  unfold Part.groupSetOk
  rw [List.all_eq_true]
  constructor
  · intro h m hm
    have hok := h (moverEntry m) (mem_setEntries.2 hm)
    rw [hentry] at hok
    simp only [Bool.or_eq_true, beq_iff_eq, List.all_eq_true, mem_setEntries] at hok
    exact hok.imp_right fun hset e he => (hset e he).imp (congrArg Fin.val) (congrArg Fin.val)
  · intro h e he
    have hin := mem_setEntries.1 he
    by_cases h8 : e.val < 8
    · have heq : e = moverEntry ⟨e.val, h8⟩ := rfl
      rw [heq, hentry]
      simp only [Bool.or_eq_true, beq_iff_eq, List.all_eq_true, mem_setEntries]
      exact (h ⟨e.val, h8⟩ hin).imp_right fun hset i hi => (hset i hi).imp Fin.ext Fin.ext
    · rw [actuatorOf, dif_neg h8]

theorem moveValueOk_iff (mover mode share : Byte) (value : Word) :
    moveValueOk (orderImage head .move (moveParams mover mode share value)) = true ↔
      if mode = 0 then 0 ≤ value.toInt ∧ value.toInt ≤ 65535
      else if mode = 1 then -65535 ≤ value.toInt ∧ value.toInt ≤ 65535
      else 1 ≤ value.toInt ∧ value.toInt ≤ 8 := by
  have hmode : moveMode (orderImage head .move (moveParams mover mode share value)) = mode.toNat := rfl
  unfold moveValueOk
  rw [hmode, moveImage_valueField]
  by_cases h0 : mode = 0
  · simp [h0]
  by_cases h1 : mode = 1
  · simp [h1]
  have n0 : mode.toNat ≠ 0 := fun e => h0 (BitVec.eq_of_toNat_eq e)
  have n1 : mode.toNat ≠ 1 := fun e => h1 (BitVec.eq_of_toNat_eq e)
  rw [if_neg h0, if_neg h1]
  split
  · next e => exact absurd e n0
  · next e => exact absurd e n1
  · exact decide_eq_true_iff

theorem holdTests (duration : Half) (condition index state : Byte) :
    FieldTests (p.paramChecks (orderImage head .hold (holdParams duration condition index state)) .hold)
      [(14, condition.toNat ≤ 3 ∨ condition = 0xFF),
       (15, index.toNat < (if condition = 0 then 12 else if condition = 1 then 8 else if condition = 2 then 24 else 1)),
       (16, state.toNat < (if condition = 0 then 4 else if condition = 2 then 2 else 1))] := by
  obtain ⟨-, hcondition, -, -⟩ := holdImage_fields head duration condition index state
  refine .field 14 ?_ (.field 15 (holdIndexOk_iff head ..) (.field 16 (holdStateOk_iff head ..)
    (reservedFrom head 17 (by simp [holdParams, halfBytes]) (by omega))))
  rw [hcondition, Bool.or_eq_true, decide_eq_true_iff, beq_iff_eq]

theorem groupTests (mode : Byte) (cs : Word) :
    FieldTests (p.paramChecks (orderImage head .groupOpen (groupParams mode cs)) .groupOpen)
      [(12, mode.toNat ≤ 1), (16, ∀ m : MoverId, cs.getLsbD m.val = true →
        p.leader m = m ∨ ∀ e : EntryId, cs.getLsbD e.val = true → e.val = m.val ∨ e.val = (p.leader m).val)] := by
  refine .field 12 decide_eq_true_iff (.reserved 13 (.field 16 ?_
    (reservedFrom head 20 (by simp [groupParams, wordBytes]) (by omega))))
  rw [(groupImage_fields head mode cs).1]
  exact groupSetOk_iff p cs

theorem moveTests (mover mode share : Byte) (value : Word) :
    FieldTests (p.paramChecks (orderImage head .move (moveParams mover mode share value)) .move)
      [(12, mover.toNat < 8), (13, mode.toNat ≤ 2), (14, share.toNat ≤ 100),
       (16, if mode = 0 then 0 ≤ value.toInt ∧ value.toInt ≤ 65535
            else if mode = 1 then -65535 ≤ value.toInt ∧ value.toInt ≤ 65535
            else 1 ≤ value.toInt ∧ value.toInt ≤ 8)] :=
  .field 12 decide_eq_true_iff (.field 13 decide_eq_true_iff (.field 14 decide_eq_true_iff (.reserved 15
    (.field 16 (moveValueOk_iff head ..) (reservedFrom head 20 (by simp [moveParams, wordBytes]) (by omega))))))

theorem callTests (priority message : Byte) (lines : Half) (repeats policy chime : Byte) :
    FieldTests (p.paramChecks (orderImage head .call (callParams priority message lines repeats policy chime)) .call)
      [(12, priority.toNat ≤ 2), (13, message ≠ 0), (14, lines ≠ 0), (16, 1 ≤ repeats.toNat ∧ repeats.toNat ≤ 15),
       (17, policy.toNat ≤ 1), (18, chime.toNat ≤ 8)] := by
  refine .field 12 decide_eq_true_iff (.field 13 bne_iff_ne (.field 14 ?_ (.field 16 decide_eq_true_iff
    (.field 17 decide_eq_true_iff (.field 18 decide_eq_true_iff
      (reservedFrom head 19 (by simp [callParams, halfBytes]) (by omega)))))))
  rw [callImage_linesField]
  exact bne_iff_ne

end

/-- The tests of an order's parameters are the ranges of its operands. -/
theorem paramChecks_operandFields {c : Instr} {n : Lane} {head : OrderHead} {k : OrderKind} {params : List Byte}
    (h : orderOf c = some (n, head, k, params)) (p : Part) :
    FieldTests (p.paramChecks (orderImage head k params) k) (operandFields p c) := by
  have hpair : ∀ {n' : Lane} {head' : OrderHead} {k' : OrderKind} {params' : List Byte},
      some (n', head', k', params') = some (n, head, k, params) → head' = head ∧ k' = k ∧ params' = params := by
    intro n' head' k' params' e
    cases e
    exact ⟨rfl, rfl, rfl⟩
  cases c with
  | hold n' h' duration condition index state =>
    obtain ⟨rfl, rfl, rfl⟩ := hpair h
    exact holdTests _ p duration condition index state
  | groupOpen n' h' mode cs =>
    obtain ⟨rfl, rfl, rfl⟩ := hpair h
    exact groupTests _ p mode cs
  | move n' h' mover mode share value =>
    obtain ⟨rfl, rfl, rfl⟩ := hpair h
    exact moveTests _ p mover mode share value
  | call n' h' priority message lines repeats policy chime =>
    obtain ⟨rfl, rfl, rfl⟩ := hpair h
    exact callTests _ p priority message lines repeats policy chime
  | detour n' h' target =>
    obtain ⟨rfl, rfl, rfl⟩ := hpair h
    exact halfTests _ _ _ (by rw [paramHalf_orderImage]; exact bne_iff_ne)
  | cancelCall n' h' callId =>
    obtain ⟨rfl, rfl, rfl⟩ := hpair h
    exact halfTests _ _ _ (by rw [paramHalf_orderImage]; exact decide_eq_true_iff)
  | adoptPlan n' h' link =>
    obtain ⟨rfl, rfl, rfl⟩ := hpair h
    exact halfTests _ _ _ (by rw [paramHalf_orderImage]; exact decide_eq_true_iff)
  | mark n' h' code =>
    obtain ⟨rfl, rfl, rfl⟩ := hpair h
    exact reservedFrom _ 14 (by simp [halfBytes]) (by omega)
  | abortGroup n' h' code =>
    obtain ⟨rfl, rfl, rfl⟩ := hpair h
    exact reservedFrom _ 13 (by simp) (by omega)
  | setClock n' h' seconds =>
    obtain ⟨rfl, rfl, rfl⟩ := hpair h
    exact reservedFrom _ 16 (by simp [wordBytes]) (by omega)
  | ret | haltLane | groupClose =>
    obtain ⟨rfl, rfl, rfl⟩ := hpair h
    exact reservedFrom _ 12 (by simp) (by omega)
  | setLoading | setSecure | shutZone | reopenZone | disableDetection | enableDetection | resetAlarm | stopMover | floatRamp
  | clearMoverFault | closeDoor | openDoor | forceClose | clearDoorFault =>
    obtain ⟨rfl, rfl, rfl⟩ := hpair h
    exact indexTests _ _ _ _
  | _ => cases h

/-- The reserved bytes at the end of an order's record are zero (Table 6-3). -/
theorem tailZeros_orderImage (head : OrderHead) (k : OrderKind) {params : List Byte} (hl : params.length ≤ 24) :
    zeros (orderImage head k params) 36 6 = true := by
  refine zeros_true fun j hj => ?_
  unfold orderImage byteAt
  rw [List.getD_append_right _ _ _ _ (by simp [padParams, halfBytes]; omega)]
  exact List.getElem?_getD_replicate_default_eq ..

/-- The tests of an order's record are the ranges of its head's fields and of its operands (Table 6-3). -/
theorem recordChecks_orderFields {c : Instr} {n : Lane} {head : OrderHead} {k : OrderKind} {params : List Byte}
    (h : orderOf c = some (n, head, k, params)) (p : Part) :
    FieldTests (p.recordChecks (orderImage head k params)) (orderFields p head c) := by
  have hzone : ((head.expectMask == 0) || decide (head.expectZone.toNat ≤ 11)) = true ↔
      head.expectMask = 0 ∨ head.expectZone.toNat ≤ 11 := by
    rw [Bool.or_eq_true, beq_iff_eq, decide_eq_true_iff]
  have hhead : FieldTests
      [(2, decide (head.flags.toNat < 4)), (3, true), (8, (head.expectMask == 0) || decide (head.expectZone.toNat ≤ 11)),
        (9, decide (head.expectMask.toNat < 16)), (10, true)]
      [(2, head.flags.toNat < 4), (8, head.expectMask = 0 ∨ head.expectZone.toNat ≤ 11), (9, head.expectMask.toNat < 16)] :=
    .field 2 decide_eq_true_iff (.reserved 3 (.field 8 hzone (.field 9 decide_eq_true_iff (.reserved 10 .nil))))
  have hall := (hhead.append (paramChecks_operandFields h p)).append (.reserved 58 .nil)
  rw [List.append_nil] at hall
  unfold Part.recordChecks
  rw [imageKind_orderImage]
  dsimp only
  rw [tailZeros_orderImage head k (orderOf_length h)]
  exact hall

/-- R139: the record of an order has no field out of range where its head and its operands are in theirs, and the offending field
is the first that is not. -/
theorem badField_orderFields {c : Instr} {n : Lane} {head : OrderHead} {k : OrderKind} {params : List Byte}
    (h : orderOf c = some (n, head, k, params)) (p : Part) :
    (p.badField (orderImage head k params) = none ↔ ∀ f ∈ orderFields p head c, f.2) ∧
      ∀ i, p.badField (orderImage head k params) = some i ↔ firstUnfit (orderFields p head c) i :=
  ⟨(recordChecks_orderFields h p).none_fails, (recordChecks_orderFields h p).first_fails⟩

end Sys2Proof.Machine
end

section
/-! What exchange memory and the board show of a record that retires in the event that took it, and of its lane (R124, R126, R127,
R141). -/

namespace Sys2Proof.Machine

/-! ### The lanes' fields of the header (R124) -/

/-- The cells that an event writes for lane `n`'s fields of the header. -/
def headerUpdate (pre p : Part) (n : Lane) : List Host.Cell :=
  (if (pre.lane n).headerLink = (p.lane n).headerLink then []
   else cellsFrom (18 + 8 * n.val) (halfBytes (p.lane n).headerLink)) ++
    (if (pre.lane n).state = (p.lane n).state then []
     else cellsFrom (20 + 8 * n.val) [BitVec.ofNat 8 (p.lane n).state.num])

/-- The cells that an event writes for the generation. -/
def generationUpdate (pre p : Part) : List Host.Cell :=
  if pre.generation = p.generation then [] else cellsFrom 4 (halfBytes (p.generation.setWidth 16))

/-- The cells that an event writes to the header. -/
def headerUpdates (pre p : Part) : List Host.Cell :=
  (List.finRange 4).flatMap (headerUpdate pre p) ++ generationUpdate pre p

/-- The part with more writes asked for. -/
def Part.addWrites (p : Part) (cells : List Host.Cell) : Part := { p with writes := p.writes ++ cells }

theorem whenTrue_addWrites {b : Bool} {f : Part → Part} {p : Part} {cells : List Host.Cell} {condition : Prop}
    [Decidable condition] (hb : b = !decide condition) (hf : f p = p.addWrites cells) :
    whenTrue b f p = p.addWrites (if condition then [] else cells) := by
  by_cases h : condition
  · simp [hb, h, Part.addWrites]
  · simp [hb, h, hf]

theorem addWrites_addWrites (p : Part) (a b : List Host.Cell) : (p.addWrites a).addWrites b = p.addWrites (a ++ b) := by
  simp [Part.addWrites]

theorem writeLaneHeader_addWrites (pre p : Part) (n : Lane) (cells : List Host.Cell) :
    whenTrue ((pre.lane n).state != ((p.addWrites cells).lane n).state) (writeLaneState n)
      (whenTrue ((pre.lane n).headerLink != ((p.addWrites cells).lane n).headerLink) (writeLaneLink n)
        (p.addWrites cells)) = p.addWrites (cells ++ headerUpdate pre p n) := by
  have hlink : whenTrue ((pre.lane n).headerLink != ((p.addWrites cells).lane n).headerLink) (writeLaneLink n)
      (p.addWrites cells) = _ :=
    whenTrue_addWrites (condition := (pre.lane n).headerLink = (p.lane n).headerLink)
      (cells := cellsFrom (18 + 8 * n.val) (halfBytes (p.lane n).headerLink)) (by rfl) rfl
  rw [hlink, addWrites_addWrites]
  have hstate := whenTrue_addWrites (condition := (pre.lane n).state = (p.lane n).state) (f := writeLaneState n)
    (b := (pre.lane n).state != ((p.addWrites cells).lane n).state)
    (p := p.addWrites (cells ++ if (pre.lane n).headerLink = (p.lane n).headerLink then []
      else cellsFrom (18 + 8 * n.val) (halfBytes (p.lane n).headerLink)))
    (cells := cellsFrom (20 + 8 * n.val) [BitVec.ofNat 8 (p.lane n).state.num]) (by rfl) rfl
  rw [hstate, addWrites_addWrites, headerUpdate, List.append_assoc]

theorem writeLaneHeaders_addWrites (pre p : Part) : ∀ (l : List Lane) (cells : List Host.Cell),
    forEach l (fun n q => whenTrue ((pre.lane n).state != (q.lane n).state) (writeLaneState n)
        (whenTrue ((pre.lane n).headerLink != (q.lane n).headerLink) (writeLaneLink n) q)) (p.addWrites cells) =
      p.addWrites (cells ++ l.flatMap (headerUpdate pre p)) := by
  intro l
  induction l with
  | nil => simp
  | cons n rest ih =>
    intro cells
    rw [forEach_cons, writeLaneHeader_addWrites, ih, List.flatMap_cons, List.append_assoc]

theorem updateHeader_addWrites (pre p : Part) : updateHeader pre p = p.addWrites (headerUpdates pre p) := by
  have hlanes := writeLaneHeaders_addWrites pre p (List.finRange 4) []
  have hstart : p.addWrites [] = p := by simp [Part.addWrites]
  rw [hstart, List.nil_append] at hlanes
  unfold updateHeader
  dsimp only
  rw [hlanes]
  have hgeneration := whenTrue_addWrites (condition := pre.generation = p.generation) (f := writeGeneration)
    (b := pre.generation != p.generation) (p := p.addWrites ((List.finRange 4).flatMap (headerUpdate pre p)))
    (cells := cellsFrom 4 (halfBytes (p.generation.setWidth 16))) (by rfl) rfl
  rw [hgeneration, addWrites_addWrites]
  rfl

/-- What an event that comes to rest at `q` on an equalised board writes: what its micro-operations have asked for, then the
header. -/
theorem runEvent_writes {f : List Host.Cell → Part → Part} {s : State} {q : Part}
    (hd : drain s.mem Config.agendaBound (f s.mem s.part) = q) (hq : q.agenda = []) (hh : q.metHolds = [])
    (he : q.equalised = true) (he' : s.part.equalised = true) :
    (runEvent f s).mem = writeCells s.mem (q.writes ++ headerUpdates s.part q) := by
  have hclose : (closeEvent s.mem s.part q).writes = q.writes ++ headerUpdates s.part q := by
    unfold closeEvent
    simp only [he, he', if_true]
    rw [handOverAll_eq, updateHeader_addWrites]
    rfl
  show writeCells s.mem (eventPart f s.mem s.part).writes = _
  rw [eventPart_of_drain hd hq hh, hclose]

theorem headerUpdate_address {pre p : Part} {n : Lane} {c : Host.Cell} (h : c ∈ headerUpdate pre p n) :
    18 + 8 * n.val ≤ c.1 ∧ c.1 ≤ 20 + 8 * n.val := by
  refine laneHeaderCells_address (p := p) ?_
  unfold headerUpdate at h
  unfold laneHeaderCells
  rcases List.mem_append.1 h with h | h <;> split at h
  · simp at h
  · exact List.mem_append_left _ h
  · simp at h
  · exact List.mem_append_right _ h

/-- Where the header showed the lane's fields before the event, its own update has it show them after. -/
theorem headerUpdate_shows {m : List Host.Cell} {pre p : Part} {n : Lane} (hm : Memory.wf m = true)
    (hlink : readHalf m (18 + 8 * n.val) = (pre.lane n).headerLink)
    (hstate : readByte m (20 + 8 * n.val) = BitVec.ofNat 8 (pre.lane n).state.num) :
    readHalf (writeCells m (headerUpdate pre p n)) (18 + 8 * n.val) = (p.lane n).headerLink ∧
      readByte (writeCells m (headerUpdate pre p n)) (20 + 8 * n.val) = BitVec.ofNat 8 (p.lane n).state.num := by
  have hn := n.isLt
  obtain ⟨m', hm'⟩ : ∃ m', m' = writeCells m (if (pre.lane n).headerLink = (p.lane n).headerLink then []
      else cellsFrom (18 + 8 * n.val) (halfBytes (p.lane n).headerLink)) := ⟨_, rfl⟩
  have hwf : Memory.wf m' = true := by rw [hm']; exact writeCells_wf hm
  have hlink' : readHalf m' (18 + 8 * n.val) = (p.lane n).headerLink := by
    rw [hm']
    split
    · next e => exact hlink.trans e
    · exact readHalf_writeCells_halfBytes hm (by simp only [Config.memoryBytes]; omega)
  have hstate' : readByte m' (20 + 8 * n.val) = BitVec.ofNat 8 (pre.lane n).state.num := by
    rw [hm', ← hstate]
    split
    · rfl
    · exact readByte_writeCells_cellsFrom_outside hm (by rw [halfBytes_length]; omega)
  rw [headerUpdate, writeCells_append, ← hm']
  split
  · next e => exact ⟨hlink', by rw [← e]; exact hstate'⟩
  · refine ⟨?_, ?_⟩
    · rw [readHalf, readBytes_writeCells_outside hwf (by omega)]
      exact hlink'
    · exact readByte_writeCells_cellsFrom_inside (i := 0) hwf (by simp) (by simp only [Config.memoryBytes]; omega)

/-- After an event that writes nothing else to the header, the header shows the lane's link and state where it showed them
before (R124). -/
theorem runEvent_header {f : List Host.Cell → Part → Part} {s : State} {q : Part} {n : Lane} (hm : Memory.wf s.mem = true)
    (hd : drain s.mem Config.agendaBound (f s.mem s.part) = q) (hq : q.agenda = []) (hh : q.metHolds = [])
    (he : q.equalised = true) (he' : s.part.equalised = true) (hw : ∀ c ∈ q.writes, 3072 ≤ c.1)
    (hlink : readHalf s.mem (18 + 8 * n.val) = (s.part.lane n).headerLink)
    (hstate : readByte s.mem (20 + 8 * n.val) = BitVec.ofNat 8 (s.part.lane n).state.num) :
    readHalf (runEvent f s).mem (18 + 8 * n.val) = (q.lane n).headerLink ∧
      readByte (runEvent f s).mem (20 + 8 * n.val) = BitVec.ofNat 8 (q.lane n).state.num := by
  have hn := n.isLt
  have hsame : ∀ a, a < 3072 → readByte (writeCells s.mem q.writes) a = readByte s.mem a := fun a ha =>
    readByte_writeCells_other hm fun c hc e => by
      have := hw c hc
      omega
  obtain ⟨m', hwf, hbefore, hafter⟩ := readByte_writeCells_flatMap (m := writeCells s.mem q.writes)
    (F := headerUpdate s.part q) (x := n) (post := generationUpdate s.part q)
    (region := fun a => 18 + 8 * n.val ≤ a ∧ a ≤ 20 + 8 * n.val) (writeCells_wf hm) (List.mem_finRange n)
    (List.nodup_finRange 4)
    (fun l hl c hc => by
      have := headerUpdate_address hc
      have : l.val ≠ n.val := fun e => hl (Fin.ext e)
      omega)
    (fun c hc => by
      unfold generationUpdate at hc
      split at hc
      · simp at hc
      · have := generationCells_address hc
        omega)
  have hregion : ∀ i, i < 2 → 18 + 8 * n.val ≤ 18 + 8 * n.val + i ∧ 18 + 8 * n.val + i ≤ 20 + 8 * n.val := by omega
  rw [runEvent_writes hd hq hh he he', writeCells_append, headerUpdates,
    readHalf_congr fun i hi => hafter _ (hregion i hi), hafter _ (by omega)]
  refine headerUpdate_shows hwf ?_ ?_
  · rw [← hlink]
    exact readHalf_congr fun i hi => (hbefore _ (hregion i hi)).trans (hsame _ (by omega))
  · rw [← hstate]
    exact (hbefore _ (by omega)).trans (hsame _ (by omega))

/-! ### The accepted and the finished time (R126, R127) -/

section
variable {m post : List Host.Cell} {link : Half} {standing : Bool} {at' : Stamp} {held : HeldRecord} {r : Result} {d : Half}
  {f g : Word}

/-- A run of bytes that no later cell touches reads back. -/
theorem readBytes_lastRun {pre : List Host.Cell} {a : Nat} {bytes : List Byte} (hm : Memory.wf m = true)
    (ha : a + bytes.length ≤ Config.memoryBytes) (hpost : ∀ c ∈ post, c.1 < a ∨ a + bytes.length ≤ c.1) :
    readBytes (writeCells m (pre ++ (cellsFrom a bytes ++ post))) a bytes.length = bytes := by
  rw [writeCells_append, writeCells_append]
  have hsame : readBytes (writeCells (writeCells (writeCells m pre) (cellsFrom a bytes)) post) a bytes.length =
      readBytes (writeCells (writeCells m pre) (cellsFrom a bytes)) a bytes.length :=
    readBytes_congr fun i hi => readByte_writeCells_other (writeCells_wf (writeCells_wf hm)) fun c hc e => by
      have := hpost c hc
      omega
  exact hsame.trans (readBytes_writeCells_inside (writeCells_wf hm) ha)

theorem readByte_lastRun {pre : List Host.Cell} {a : Nat} {b : Byte} (hm : Memory.wf m = true)
    (ha : a < Config.memoryBytes) (hpost : ∀ c ∈ post, c.1 ≠ a) :
    readByte (writeCells m (pre ++ (cellsFrom a [b] ++ post))) a = b := by
  have hrun := readBytes_lastRun (pre := pre) (bytes := [b]) hm ha fun c hc => by
    have := hpost c hc
    simp only [List.length_cons, List.length_nil]
    omega
  exact (List.cons.inj hrun).1

theorem ownerCells_address {base : Nat} {b : Byte} {c : Host.Cell}
    (h : c ∈ if standing then [] else cellsFrom base [b]) : c.1 = base := by
  split at h
  · simp at h
  · have := mem_cellsFrom h
    simp only [List.length_cons, List.length_nil] at this
    omega

/-- No later write of the taking touches the accepted time. -/
theorem takenCells_time (hm : Memory.wf m = true) (hvalid : linkValid link = true)
    (hpost : ∀ c ∈ post, (c.1 < slotBase link + 48 ∨ slotBase link + 52 ≤ c.1) ∧ c.1 ≠ slotBase link + 56) :
    readWord (writeCells m (takenCells link standing at' ++ post)) (slotBase link + 48) = at'.seconds ∧
      readByte (writeCells m (takenCells link standing at' ++ post)) (slotBase link + 56) = BitVec.ofNat 8 at'.centis := by
  have hbound := slotBase_bound hvalid
  have hafter : ∀ c ∈ cellsFrom (slotBase link + 36) [0] ++ ((if standing then [] else cellsFrom (slotBase link) [ownerActive]) ++
      post), (c.1 < slotBase link + 48 ∨ slotBase link + 52 ≤ c.1) ∧ c.1 ≠ slotBase link + 56 := by
    intro c hc
    rcases List.mem_append.1 hc with hc | hc
    · have := mem_cellsFrom hc
      simp only [List.length_cons, List.length_nil] at this
      omega
    · rcases List.mem_append.1 hc with hc | hc
      · have := ownerCells_address hc
        omega
      · exact hpost c hc
  have hword : takenCells link standing at' ++ post = [] ++ (cellsFrom (slotBase link + 48) (wordBytes at'.seconds) ++
      (cellsFrom (slotBase link + 56) [centisByte at'] ++ (cellsFrom (slotBase link + 36) [0] ++
        ((if standing then [] else cellsFrom (slotBase link) [ownerActive]) ++ post)))) := by
    simp only [takenCells, List.append_assoc, List.nil_append]
  have hbyte : takenCells link standing at' ++ post = cellsFrom (slotBase link + 48) (wordBytes at'.seconds) ++
      (cellsFrom (slotBase link + 56) [centisByte at'] ++ (cellsFrom (slotBase link + 36) [0] ++
        ((if standing then [] else cellsFrom (slotBase link) [ownerActive]) ++ post))) := by
    simp only [takenCells, List.append_assoc]
  constructor
  · rw [hword]
    refine readWord_at (readBytes_lastRun (bytes := wordBytes at'.seconds) hm (by rw [wordBytes_length]; omega)
      fun c hc => ?_)
    rw [wordBytes_length]
    rcases List.mem_append.1 hc with hc | hc
    · have := mem_cellsFrom hc
      omega
    · exact (hafter c hc).1
  · rw [hbyte]
    exact readByte_lastRun hm (by omega) fun c hc => (hafter c hc).2

/-- A retirement writes none of the accepted time. -/
theorem retireCells_notAccepted {c : Host.Cell} (h : c ∈ retireCells held r d f g at') :
    (c.1 < slotBase held.link + 48 ∨ slotBase held.link + 52 ≤ c.1) ∧ c.1 ≠ slotBase held.link + 56 := by
  unfold retireCells at h
  rcases List.mem_append.1 h with h | h
  · rcases List.mem_append.1 h with h | h
    · rcases List.mem_append.1 h with h | h
      · have := mem_cellsFrom h
        simp only [List.length_append, List.length_cons, List.length_nil, wordBytes_length, halfBytes_length] at this
        omega
      · have := mem_cellsFrom h
        rw [wordBytes_length] at this
        omega
    · have := mem_cellsFrom h
      simp only [List.length_cons, List.length_nil] at this
      omega
  · have := ownerCells_address h
    omega

/-- No later write of the retirement touches the finished time. -/
theorem retireCells_time (hm : Memory.wf m = true) (hvalid : linkValid held.link = true)
    (hpost : ∀ c ∈ post, outsideSlot held.link c.1) :
    readWord (writeCells m (retireCells held r d f g at' ++ post)) (slotBase held.link + 52) = at'.seconds ∧
      readByte (writeCells m (retireCells held r d f g at' ++ post)) (slotBase held.link + 57) =
        BitVec.ofNat 8 at'.centis := by
  have hbound := slotBase_bound hvalid
  have hafter : ∀ c ∈ (if held.standing then [] else cellsFrom (slotBase held.link) [ownerRetired]) ++ post,
      c.1 < slotBase held.link + 52 ∨ slotBase held.link + 58 ≤ c.1 := by
    intro c hc
    rcases List.mem_append.1 hc with hc | hc
    · have := ownerCells_address hc
      omega
    · have := hpost c hc
      unfold outsideSlot at this
      omega
  have hsplit : ∃ pre, retireCells held r d f g at' ++ post =
      pre ++ (cellsFrom (slotBase held.link + 52) (wordBytes at'.seconds) ++
        (cellsFrom (slotBase held.link + 57) [centisByte at'] ++
          ((if held.standing then [] else cellsFrom (slotBase held.link) [ownerRetired]) ++ post))) :=
    ⟨_, by simp only [retireCells, List.append_assoc]; rfl⟩
  obtain ⟨pre, hsplit⟩ := hsplit
  rw [hsplit]
  constructor
  · refine readWord_at (readBytes_lastRun (bytes := wordBytes at'.seconds) hm (by rw [wordBytes_length]; omega)
      fun c hc => ?_)
    rw [wordBytes_length]
    rcases List.mem_append.1 hc with hc | hc
    · have := mem_cellsFrom hc
      omega
    · have := hafter c hc
      omega
  · rw [← List.append_assoc]
    refine readByte_lastRun hm (by omega) fun c hc => ?_
    have := hafter c hc
    omega

end

end Sys2Proof.Machine
end

section
/-! An order that retires in the event that took it, and what it shows (R124, R126, R127, R138, R141). -/

namespace Sys2Proof.Machine

/-- The part with the record of lane `n`'s order just taken. -/
abbrev State.withTaken (s : State) (n : Lane) (link : Half) (head : OrderHead) (k : OrderKind) (params : List Byte) : Part :=
  takenPart n link head.standing (orderImage head k params) s.part

/-- The event in which lane `n` takes the order placed in slot `link` comes to rest at `q`, with the other lanes as they were. -/
structure State.OrderRests (s : State) (n : Lane) (link : Half) (head : OrderHead) (k : OrderKind) (params : List Byte)
    (acts : List Act) (q : Part) : Prop where
  takes      : s.Takes n link
  short      : params.length ≤ 24
  taking     : linkTake n (placed s link (orderImage head k params)) s.part = (s.withTaken n link head k params).emit acts
  comes      : drain (placed s link (orderImage head k params)) Config.agendaBound
    ((s.withTaken n link head k params).emit acts) = q
  agenda     : q.agenda = []
  notHeld    : (q.lane n).waitKind ≠ some .hold
  others     : ∀ l, l ≠ n → q.lane l = s.part.lane l
  generation : q.generation = s.part.generation
  port       : q.port.partState = s.part.port.partState

/-- The order's command is the event of its record's taking, on the state with the record in place. -/
theorem runOrder_event {s : State} {n : Lane} {link : Half} {image : List Byte} (h : s.Takes n link) :
    ∃ s' : State, runOrder n image s = runEvent (linkTake n) s' ∧ s'.mem = placed s link image ∧ s'.part = s.part := by
  refine ⟨{ s with mem := placed s link image }, ?_, rfl, rfl⟩
  rw [runOrder_takes h, takeEvent]

section
variable {s : State} {n : Lane} {link : Half} {head : OrderHead} {k : OrderKind} {params : List Byte} {acts : List Act}
  {p q : Part} {held : HeldRecord} {r : Result} {c : LaneContext}

namespace State.OrderRests

theorem metHolds (h : s.OrderRests n link head k params acts q) : q.metHolds = [] :=
  metHolds_none fun l => by
    by_cases e : l = n
    · rw [e]
      exact h.notHeld
    · rw [h.others l e]
      exact h.takes.quiet.noHold l (by simp)

theorem equalised (h : s.OrderRests n link head k params acts q) : q.equalised = s.part.equalised := by
  rw [Part.equalised, h.port]
  rfl

/-- The order's command is an event that comes to rest at `q`, from the state with the record in place. -/
theorem event (h : s.OrderRests n link head k params acts q) :
    ∃ s' : State, runOrder n (orderImage head k params) s = runEvent (linkTake n) s' ∧
      s'.mem = placed s link (orderImage head k params) ∧ s'.part = s.part ∧
      drain s'.mem Config.agendaBound (linkTake n s'.mem s'.part) = q := by
  obtain ⟨s', hrun, hmem, hpart⟩ := runOrder_event (image := orderImage head k params) h.takes
  refine ⟨s', hrun, hmem, hpart, ?_⟩
  rw [hmem, hpart, h.taking]
  exact h.comes

theorem follows (h : s.OrderRests n link head k params acts q) :
    q.Follows (runOrder n (orderImage head k params) s).part := by
  obtain ⟨s', hrun, -, -, hdrain⟩ := h.event
  rw [hrun]
  exact (runEvent_follows hdrain h.agenda h.metHolds).1

/-- A slot that the event rewrites is handed over with its source (R129). -/
theorem slot (h : s.OrderRests n link head k params acts q) (he : s.part.equalised = true) {j : SlotId}
    (hj : j ∈ q.forced) :
    ((runOrder n (orderImage head k params) s).part.slot j).waiting = true ∧
      ((runOrder n (orderImage head k params) s).part.slot j).content =
        (runOrder n (orderImage head k params) s).part.slotContent j := by
  have hcontent := h.follows.slotContent j
  obtain ⟨s', hrun, -, hpart, hdrain⟩ := h.event
  rw [hrun] at hcontent ⊢
  have hslot := runEvent_slot hdrain h.agenda h.metHolds (h.equalised.trans he) (by rw [hpart]; exact he) j
  have hforced : q.forced.contains j = true := List.contains_iff_mem.2 hj
  rw [hforced, Bool.true_or, if_pos rfl] at hslot
  rw [hcontent, hslot]
  exact ⟨rfl, rfl⟩

/-- Where the header showed the lane's fields, it shows them after the event (R124). -/
theorem header (h : s.OrderRests n link head k params acts q) (he : s.part.equalised = true)
    (hw : ∀ c ∈ q.writes, 3072 ≤ c.1) (hlink : readHalf s.mem (18 + 8 * n.val) = (s.part.lane n).headerLink)
    (hstate : readByte s.mem (20 + 8 * n.val) = BitVec.ofNat 8 (s.part.lane n).state.num) :
    readHalf (runOrder n (orderImage head k params) s).mem (18 + 8 * n.val) =
        ((runOrder n (orderImage head k params) s).part.lane n).headerLink ∧
      readByte (runOrder n (orderImage head k params) s).mem (20 + 8 * n.val) =
        BitVec.ofNat 8 ((runOrder n (orderImage head k params) s).part.lane n).state.num := by
  have hn := n.isLt
  have hbound := slotBase_bound h.takes.valid
  obtain ⟨s', hrun, hmem, hpart, hdrain⟩ := h.event
  have hsame : ∀ a, a < 3072 → readByte s'.mem a = readByte s.mem a := fun a ha => by
    rw [hmem]
    exact readByte_placed_other h.takes.quiet.mem (orderImage_length head k h.short) (by omega)
  rw [h.follows.lane, hrun]
  refine runEvent_header (by rw [hmem]; exact writeCells_wf h.takes.quiet.mem) hdrain h.agenda h.metHolds
    (h.equalised.trans he) (by rw [hpart]; exact he) hw ?_ ?_
  · rw [hpart, ← hlink]
    exact readHalf_congr fun i hi => hsame _ (by omega)
  · rw [hpart, ← hstate]
    exact hsame _ (by omega)

/-- What the event shows of its record, which has retired, and of its lane. -/
theorem shown (h : s.OrderRests n link head k params acts q) {d : Half} {f g : Word} {post : List Host.Cell}
    (hlink : held.link = link)
    (hw : q.writes = takenCells link head.standing s.part.now ++ (retireCells held r d f g s.part.now ++ post))
    (hpost : ∀ c ∈ post, outsideSlot link c.1 ∧ 3072 ≤ c.1) (hforced : head.flags.getLsbD 1 = true → laneSlot n ∈ q.forced) :
    retirementShown s (runOrder n (orderImage head k params) s) n link head := by
  subst hlink
  have hbound := slotBase_bound h.takes.valid
  obtain ⟨-, -, -, cells, hmem, hcells⟩ :=
    order_leaves h.takes h.taking h.comes h.agenda h.metHolds hw h.others h.generation h.port
  have hwf : Memory.wf (placed s held.link (orderImage head k params)) = true := writeCells_wf h.takes.quiet.mem
  have hafter : ∀ c ∈ post ++ cells, outsideSlot held.link c.1 := by
    intro c hc
    rcases List.mem_append.1 hc with hc | hc
    · exact (hpost c hc).1
    · exact header_outside h.takes.valid (hcells c hc)
  have haccepted : ∀ c ∈ retireCells held r d f g s.part.now ++ (post ++ cells),
      (c.1 < slotBase held.link + 48 ∨ slotBase held.link + 52 ≤ c.1) ∧ c.1 ≠ slotBase held.link + 56 := by
    intro c hc
    rcases List.mem_append.1 hc with hc | hc
    · exact retireCells_notAccepted hc
    · have := hafter c hc
      unfold outsideSlot at this
      omega
  obtain ⟨hsecondsA, hcentisA⟩ := takenCells_time (standing := head.standing) (at' := s.part.now) hwf h.takes.valid haccepted
  obtain ⟨hsecondsF, hcentisF⟩ := retireCells_time (held := held) (r := r) (d := d) (f := f) (g := g) (at' := s.part.now)
    (writeCells_wf (cells := takenCells held.link head.standing s.part.now) hwf) h.takes.valid hafter
  rw [writeCells_append, ← List.append_assoc, ← hmem] at hsecondsA hcentisA
  rw [← List.append_assoc, ← hmem] at hsecondsF hcentisF
  refine ⟨hsecondsA, hcentisA, hsecondsF, hcentisF, fun he => ⟨h.header he fun c hc => ?_, fun hnotify => h.slot he (hforced hnotify)⟩⟩
  rw [hw] at hc
  rcases List.mem_append.1 hc with hc | hc
  · have := takenCells_inside hc
    omega
  · rcases List.mem_append.1 hc with hc | hc
    · have := retireCells_inside hc
      omega
    · exact (hpost c hc).2

end State.OrderRests

/-! ### The lane once its record has retired -/

/-- The lane whose current record, in slot `link`, has retired, before it is settled where it goes on (R141). -/
def LaneContext.letGo (c : LaneContext) (link : Half) : LaneContext :=
  { c.retiredAt link with current := none, link := none, waitKind := none, holdTimer := none }

theorem laneRetires_forced (r : Result) {j : SlotId} (h : j ∈ p.forced ∨ (held.notify = true ∧ j = laneSlot n)) :
    j ∈ (laneRetires n held r p).forced := by
  obtain ⟨d, f, g, ov, oc, e, -⟩ := retireRecord_eq held r p
  cases hn : held.notify
  · simp only [laneRetires, hn, whenTrue_false, e]
    exact h.resolve_right (by simp [hn])
  · simp only [laneRetires, hn, whenTrue_true, e]
    exact List.mem_cons.2 (h.symm.imp_left And.right)

/-- The part once the record of lane `n`'s order has retired, and the lane's context has become `c`. -/
theorem retired_withTaken (h : s.Takes n link) (r : Result) (c : LaneContext) :
    ∃ d f g ov oc fs,
      (retireCurrent n r (s.withTaken n link head k params)).setLane n c =
        { s.part with
          lanes := setAt s.part.lanes n c,
          writes := takenCells link head.standing s.part.now ++
            retireCells (heldBy link head (orderImage head k params)) r d f g s.part.now,
          forced := fs, openValues := ov, openCount := oc } ∧
      (head.flags.getLsbD 1 = true → laneSlot n ∈ fs) ∧
      (∀ v, r.detail = some v → d = v) ∧ (∀ v, r.first = some v → f = v) ∧ (∀ v, r.second = some v → g = v) := by
  have hcur : ((s.withTaken n link head k params).lane n).current = some (heldBy link head (orderImage head k params)) := by
    rw [takenPart_lane_same]
  obtain ⟨d, f, g, ov, oc, fs, hretired, h1, h2, h3⟩ := retireCurrent_eq r hcur
  refine ⟨d, f, g, ov, oc, fs, ?_, fun hnotify => ?_, h1, h2, h3⟩
  · rw [hretired, State.withTaken, takenPart_of h]
    simp only [Part.setLane, setAt_setAt, Part.now]
  · have hmem : laneSlot n ∈ (retireCurrent n r (s.withTaken n link head k params)).forced := by
      unfold retireCurrent
      rw [hcur]
      exact laneRetires_forced r (Or.inr ⟨hnotify, rfl⟩)
    rw [hretired] at hmem
    exact hmem

theorem retired_lane (r : Result) :
    (retireCurrent n r (s.withTaken n link head k params)).lane n = (s.part.lane n).taken.letGo link := by
  have hcur : ((s.withTaken n link head k params).lane n).current = some (heldBy link head (orderImage head k params)) := by
    rw [takenPart_lane_same]
  obtain ⟨d, f, g, ov, oc, fs, hretired, -⟩ := retireCurrent_eq r hcur
  rw [hretired]
  refine (getAt_setAt_same ..).trans ?_
  rw [takenPart_lane_same]
  rfl

theorem retired_follow (r : Result) (next : Half) :
    followLink n next (retireCurrent n r (s.withTaken n link head k params)) =
      (retireCurrent n r (s.withTaken n link head k params)).setLane n ((s.part.lane n).taken.goesOn link next) := by
  rw [followLink_eq, retired_lane]
  rfl

theorem retired_stop (r : Result) (cause : LaneCause) :
    stopLane n cause none (retireCurrent n r (s.withTaken n link head k params)) =
      (retireCurrent n r (s.withTaken n link head k params)).setLane n
        (((s.part.lane n).taken.retiredAt link).stopped cause) := by
  rw [stopLane, retired_lane]
  rfl

/-- An order whose event comes to rest where its record has retired and its lane's context has become `c`. -/
theorem order_retires_setLane (h : s.Takes n link) (hl : params.length ≤ 24)
    (htaking : linkTake n (placed s link (orderImage head k params)) s.part = (s.withTaken n link head k params).emit acts)
    (hcomes : drain (placed s link (orderImage head k params)) Config.agendaBound
      ((s.withTaken n link head k params).emit acts) = (retireCurrent n r (s.withTaken n link head k params)).setLane n c)
    (hc : c.waitKind ≠ some .hold) :
    s.Retires (runOrder n (orderImage head k params) s) n link (retiredOwner head.standing) r (s.part.setLane n c) ∧
      retirementShown s (runOrder n (orderImage head k params) s) n link head := by
  obtain ⟨d, f, g, ov, oc, fs, hq, hnotify, h1, h2, h3⟩ := retired_withTaken (head := head) (k := k) (params := params) h r c
  rw [hq] at hcomes
  have hown : ∀ l, getAt (setAt s.part.lanes n c) l = if n = l then c else s.part.lane l := fun l => getAt_setAt ..
  have hrests : s.OrderRests n link head k params acts _ :=
    ⟨h, hl, htaking, hcomes, h.quiet.agenda, by
      show (getAt (setAt s.part.lanes n c) n).waitKind ≠ _
      rw [hown, if_pos rfl]
      exact hc, fun l hne => getAt_setAt_ne _ _ (Ne.symm hne), rfl, rfl⟩
  constructor
  · have hretires := order_retires (held := heldBy link head (orderImage head k params)) h hl htaking hcomes hrests.agenda
      hrests.notHeld rfl rfl rfl h1 h2 h3 hrests.others rfl rfl
    exact hretires.of_follows ⟨rfl, rfl, rfl, rfl, rfl, rfl, rfl, rfl, rfl, rfl, rfl, rfl, rfl, rfl, rfl⟩
  · exact hrests.shown (held := heldBy link head (orderImage head k params)) (post := []) rfl (by rw [List.append_nil])
      (by simp) hnotify

end

end Sys2Proof.Machine
end

section
/-! Lane-control orders: HOLD, DETOUR, RETURN, MARK and HALT LANE (R144 to R150). -/

namespace Sys2Proof.Machine

/-! ### An order of the Lane Engine -/

/-- The kinds that the Lane Engine itself owns. -/
def OrderKind.ofLane : OrderKind → Bool
  | .hold | .detour | .ret | .mark | .haltLane => true
  | _ => false

/-- What such an order does at its block. -/
def OrderKind.laneWork (k : OrderKind) (n : Lane) (m : List Host.Cell) (p : Part) : Part :=
  match k with
  | .hold => orderHold n p
  | .detour => orderDetour n p
  | .ret => orderReturn n m p
  | .mark => orderMark n p
  | .haltLane => orderHaltLane n p
  | _ => p

/-- Lane `n` takes a lane-control order with these parameters now, and its record passes the checks. -/
structure State.TakesLaneOrder (s : State) (n : Lane) (link : Half) (head : OrderHead) (k : OrderKind)
    (params : List Byte) : Prop where
  order : s.TakesOrder n link head
  kind  : k.ofLane = true
  short : params.length ≤ 24
  fits  : ∀ c ∈ s.part.paramChecks (orderImage head k params) k, c.2 = true

section
variable {s : State} {n : Lane} {link : Half} {head : OrderHead} {k : OrderKind} {params : List Byte} {acts : List Act}
  {p q : Part} {r : Result} {c : LaneContext} {m : List Host.Cell}

theorem blockOrder_lane (hk : k.ofLane = true) (hb : q.currentBytes n = orderImage head k params) :
    blockOrder n m q = k.laneWork n m q := by
  unfold blockOrder
  rw [hb, imageKind_orderImage]
  cases k with
  | hold | detour | ret | mark | haltLane => rfl
  | _ => cases hk

/-- An order whose operands are in their ranges. -/
theorem takesLaneOrder {c : Instr} (h : s.TakesOrder n link head) (hc : orderOf c = some (n, head, k, params))
    (hk : k.ofLane = true) (hfits : ∀ f ∈ operandFields s.part c, f.2) : s.TakesLaneOrder n link head k params :=
  ⟨h, hk, orderOf_length hc, (paramChecks_operandFields hc s.part).all_pass.2 hfits⟩

namespace State.TakesLaneOrder

theorem exec (h : s.TakesLaneOrder n link head k params) {c : Instr} (hc : orderOf c = some (n, head, k, params)) :
    Machine.exec c s = .next (runOrder n (orderImage head k params) s) :=
  exec_order h.order hc

theorem needsNothing (h : s.TakesLaneOrder n link head k params) :
    k.needsNoPlan = true ∧ needsBridge (orderImage head k params) k = false ∧
      s.part.claimEntry (orderImage head k params) = none := by
  have hk := h.kind
  unfold Part.claimEntry
  rw [imageKind_orderImage]
  cases k with
  | hold | detour | ret | mark | haltLane => exact ⟨rfl, rfl, rfl⟩
  | _ => cases hk

/-- The order goes on to its block, and then to what the block asks for. -/
theorem to_acts (h : s.TakesLaneOrder n link head k params)
    (hwork : k.laneWork n (placed s link (orderImage head k params)) (s.withTaken n link head k params) = q.emit acts) :
    linkTake n (placed s link (orderImage head k params)) s.part = (s.withTaken n link head k params).emit [.passOrder n] ∧
      drain (placed s link (orderImage head k params)) Config.agendaBound
          ((s.withTaken n link head k params).emit [.passOrder n]) =
        drain (placed s link (orderImage head k params)) 65534 (q.emit acts) := by
  obtain ⟨hplan, hbridge, hclaim⟩ := h.needsNothing
  exact order_to_acts h.order h.short h.fits (.inr hplan) (by rw [hbridge]; simp) hclaim
    ((blockOrder_lane h.kind (takenPart_currentBytes ..)).trans hwork)

/-- An order that its block retires, with the lane's context then at `c`. -/
theorem retires (h : s.TakesLaneOrder n link head k params)
    (hwork : k.laneWork n (placed s link (orderImage head k params)) (s.withTaken n link head k params) =
      (retireCurrent n r (s.withTaken n link head k params)).setLane n c) (hc : c.waitKind ≠ some .hold) :
    s.Retires (runOrder n (orderImage head k params) s) n link (retiredOwner head.standing) r (s.part.setLane n c) := by
  obtain ⟨htaking, hcomes⟩ := h.to_acts (acts := []) (by rw [hwork, emit_nil])
  refine (order_retires_setLane h.order.takes h.short htaking (hcomes.trans (drain_emit_nil ?_)) hc).1
  obtain ⟨_, _, _, _, _, _, hq, -⟩ := retired_withTaken (head := head) (k := k) (params := params) h.order.takes r c
  rw [hq]
  exact h.order.takes.quiet.agenda

/-- An order that its block ends, with the deck as it was. -/
theorem ends (h : s.TakesLaneOrder n link head k params)
    (hwork : ∀ m, k.laneWork n m (s.withTaken n link head k params) =
      (s.withTaken n link head k params).emit [.orderEnds n r])
    (ha : r.code.failure = true → head.alternate ≠ 0) :
    s.OrderEnds (runOrder n (orderImage head k params) s) n link head r s.part := by
  obtain ⟨hplan, hbridge, hclaim⟩ := h.needsNothing
  exact order_done_taken h.order h.short h.fits (.inr hplan) (by rw [hbridge]; simp) hclaim
    (fun m => (blockOrder_lane h.kind (takenPart_currentBytes ..)).trans (hwork m)) ha rfl rfl rfl rfl rfl rfl

end State.TakesLaneOrder

end

/-! ### HALT LANE (R150) -/

section
variable {s : State} {n : Lane} {link : Half} {head : OrderHead}

/-- HALT LANE with no open group retires its record and stops the lane. -/
theorem orderHaltLane_stops (hnest : (s.part.lane n).nest = []) :
    orderHaltLane n (s.withTaken n link head .haltLane []) =
      (retireCurrent n (Result.bare .done) (s.withTaken n link head .haltLane [])).setLane n
        (((s.part.lane n).taken.retiredAt link).stopped .haltOrder) := by
  have hempty : ((retireCurrent n (Result.bare .done) (s.withTaken n link head .haltLane [])).lane n).nest.isEmpty = true := by
    rw [retired_lane]
    exact List.isEmpty_iff.2 hnest
  unfold orderHaltLane
  dsimp only
  rw [if_pos hempty, retired_stop]

end

/-! ### DETOUR and RETURN (R147, R148) -/

section
variable {s : State} {n : Lane} {link target l : Half} {head : OrderHead}

theorem orderDetour_goes (hanchor : (s.part.lane n).returnAnchor = none) :
    orderDetour n (s.withTaken n link head .detour (halfBytes target)) =
      (retireCurrent n { Result.bare .done with first := some (target.setWidth 32) }
        (s.withTaken n link head .detour (halfBytes target))).setLane n
          { (s.part.lane n).taken.goesOn link target with returnAnchor := some link } := by
  have hlane := takenPart_lane_same n link head.standing (orderImage head .detour (halfBytes target)) s.part
  have hnone : ((s.withTaken n link head .detour (halfBytes target)).lane n).returnAnchor = none := by
    rw [hlane]
    exact hanchor
  have hcur : ((s.withTaken n link head .detour (halfBytes target)).lane n).current =
      some (heldBy link head (orderImage head .detour (halfBytes target))) := by
    rw [hlane]
  unfold orderDetour
  rw [hnone, hcur, takenPart_currentBytes, paramHalf_orderImage]
  dsimp only
  rw [retired_lane, followLink_eq, Part.setLane_same, Part.setLane_setLane]
  rfl

theorem orderDetour_nested (hanchor : (s.part.lane n).returnAnchor = some l) :
    orderDetour n (s.withTaken n link head .detour (halfBytes target)) =
      (s.withTaken n link head .detour (halfBytes target)).emit
        [.orderEnds n { Result.bare .nestedDetour with first := some (l.setWidth 32) }] := by
  have hsome : ((s.withTaken n link head .detour (halfBytes target)).lane n).returnAnchor = some l := by
    rw [takenPart_lane_same]
    exact hanchor
  unfold orderDetour
  rw [hsome]

/-- The next link that the DETOUR record has in exchange memory once the RETURN's own record stands in it. -/
theorem nextLinkOf_placed {params : List Byte} {k : OrderKind} (h : s.Takes n link) (hl : params.length ≤ 24) :
    nextLinkOf (placed s link (orderImage head k params)) l =
      if l = link then head.next else readHalf s.mem (slotBase l + 4) := by
  have hm := h.quiet.mem
  have hlength := orderImage_length head k hl
  unfold nextLinkOf
  split
  · next e =>
    subst e
    have himage := congrArg imageNext (readImage_placed hm h.valid hlength)
    rw [imageNext_orderImage] at himage
    rw [← himage]
    have hbyte : ∀ i, i < 2 → byteAt (readBytes (placed s l (orderImage head k params)) (slotBase l + 4) 2) i =
        byteAt (readImage (placed s l (orderImage head k params)) l) (4 + i) := by
      intro i hi
      rw [byteAt_readBytes hi, readImage, byteAt, List.getD_append _ _ _ _ (by rw [readBytes_length]; omega), ← byteAt,
        byteAt_readBytes (by omega), Nat.add_assoc]
    unfold readHalf imageNext halfAt
    rw [hbyte 0 (by omega), hbyte (0 + 1) (by omega)]
  · next e =>
    refine readHalf_congr fun i hi => readByte_placed_other hm hlength (slots_apart e ?_)
    omega

theorem orderReturn_goes (h : s.Takes n link) (hanchor : (s.part.lane n).returnAnchor = some l) :
    orderReturn n (placed s link (orderImage head .ret [])) (s.withTaken n link head .ret []) =
      (retireCurrent n { Result.bare .done with first := some (l.setWidth 32) } (s.withTaken n link head .ret [])).setLane n
        { (s.part.lane n).taken.goesOn link (if l = link then head.next else readHalf s.mem (slotBase l + 4)) with
          anchor := .record l, returnAnchor := none,
          nest := (s.part.lane n).nest.map (fun x => { x with inDetour := false }) } := by
  have hsome : ((s.withTaken n link head .ret []).lane n).returnAnchor = some l := by
    rw [takenPart_lane_same]
    exact hanchor
  unfold orderReturn
  rw [hsome]
  dsimp only
  rw [retired_lane, followLink_eq, Part.setLane_same, Part.setLane_setLane, nextLinkOf_placed h (by simp)]
  rfl

theorem orderReturn_rests (m : List Host.Cell) (hanchor : (s.part.lane n).returnAnchor = none) :
    orderReturn n m (s.withTaken n link head .ret []) =
      (retireCurrent n { Result.bare .done with first := some 0 } (s.withTaken n link head .ret [])).setLane n
        ((s.part.lane n).taken.goesOn link 0) := by
  have hnone : ((s.withTaken n link head .ret []).lane n).returnAnchor = none := by
    rw [takenPart_lane_same]
    exact hanchor
  unfold orderReturn
  rw [hnone]
  exact retired_follow ..

end

/-- Settles O37: by the return anchor, a DETOUR goes or is refused, and a RETURN goes on or rests. -/
theorem detourAndReturn : Obligations.DetourAndReturn := by
  intro s n link head h
  have hdetour : ∀ target : Half, target ≠ 0 → s.TakesLaneOrder n link head .detour (halfBytes target) := fun target ht =>
    takesLaneOrder (c := .detour n head target) h rfl rfl (by simpa [operandFields] using ht)
  have hreturn : s.TakesLaneOrder n link head .ret [] :=
    takesLaneOrder (c := .ret n head) h rfl rfl (by simp [operandFields])
  refine ⟨fun target ht hanchor => ?_, fun target l ht hanchor halternate => ?_, fun l hanchor => ?_, fun hanchor => ?_⟩
  · exact ⟨_, (hdetour target ht).exec rfl, (hdetour target ht).retires (orderDetour_goes hanchor) (by simp [LaneContext.goesOn])⟩
  · exact ⟨_, (hdetour target ht).exec rfl, (hdetour target ht).ends (fun _ => orderDetour_nested hanchor) fun _ => halternate⟩
  · exact ⟨_, hreturn.exec rfl, hreturn.retires (orderReturn_goes h.takes hanchor) (by simp [LaneContext.goesOn])⟩
  · exact ⟨_, hreturn.exec rfl, hreturn.retires (orderReturn_rests _ hanchor) (by simp [LaneContext.goesOn])⟩

end Sys2Proof.Machine
end

section
/-! HOLD: met at the take, or kept with its duration (R144, R145). -/

namespace Sys2Proof.Machine

section
variable {s : State} {n : Lane} {link : Half} {head : OrderHead} {p : Part} {duration : Half} {condition index state : Byte}

/-- A HOLD's ranges are those of its record's operands. -/
theorem holdFits_operands (h : holdFits condition index state) (n : Lane) (head : OrderHead) (duration : Half) :
    ∀ f ∈ operandFields p (.hold n head duration condition index state), f.2 := by
  rw [operandFields, List.forall_mem_cons, List.forall_mem_cons, List.forall_mem_singleton]
  dsimp only
  rcases h with ⟨rfl, hi, hs⟩ | ⟨rfl, hi, rfl⟩ | ⟨rfl, hi, hs⟩ | ⟨rfl | rfl, rfl, rfl⟩
  · simpa using ⟨hi, hs⟩
  · simpa using hi
  · simpa using ⟨hi, Nat.le_of_lt_succ hs⟩
  · simp
  · simp

theorem exists_fin_eq {bound i : Nat} [NeZero bound] (h : i < bound) (condition : Fin bound → Prop) :
    (∃ k : Fin bound, k.val = i ∧ condition k) ↔ condition (Fin.ofNat bound i) := by
  have hval : (Fin.ofNat bound i).val = i := Nat.mod_eq_of_lt h
  exact ⟨fun ⟨k, hk, hc⟩ => by rwa [← hk, Fin.ofNat_val_eq_self], fun hc => ⟨_, hval, hc⟩⟩

/-- The model's test of a HOLD's condition, on a record in its ranges. -/
theorem holdMet_iff (h : holdFits condition index state) (n : Lane) (head : OrderHead) (duration : Half) :
    p.holdMet n (orderImage head .hold (holdParams duration condition index state)) = true ↔
      holdIsMet p n condition index state := by
  obtain ⟨-, hcondition, hindex, hstate⟩ := holdImage_fields head duration condition index state
  unfold Part.holdMet holdIsMet
  rw [hcondition, hindex, hstate]
  rcases h with ⟨rfl, hi, -⟩ | ⟨rfl, hi, -⟩ | ⟨rfl, hi, hs⟩ | ⟨rfl | rfl, -, -⟩
  · simp [exists_fin_eq hi]
  · simp [exists_fin_eq hi]
  · have hbit : state = 0 ∨ state = 1 := by
      rcases Nat.lt_or_ge state.toNat 1 with h0 | h1
      · exact Or.inl (BitVec.eq_of_toNat_eq (by simp; omega))
      · exact Or.inr (BitVec.eq_of_toNat_eq (by simp; omega))
    rcases hbit with rfl | rfl <;> simp [exists_fin_eq hi]
  · simp
  · simp

theorem takenPart_holdMet {l : Half} {st : Bool} {image : List Byte} (r : List Byte) :
    (takenPart n l st image p).holdMet n r = p.holdMet n r := by
  simp [Part.holdMet]

theorem takenPart_holdWatched {l : Half} {st : Bool} {image : List Byte} (r : List Byte) :
    (takenPart n l st image p).holdWatched n r = p.holdWatched n r := by
  simp [Part.holdWatched]

/-- A HOLD met at the take ends CONDITION, with no mark counted since. -/
theorem orderHold_ends (h : holdFits condition index state) (hmet : holdIsMet s.part n condition index state) :
    orderHold n (s.withTaken n link head .hold (holdParams duration condition index state)) =
      (s.withTaken n link head .hold (holdParams duration condition index state)).emit
        [.orderEnds n
          { code := .condition, flags := 0, detail := some (condition.setWidth 16), first := some 0,
            second := s.part.holdWatched n (orderImage head .hold (holdParams duration condition index state)) }] := by
  have hmet' : (s.withTaken n link head .hold (holdParams duration condition index state)).holdMet n
      (orderImage head .hold (holdParams duration condition index state)) = true := by
    rw [takenPart_holdMet]
    exact (holdMet_iff h n head duration).2 hmet
  have hmarks : ((s.withTaken n link head .hold (holdParams duration condition index state)).lane n).holdMarks = 0 := by
    rw [takenPart_lane_same]
    rfl
  unfold orderHold holdResult
  rw [takenPart_currentBytes]
  dsimp only
  rw [if_pos hmet', hmarks, takenPart_holdWatched, (holdImage_fields head duration condition index state).2.1]
  rfl

/-- The lane with its HOLD in hand and its duration started. -/
def LaneContext.holds (c : LaneContext) (held : HeldRecord) (duration : Half) : LaneContext :=
  LaneContext.waitsOn { c.taken with holdTimer := if duration = 0 then none else some duration.toNat } held .hold

theorem orderHold_waits (h : holdFits condition index state) (hmet : ¬ holdIsMet s.part n condition index state) :
    orderHold n (s.withTaken n link head .hold (holdParams duration condition index state)) =
      (s.withTaken n link head .hold (holdParams duration condition index state)).setLane n
        ((s.part.lane n).holds (heldBy link head (orderImage head .hold (holdParams duration condition index state))) duration) := by
  have hmet' : ¬ (s.withTaken n link head .hold (holdParams duration condition index state)).holdMet n
      (orderImage head .hold (holdParams duration condition index state)) = true := by
    rw [takenPart_holdMet, holdMet_iff h n head duration]
    exact hmet
  have htimer : startTimer (holdDuration (orderImage head .hold (holdParams duration condition index state))) =
      if duration = 0 then none else some duration.toNat := by
    rw [(holdImage_fields head duration condition index state).1, startTimer]
    exact if_congr (by rw [← BitVec.toNat_inj]; rfl) rfl rfl
  unfold orderHold
  rw [takenPart_currentBytes]
  dsimp only
  rw [if_neg hmet', htimer, laneWaits, Part.setLane_same, Part.setLane_setLane, takenPart_lane_same]
  rfl

/-- A HOLD whose condition is not met keeps its record and its lane waits. -/
theorem hold_waits (h : s.TakesLaneOrder n link head .hold (holdParams duration condition index state))
    (hfits : holdFits condition index state) (hmet : ¬ holdIsMet s.part n condition index state) :
    s.OrderWaits (runOrder n (orderImage head .hold (holdParams duration condition index state)) s) n link head
      (orderImage head .hold (holdParams duration condition index state)) .hold
      (s.part.setLane n { s.part.lane n with holdTimer := if duration = 0 then none else some duration.toNat }) := by
  have hblock := orderHold_waits (link := link) (head := head) (duration := duration) hfits hmet
  have hmid : (s.withTaken n link head .hold (holdParams duration condition index state)).setLane n
      ((s.part.lane n).holds (heldBy link head (orderImage head .hold (holdParams duration condition index state))) duration) =
      midOrder n ((s.part.lane n).holds (heldBy link head (orderImage head .hold (holdParams duration condition index state)))
        duration) (takenCells link head.standing s.part.now) s.part := by
    rw [State.withTaken, takenPart_of h.order.takes, midOrder, Part.setLane, setAt_setAt]
  obtain ⟨htaking, hcomes⟩ := h.to_acts (acts := []) (hblock.trans (emit_nil ..).symm)
  rw [hmid] at hcomes
  refine order_waits h.order.takes h.short htaking (hcomes.trans (drain_emit_nil h.order.takes.quiet.agenda))
    h.order.takes.quiet.agenda (fun _ => ?_) rfl ?_ (fun c => ?_) (fun l hl => midOrder_lane_ne hl) rfl rfl
  · rw [midOrder_currentBytes (held := heldBy link head _) (h := rfl), Bool.eq_false_iff]
    exact fun hholds => hmet ((holdMet_iff hfits n head duration).1 hholds)
  · rw [midOrder_lane, Part.setLane_same]
    rfl
  · rw [Part.setLane_setLane, midOrder]
    refine ⟨rfl, rfl, rfl, rfl, rfl, rfl, rfl, ?_, rfl, rfl, rfl, rfl, rfl, rfl, rfl⟩
    exact setAt_setAt ..

end

/-- Settles O36: the condition is tested at the take, on the deck that the taking left alone. -/
theorem holdMeetsOrWaits : Obligations.HoldMeetsOrWaits := by
  intro s n link head duration condition index state h hfits
  have horder : s.TakesLaneOrder n link head .hold (holdParams duration condition index state) :=
    takesLaneOrder (c := .hold n head duration condition index state) h rfl rfl (holdFits_operands hfits n head duration)
  refine ⟨fun hmet => ?_, fun hmet => ?_⟩
  · exact ⟨_, horder.exec rfl, horder.ends (fun _ => orderHold_ends hfits hmet) (by simp [failure_condition])⟩
  · exact ⟨_, horder.exec rfl, hold_waits horder hfits hmet⟩

end Sys2Proof.Machine
end

section
/-! MARK and HALT LANE (R149, R150). -/

namespace Sys2Proof.Machine

section
variable {s : State} {n : Lane} {link code : Half} {head : OrderHead}

/-- The part with lane `n`'s MARK in hand, its code kept and the lane's slot to be rewritten. -/
def State.marked (s : State) (n : Lane) (link : Half) (head : OrderHead) (code : Half) : Part :=
  { s.part with
    lanes := setAt s.part.lanes n { (s.part.lane n).taken with
      current := some (heldBy link head (orderImage head .mark (halfBytes code))), link := none, lastMark := code },
    writes := takenCells link head.standing s.part.now,
    forced := laneSlot n :: s.part.forced }

/-- What MARK ends with. -/
def markShown (code : Half) : Result := { Result.bare .done with first := some (code.setWidth 32) }

theorem marked_lane : (s.marked n link head code).lane n = { (s.part.lane n).taken with
    current := some (heldBy link head (orderImage head .mark (halfBytes code))), link := none, lastMark := code } :=
  getAt_setAt_same ..

theorem marked_held : ((s.marked n link head code).lane n).current =
    some (heldBy link head (orderImage head .mark (halfBytes code))) := by
  rw [marked_lane]

theorem markShown_success : (markShown code).code.failure = true → head.alternate ≠ 0 := fun hf => by
  rw [show (markShown code).code.failure = false from failure_done] at hf
  cases hf

theorem orderMark_ends (h : s.Takes n link) :
    orderMark n (s.withTaken n link head .mark (halfBytes code)) =
      (s.marked n link head code).emit [.orderEnds n (markShown code)] := by
  unfold orderMark
  rw [takenPart_currentBytes, paramHalf_orderImage, takenPart_lane_same, State.withTaken, takenPart_of h]
  dsimp only
  rw [Part.setLane, setAt_setAt]
  rfl

/-- The event comes to rest where MARK's record has retired and its lane has gone on. -/
theorem mark_rests (h : s.TakesLaneOrder n link head .mark (halfBytes code)) :
    ∃ acts, s.OrderRests n link head .mark (halfBytes code) acts (orderEnds n (markShown code) (s.marked n link head code)) := by
  obtain ⟨htaking, hcomes⟩ := h.to_acts (acts := [.orderEnds n (markShown code)]) (orderMark_ends h.order.takes)
  obtain ⟨_, _, _, _, hends⟩ := orderEnds_leaves (r := markShown code) (marked_held (s := s)) rfl markShown_success
  refine ⟨_, h.order.takes, h.short, htaking, hcomes.trans ?_, ?_, ?_, fun l hl => ?_, ?_, ?_⟩
  · exact drain_ends_among (pre := []) (rest := []) h.order.takes.quiet.agenda marked_held rfl markShown_success (by simp)
      (by simp) (by simp)
  · rw [hends]
    exact h.order.takes.quiet.agenda
  · rw [hends, Part.lane, getAt_setAt_same]
    simp [LaneContext.goesOn]
  · rw [hends]
    exact (getAt_setAt_ne _ _ (Ne.symm hl)).trans (getAt_setAt_ne _ _ (Ne.symm hl))
  · rw [hends]
    rfl
  · rw [hends]
    rfl

theorem marked_forced : laneSlot n ∈ (orderEnds n (markShown code) (s.marked n link head code)).forced := by
  have hsuccess := orderEnds_success (r := markShown code)
    (marked_held (s := s) (n := n) (link := link) (head := head) (code := code)) failure_done
  rw [hsuccess, followLink_forced]
  exact retireCurrent_forced _ (show laneSlot n ∈ laneSlot n :: s.part.forced from List.mem_cons_self ..)

/-- MARK ends with its code kept as the lane's last mark. -/
theorem mark_ends {acts : List Act} (h : s.OrderRests n link head .mark (halfBytes code) acts
    (orderEnds n (markShown code) (s.marked n link head code))) :
    s.OrderEnds (runOrder n (orderImage head .mark (halfBytes code)) s) n link head (markShown code)
      (s.part.setLane n { s.part.lane n with lastMark := code }) := by
  obtain ⟨_, _, _, _, hends⟩ := orderEnds_leaves (r := markShown code) (marked_held (s := s)) rfl markShown_success
  refine order_ends_as (q := s.marked n link head code) (claims := s.part.claims) h.takes h.short h.taking
    (h.comes.trans ?_) h.takes.quiet.agenda (held := heldBy link head _) rfl rfl rfl ?_ (fun c => ?_) markShown_success rfl
    (fun l hl => getAt_setAt_ne _ _ (Ne.symm hl)) rfl rfl
  · rw [hends]
    rfl
  · rw [marked_lane, Part.setLane_same]
    rfl
  · rw [Part.setLane_setLane]
    refine ⟨rfl, rfl, rfl, rfl, rfl, rfl, rfl, ?_, rfl, rfl, rfl, rfl, rfl, rfl, rfl⟩
    exact setAt_setAt ..

theorem slotContent_laneSlot (p : Part) (n : Lane) : p.slotContent (laneSlot n) = p.laneContent n := by
  have hsource : sourceOf (laneSlot n) = .lane n := dif_pos n.isLt
  unfold Part.slotContent
  rw [hsource]

end

/-- Settles O35: the last mark is kept before the record retires, and its lane's slot is forced; HALT LANE stops its lane. -/
theorem markAndHaltLane : Obligations.MarkAndHaltLane := by
  intro s n link head h
  refine ⟨fun code => ?_, fun hnest => ?_⟩
  · have horder : s.TakesLaneOrder n link head .mark (halfBytes code) :=
      takesLaneOrder (c := .mark n head code) h rfl rfl (by simp [operandFields])
    obtain ⟨acts, hrests⟩ := mark_rests horder
    have hends := mark_ends hrests
    refine ⟨_, horder.exec rfl, hends, fun he => ?_⟩
    obtain ⟨hwaiting, hcontent⟩ := hrests.slot he marked_forced
    refine ⟨hwaiting, ?_⟩
    rw [hcontent, slotContent_laneSlot]
    show packHalves (Part.lane _ n).lastMark (Part.lane _ n).retired = _
    rw [hends.follows.lane, Part.setLane_same, Part.setLane_same]
    rfl
  · have horder : s.TakesLaneOrder n link head .haltLane [] :=
      takesLaneOrder (c := .haltLane n head) h rfl rfl (by simp [operandFields])
    exact ⟨_, horder.exec rfl, horder.retires (orderHaltLane_stops hnest) (by simp [LaneContext.stopped])⟩

end Sys2Proof.Machine
end

section
/-! The first check that an order fails (R139). -/

namespace Sys2Proof.Machine

section
variable {n : Lane} {head : OrderHead} {k : OrderKind} {params : List Byte} {p : Part}

/-- The codes of the checks are of the failure class (R141). -/
theorem failure_check {code : ResultCode}
    (h : code = .badRecord ∨ code = .noPlan ∨ code = .authority ∨ code = .mismatch) : code.failure = true := by
  rcases h with rfl | rfl | rfl | rfl
  · decide
  · decide
  · decide
  · decide

theorem takenPart_badField {link : Half} {standing : Bool} {image : List Byte} (r : List Byte) :
    (takenPart n link standing image p).badField r = p.badField r := by
  unfold Part.badField Part.recordChecks
  simp only [takenPart_paramChecks]

theorem expectMet_orderImage (zone : ZoneId) (hz : zone.val = head.expectZone.toNat) :
    p.expectMet (orderImage head k params) =
      (head.expectMask == 0 || head.expectMask.getLsbD (p.zone zone).state.num) := by
  have hzone : Fin.ofNat 12 head.expectZone.toNat = zone := by
    rw [← hz]
    exact Fin.ofNat_val_eq_self zone
  show (head.expectMask == 0 || head.expectMask.getLsbD (p.zone (Fin.ofNat 12 head.expectZone.toNat)).state.num) = _
  rw [hzone]

theorem refusal_badRecord {i : Nat} (h : p.badField (orderImage head k params) = some i) :
    p.refusal n (orderImage head k params) = some (checkRefusal .badRecord i 0) := by
  unfold Part.refusal
  rw [h]

/-- A record with no field out of range goes on to the checks of the plan, of the authority and of the expect precondition. -/
theorem refusal_fields (h : p.badField (orderImage head k params) = none) :
    p.refusal n (orderImage head k params) =
      if p.plan.isNone && !k.needsNoPlan then some (checkRefusal .noPlan k.num 0)
      else if needsBridge (orderImage head k params) k && !(p.lane n).bridge then some (checkRefusal .authority k.num 0)
      else if !p.expectMet (orderImage head k params) then
        some (checkRefusal .mismatch head.expectZone.toNat (p.zone (Fin.ofNat 12 head.expectZone.toNat)).state.num)
      else none := by
  unfold Part.refusal
  rw [h, imageKind_orderImage]
  rfl

theorem refusal_noPlan (h : p.badField (orderImage head k params) = none) (hplan : p.plan = none)
    (hneeds : k.needsNoPlan = false) : p.refusal n (orderImage head k params) = some (checkRefusal .noPlan k.num 0) := by
  rw [refusal_fields h, hplan, hneeds]
  rfl

theorem refusal_planned (h : p.badField (orderImage head k params) = none)
    (hplan : p.plan.isSome = true ∨ k.needsNoPlan = true) :
    p.refusal n (orderImage head k params) =
      if needsBridge (orderImage head k params) k && !(p.lane n).bridge then some (checkRefusal .authority k.num 0)
      else if !p.expectMet (orderImage head k params) then
        some (checkRefusal .mismatch head.expectZone.toNat (p.zone (Fin.ofNat 12 head.expectZone.toNat)).state.num)
      else none := by
  have hpasses : (p.plan.isNone && !k.needsNoPlan) = false := by
    rcases hplan with hsome | hneeds
    · rw [Option.isNone_eq_false_iff.2 hsome, Bool.false_and]
    · rw [hneeds, Bool.not_true, Bool.and_false]
  rw [refusal_fields h, hpasses]
  rfl

theorem refusal_authority (h : p.badField (orderImage head k params) = none)
    (hplan : p.plan.isSome = true ∨ k.needsNoPlan = true) (hneeds : needsBridge (orderImage head k params) k = true)
    (hbridge : (p.lane n).bridge = false) :
    p.refusal n (orderImage head k params) = some (checkRefusal .authority k.num 0) := by
  rw [refusal_planned h hplan, hneeds, hbridge]
  rfl

theorem refusal_mismatch {zone : ZoneId} (h : p.badField (orderImage head k params) = none)
    (hplan : p.plan.isSome = true ∨ k.needsNoPlan = true)
    (hauthority : needsBridge (orderImage head k params) k = false ∨ (p.lane n).bridge = true) (hmask : head.expectMask ≠ 0)
    (hz : zone.val = head.expectZone.toNat) (hstate : head.expectMask.getLsbD (p.zone zone).state.num = false) :
    p.refusal n (orderImage head k params) =
      some (checkRefusal .mismatch head.expectZone.toNat (p.zone zone).state.num) := by
  have hpasses : (needsBridge (orderImage head k params) k && !(p.lane n).bridge) = false := by
    rcases hauthority with hneeds | hbridge
    · rw [hneeds, Bool.false_and]
    · rw [hbridge, Bool.not_true, Bool.and_false]
  have hunmet : p.expectMet (orderImage head k params) = false := by
    rw [expectMet_orderImage zone hz, hstate, Bool.or_false, beq_eq_false_iff_ne]
    exact hmask
  have hzone : Fin.ofNat 12 head.expectZone.toNat = zone := by
    rw [← hz]
    exact Fin.ofNat_val_eq_self zone
  rw [refusal_planned h hplan, hpasses, hunmet, hzone]
  rfl

end

end Sys2Proof.Machine
end
section
/-! What becomes of a lane whose order is refused (R139, R141, R164, R167). -/

namespace Sys2Proof.Machine

/-! ### The slots that an abort has rewritten -/

section
variable {n : Lane} {p : Part} {j : SlotId}

theorem afterAbort_forced (a : AbortRecord) (fallback : Half) : (afterAbort n a fallback p).forced = p.forced := by
  unfold afterAbort
  split
  · rfl
  · split
    · exact followLink_forced ..
    · rfl

theorem abortTest_forced (h : j ∈ p.forced) : j ∈ (abortTest n p).forced := by
  unfold abortTest
  dsimp only
  split
  · split
    · show j ∈ (afterAbort n _ _ _).forced
      rw [afterAbort_forced]
      exact forEach_keeps (P := fun q => j ∈ q.forced) (fun _ _ hq => laneRetires_forced _ (Or.inl hq)) _ _ h
    · exact h
  · exact h

end

/-- Lane `n` takes an order that a check refuses with `r`. -/
structure State.RefusesOrder (s : State) (n : Lane) (link : Half) (head : OrderHead) (k : OrderKind) (params : List Byte)
    (r : Result) : Prop where
  takes   : s.Takes n link
  short   : params.length ≤ 24
  refusal : (s.withTaken n link head k params).refusal n (orderImage head k params) = some r
  failure : r.code.failure = true

section
variable {s : State} {n : Lane} {link : Half} {head : OrderHead} {k : OrderKind} {params : List Byte} {r : Result}

theorem State.Takes.working (h : s.Takes n link) : (s.part.lane n).state = .working := by
  have hnow := h.now
  unfold Part.takesNow at hnow
  dsimp only at hnow
  by_cases hw : (s.part.lane n).state = .working ∧ 0 < (s.part.lane n).budget
  · exact hw.1
  · rw [if_neg hw] at hnow
    cases hnow

theorem withTaken_current (s : State) (n : Lane) (link : Half) (head : OrderHead) (k : OrderKind) (params : List Byte) :
    ((s.withTaken n link head k params).lane n).current = some (heldBy link head (orderImage head k params)) := by
  rw [takenPart_lane_same]

theorem heldBy_alternate (link : Half) (head : OrderHead) (k : OrderKind) (params : List Byte) :
    (heldBy link head (orderImage head k params)).alternate = head.alternate :=
  imageAlternate_orderImage ..

/-- The end of an order of the failure class with no alternate link, in an open group (R141). -/
theorem orderEnds_aborts {held : HeldRecord} {p : Part} (hcur : (p.lane n).current = some held)
    (hfail : r.code.failure = true) (halternate : held.alternate = 0)
    (hnest : ((retireCurrent n r p).lane n).nest ≠ []) :
    orderEnds n r p = nestAbort n .order 0 none none (retireCurrent n r p) := by
  have hopen : ¬ ((retireCurrent n r p).lane n).nest.isEmpty = true := fun hempty => hnest (List.isEmpty_iff.1 hempty)
  unfold orderEnds
  rw [hcur]
  dsimp only
  rw [hfail, if_neg (by simp), if_neg (not_not.2 halternate), if_neg hopen]

namespace State.RefusesOrder

theorem taking (h : s.RefusesOrder n link head k params r) :
    linkTake n (placed s link (orderImage head k params)) s.part =
      (s.withTaken n link head k params).emit [.orderEnds n r] :=
  linkTake_refused h.takes h.short h.refusal

theorem ending (h : s.RefusesOrder n link head k params r) (m : List Host.Cell) :
    drain m Config.agendaBound ((s.withTaken n link head k params).emit [.orderEnds n r]) =
      drain m 65535 (orderEnds n r (s.withTaken n link head k params)) := by
  have hagenda : (s.withTaken n link head k params).agenda = [] := (takenPart_agenda ..).trans h.takes.quiet.agenda
  have hstep := drain_emit (m := m) (n := 65535) (rest := []) (a := .orderEnds n r) hagenda (by simp)
  rw [emit_nil] at hstep
  exact hstep

/-- Where the end of the order sets its lane's context and no more, the event comes to rest there. -/
theorem retires_setLane (h : s.RefusesOrder n link head k params r) {c : LaneContext}
    (hends : orderEnds n r (s.withTaken n link head k params) =
      (retireCurrent n r (s.withTaken n link head k params)).setLane n c) (hc : c.waitKind ≠ some .hold) :
    s.Retires (runOrder n (orderImage head k params) s) n link (retiredOwner head.standing) r (s.part.setLane n c) ∧
      retirementShown s (runOrder n (orderImage head k params) s) n link head := by
  refine order_retires_setLane h.takes h.short h.taking ((h.ending _).trans ?_) hc
  rw [hends]
  obtain ⟨_, _, _, _, _, _, hq, -⟩ := retired_withTaken (head := head) (k := k) (params := params) h.takes r c
  rw [hq]
  exact drain_done h.takes.quiet.agenda

/-- R141: the lane follows the alternate link. -/
theorem goes_on (h : s.RefusesOrder n link head k params r) (halternate : head.alternate ≠ 0) :
    s.OrderEnds (runOrder n (orderImage head k params) s) n link head r s.part ∧
      retirementShown s (runOrder n (orderImage head k params) s) n link head := by
  have hends := (orderEnds_alternate (withTaken_current s n link head k params) h.failure
    (by rwa [heldBy_alternate])).trans (retired_follow ..)
  rw [heldBy_alternate] at hends
  unfold State.OrderEnds
  rw [h.failure, if_pos rfl]
  exact h.retires_setLane hends (by simp [LaneContext.goesOn])

/-- R141: with no alternate link and no open group the lane stops. -/
theorem stops (h : s.RefusesOrder n link head k params r) (halternate : head.alternate = 0)
    (hnest : (s.part.lane n).nest = []) :
    s.Retires (runOrder n (orderImage head k params) s) n link (retiredOwner head.standing) r
        (s.part.setLane n (((s.part.lane n).taken.retiredAt link).stopped .failedOrder)) ∧
      retirementShown s (runOrder n (orderImage head k params) s) n link head := by
  have hends := (orderEnds_stops (withTaken_current s n link head k params) h.failure
    (by rw [heldBy_alternate]; exact halternate) (by rw [retired_lane]; exact hnest)).trans (retired_stop ..)
  exact h.retires_setLane hends (by simp [LaneContext.stopped])

end State.RefusesOrder

/-! ### The abort of the nest (R164, R167) -/

theorem haltAbort_result (cause : AbortCause) (link : Half) :
    (haltAbort cause link).result = Result.of .aborted cause.num 1 (link.setWidth 32) := by
  simp [haltAbort, AbortRecord.result, word]

/-- The lane once the order and the group's record have retired, in the terms of the lane that took the order. -/
theorem haltAborted_letGo (c : LaneContext) (top : Level) (link : Half) :
    haltAborted (c.taken.letGo link) top =
      if top.record.alternate = 0 then LaneContext.stopped
        { c.taken with retired := c.retired + 2, anchor := .record top.record.link, nest := [] } .groupAborted
      else { c.taken.goesOn top.record.link top.record.alternate with
        retired := c.retired + 2, nest := [], abort := none,
        returnAnchor := if top.inDetour then c.returnAnchor else none } := by
  have htwo : c.retired + 1#16 + 1#16 = c.retired + 2#16 := BitVec.add_assoc ..
  unfold haltAborted
  split
  · simp [LaneContext.stopped, LaneContext.retiredAt, LaneContext.letGo, LaneContext.taken, htwo]
  · simp [LaneContext.follows, LaneContext.goesOn, LaneContext.retiredAt, LaneContext.letGo, LaneContext.taken, *]

namespace State.RefusesOrder

/-- R141, R164: with no alternate link in an open group, the refused order retires and its lane's nest aborts. -/
theorem aborting (h : s.RefusesOrder n link head k params r) (halternate : head.alternate = 0) {top : Level}
    (hends : endsAtOnce s.part n top) :
    orderEnds n r (s.withTaken n link head k params) =
      ((retireCurrent n r (s.withTaken n link head k params)).setLane n
        (((s.part.lane n).taken.letGo link).aborting (haltAbort .order link))).emit [.abortTest n] := by
  have hlane := retired_lane (s := s) (n := n) (link := link) (head := head) (k := k) (params := params) r
  have hnest : ((s.part.lane n).taken.letGo link).nest = [top] := hends.nest
  have hstate : ((s.part.lane n).taken.letGo link).state ≠ .aborting := by
    show (s.part.lane n).state ≠ .aborting
    rw [h.takes.working]
    decide
  obtain ⟨_, _, _, ov, oc, fs, hq, -⟩ :=
    retired_withTaken (head := head) (k := k) (params := params) h.takes r ((s.part.lane n).taken.letGo link)
  rw [← hlane, Part.setLane_self] at hq
  rw [orderEnds_aborts (withTaken_current s n link head k params) h.failure (by rw [heldBy_alternate]; exact halternate)
    (by rw [hlane, hnest]; simp)]
  rw [nestAbort_atRest (by rw [hlane]; exact hnest) hends.halts (by rw [hlane]; exact hstate) (by rw [hlane]; rfl)
    (by rw [hq]; exact hends.waiters)
    (by rw [hq]; exact ⟨hends.unwaited.movers, hends.unwaited.doors, hends.unwaited.calls⟩)
    (fun e he => by
      rw [hq] at he ⊢
      exact (hends.steady e he).1), hlane]
  rfl

/-- R167: the nest ends in the event, which comes to rest with both records retired. -/
theorem nest_rests (h : s.RefusesOrder n link head k params r) (halternate : head.alternate = 0) {top : Level}
    (hends : endsAtOnce s.part n top) :
    ∃ d f g dt ft gt ov oc fs,
      s.OrderRests n link head k params [.orderEnds n r]
        { nestEnded s.part n top with
          writes := takenCells link head.standing s.part.now ++
            (retireCells (heldBy link head (orderImage head k params)) r d f g s.part.now ++
              retireCells top.record (haltAbort .order link).result dt ft gt s.part.now),
          forced := fs, openValues := ov, openCount := oc } ∧
      (head.flags.getLsbD 1 = true → laneSlot n ∈ fs) ∧
      (∀ v, r.detail = some v → d = v) ∧ (∀ v, r.first = some v → f = v) ∧ (∀ v, r.second = some v → g = v) ∧
      (∀ v, (haltAbort .order link).result.detail = some v → dt = v) ∧
      (∀ v, (haltAbort .order link).result.first = some v → ft = v) ∧
      (∀ v, (haltAbort .order link).result.second = some v → gt = v) := by
  obtain ⟨p1, hp1⟩ : ∃ p1, p1 = retireCurrent n r (s.withTaken n link head k params) := ⟨_, rfl⟩
  have haborting := h.aborting halternate hends
  have hlane : p1.lane n = (s.part.lane n).taken.letGo link := by
    rw [hp1]
    exact retired_lane r
  obtain ⟨d, f, g, _, _, _, hq, hnotify, h1, h2, h3⟩ :=
    retired_withTaken (head := head) (k := k) (params := params) h.takes r ((s.part.lane n).taken.letGo link)
  rw [← hp1, ← hlane, Part.setLane_self, hlane] at hq
  rw [← hp1] at haborting
  have hnest : ((s.part.lane n).taken.letGo link).nest = [top] := hends.nest
  obtain ⟨dt, ft, gt, ov, oc, fs, htest, t1, t2, t3⟩ :=
    abortTest_atRest (p := p1) (a := haltAbort .order link) hnest rfl (by simp [haltAbort]) fun e he => by
      rw [hq] at he ⊢
      exact hends.steady e he
  have hforced : head.flags.getLsbD 1 = true → laneSlot n ∈ fs := fun hf => by
    have hmem := abortTest_forced (n := n)
      (p := p1.setLane n (((s.part.lane n).taken.letGo link).aborting (haltAbort .order link)))
      (show laneSlot n ∈ p1.forced by rw [hq]; exact hnotify hf)
    rw [htest] at hmem
    exact hmem
  have hagenda : (p1.setLane n (((s.part.lane n).taken.letGo link).aborting (haltAbort .order link))).agenda = [] := by
    rw [hq]
    exact h.takes.quiet.agenda
  refine ⟨d, f, g, dt, ft, gt, ov, oc, fs, ⟨h.takes, h.short, h.taking, (h.ending _).trans ?_, h.takes.quiet.agenda, ?_,
    fun l hl => getAt_setAt_ne _ _ (Ne.symm hl), rfl, rfl⟩, hforced, h1, h2, h3, t1, t2, t3⟩
  · have hperform := fun m => drain_emit (m := m) (n := 65534) (rest := []) (a := .abortTest n) hagenda (by simp)
    rw [haborting, show (65535 : Nat) = 65534 + 1 from rfl, hperform, emit_nil]
    show drain _ (65533 + 1) (abortTest n _) = _
    rw [htest, hq]
    simp only [setAt_setAt, haltAborted_letGo, List.append_assoc]
    exact drain_arbitrate_alone h.takes.quiet.agenda hends.waiters
  · show (getAt (setAt s.part.lanes n _) n).waitKind ≠ _
    rw [getAt_setAt_same, ← haltAborted_letGo _ _ link, haltAborted_waitKind rfl]
    simp

/-- R141, R164, R167: with no alternate link the refused order aborts the nest of a HALT group at rest. -/
theorem nest_ends (h : s.RefusesOrder n link head k params r) (halternate : head.alternate = 0) {top : Level}
    (hends : endsAtOnce s.part n top) (hne : top.record.link ≠ link) :
    s.RetiresBoth (runOrder n (orderImage head k params) s) n top.record.link link (anchorOwner s top)
        (retiredOwner head.standing) (Result.of .aborted 6 1 (link.setWidth 32)) r (nestEnded s.part n top) ∧
      retirementShown s (runOrder n (orderImage head k params) s) n link head := by
  obtain ⟨d, f, g, dt, ft, gt, _, _, _, hrests, hforced, h1, h2, h3, t1, t2, t3⟩ := h.nest_rests halternate hends
  have hbound := slotBase_bound hends.valid
  constructor
  · have hboth := order_retires_both (ha := top.record) (hb := heldBy link head (orderImage head k params)) h.takes h.short
      h.taking hrests.comes hrests.agenda hrests.notHeld rfl hne hends.valid rfl (Or.inr rfl) t1 t2 t3 h1 h2 h3
      hrests.others hrests.generation hrests.port
    rw [hends.clean, haltAbort_result] at hboth
    refine ⟨Part.Follows.trans ?_ hboth.follows, hboth.ownerA, hboth.ownerB, hboth.resultA, hboth.resultB, hboth.keeps,
      hboth.queue, hboth.done⟩
    exact ⟨rfl, rfl, rfl, rfl, rfl, rfl, rfl, rfl, rfl, rfl, rfl, rfl, rfl, rfl, rfl⟩
  · refine hrests.shown (held := heldBy link head (orderImage head k params)) rfl rfl (fun c hc => ?_) hforced
    have hinside := retireCells_inside hc
    exact ⟨slots_apart hne hinside, by omega⟩

end State.RefusesOrder

end

/-- Settles O41: the ranges of the fields, the first check that fails, and the three ways on of the lane. -/
theorem refusedOrderRetires : Obligations.RefusedOrderRetires := by
  refine ⟨fun p c n head k params hc => badField_orderFields hc p, ?_⟩
  intro s c n link head k params code detail first r hc h hr hcheck
  obtain ⟨hfits, hfirst⟩ := badField_orderFields hc s.part
  subst hr
  have hrefuses : s.RefusesOrder n link head k params (checkRefusal code detail first) := by
    refine ⟨h, orderOf_length hc, ?_, ?_⟩
    · rcases hcheck with ⟨hunfit, rfl, rfl⟩ | ⟨hall, hrest⟩
      · exact refusal_badRecord (by rw [takenPart_badField]; exact (hfirst detail).2 hunfit)
      · have hfields : (s.withTaken n link head k params).badField (orderImage head k params) = none :=
          (takenPart_badField _).trans (hfits.2 hall)
        rcases hrest with ⟨hplan, hneeds, rfl, rfl, rfl⟩ | ⟨hplan, hneeds, hbridge, rfl, rfl, rfl⟩ |
          ⟨hplan, hauthority, hmask, rfl, rfl, zone, hz, rfl, hstate⟩
        · exact refusal_noPlan hfields (by rw [takenPart_plan]; exact hplan) hneeds
        · exact refusal_authority hfields (by rw [takenPart_plan]; exact hplan) hneeds (by rw [takenPart_bridge]; exact hbridge)
        · rw [← takenPart_zone n link head.standing (orderImage head k params) s.part zone] at hstate ⊢
          exact refusal_mismatch hfields (by rw [takenPart_plan]; exact hplan) (by rw [takenPart_bridge]; exact hauthority)
            hmask hz hstate
    · refine failure_check (code := code) ?_
      rcases hcheck with ⟨-, hcode, -⟩ | ⟨-, ⟨-, -, hcode, -⟩ | ⟨-, -, -, hcode, -⟩ | ⟨-, -, -, hcode, -⟩⟩ <;> simp [hcode]
  have hexec : exec c s = .next (runOrder n (orderImage head k params) s) := by
    rw [exec_orderOf hc, orderCommand_runs h]
  exact ⟨fun halternate => ⟨_, hexec, hrefuses.goes_on halternate⟩,
    fun halternate hnest => ⟨_, hexec, hrefuses.stops halternate hnest⟩,
    fun top halternate hends hne => ⟨_, hexec, hrefuses.nest_ends halternate hends hne⟩⟩

end Sys2Proof.Machine
end

section
/-! Claim waits (R154, R155): an order that needs an entry which another lane holds, and the end of a wait. -/

namespace Sys2Proof.Machine

/-! ### Open entries and conflicts (R154, R155) -/

section
variable {p : Part} {n h : Lane} {e : EntryId} {need : Word}

theorem openTo_iff {c : Claim} : c.openTo n = true ↔ c.holder = none ∨ c.holder = some n := by
  unfold Claim.openTo
  cases c.holder <;> simp

theorem conflict_none_iff : p.conflict n need = none ↔
    ∀ e : EntryId, need.getLsbD e.val = true → (p.claim e).holder = none ∨ (p.claim e).holder = some n := by
  simp only [Part.conflict, List.find?_eq_none, mem_setEntries, Bool.not_eq_true', Bool.not_eq_false, openTo_iff]

theorem setEntries_entryBit (e : EntryId) : setEntries (entryBit e) = [e] := by
  have hbit : ∀ x : EntryId, inSet (entryBit e) x = (x == e) := fun x => by
    rw [inSet, entryBit_getLsbD e x.val x.isLt, Bool.eq_iff_iff, decide_eq_true_iff, beq_iff_eq, eq_comm, Fin.ext_iff]
  have hone : ∀ e : EntryId, (List.finRange 32).filter (· == e) = [e] := by decide
  rw [setEntries, List.filter_congr fun x _ => hbit x, hone]

/-- An entry that another lane holds is the conflict of a need of it alone. -/
theorem conflict_entryBit (hh : (p.claim e).holder = some h) (hne : h ≠ n) : p.conflict n (entryBit e) = some e := by
  have hheld : (p.claim e).openTo n = false := by
    rw [Bool.eq_false_iff, Ne, openTo_iff, hh]
    simp [hne]
  rw [Part.conflict, setEntries_entryBit, List.find?_singleton, hheld]
  rfl

/-- R155: what a claim wait that runs out shows. -/
def claimTimedOut (e : EntryId) (h : Lane) : Result :=
  { Result.bare .claimTimeout with detail := some (BitVec.ofNat 16 e.val), first := some (word h.val) }

theorem timeoutResult_eq (hc : p.conflict n need = some e) (hh : (p.claim e).holder = some h) :
    p.timeoutResult n need = claimTimedOut e h := by
  simp [Part.timeoutResult, claimTimedOut, hc, hh]

/-! ### The wait (R155) -/

/-- The waiter of a lane whose wait begins now. -/
def Part.waiterNow (p : Part) (n : Lane) (need : Word) (isGroup : Bool) : Waiter :=
  { lane := n, need := need, isGroup := isGroup, start := p.claimTicks, timer := p.inForce.header.claimWait }

theorem waitForClaim_waits {isGroup : Bool} (hl : p.inForce.header.claimWait ≠ 0) :
    waitForClaim n need isGroup p = laneWaits n .claim
      { p with waiters := insertWaiter p.claimTicks (p.waiterNow n need isGroup) p.waiters } :=
  if_neg hl

theorem waitForClaim_ends {isGroup : Bool} (hl : p.inForce.header.claimWait = 0) :
    waitForClaim n need isGroup p = p.emit [.orderEnds n (p.timeoutResult n need)] :=
  if_pos hl

/-- R154: an order of a lane of no open group waits for an entry which another lane holds. -/
theorem passOrder_waits (hnest : (p.lane n).nest = []) (hentry : p.claimEntry (p.currentBytes n) = some e)
    (hh : (p.claim e).holder = some h) (hne : h ≠ n) : passOrder n p = waitForClaim n (entryBit e) false p := by
  have hheld : ¬ (p.claim e).openTo n = true := by
    rw [openTo_iff, hh]
    simp [hne]
  unfold passOrder
  rw [hentry, hnest]
  dsimp only
  rw [List.isEmpty_nil, if_pos rfl, if_neg hheld]

end

/-! ### The order's event -/

section
variable {s : State} {n : Lane} {link : Half} {head : OrderHead} {k : OrderKind} {params : List Byte} {acts : List Act}
  {after : List Waiter} {r : Result}

/-- An order whose event comes to rest where its lane waits for a claim. -/
theorem order_waitsForClaim (h : s.Takes n link) (hl : params.length ≤ 24)
    (htaking : linkTake n (placed s link (orderImage head k params)) s.part = (s.withTaken n link head k params).emit acts)
    (hcomes : drain (placed s link (orderImage head k params)) Config.agendaBound
      ((s.withTaken n link head k params).emit acts) =
        laneWaits n .claim { s.withTaken n link head k params with waiters := after }) :
    s.OrderWaits (runOrder n (orderImage head k params) s) n link head (orderImage head k params) .claim
      { s.part with waiters := after } := by
  have htaken := takenPart_of h head.standing (orderImage head k params)
  refine order_waits h hl htaking hcomes ?_ (fun e => by cases e) ?_ ?_ (fun c => ?_) (fun l hne => ?_) ?_ ?_
  all_goals rw [State.withTaken, htaken]
  · exact h.quiet.agenda
  · rfl
  · simp [laneWaits, Part.lane, Part.setLane, LaneContext.waitsOn]
  · refine ⟨rfl, rfl, rfl, rfl, rfl, rfl, rfl, ?_, rfl, rfl, rfl, rfl, rfl, rfl, rfl⟩
    simp [laneWaits, Part.setLane]
  · simp [laneWaits, Part.lane, Part.setLane, Ne.symm hne]
  · rfl
  · rfl

/-- An order that passes its checks reaches the Claim Table. -/
theorem order_to_pass (h : s.TakesOrder n link head) (hl : params.length ≤ 24)
    (hc : ∀ c ∈ s.part.paramChecks (orderImage head k params) k, c.2 = true) (hplan : s.part.plan.isSome = true)
    (hb : needsBridge (orderImage head k params) k = true → (s.part.lane n).bridge = true) :
    linkTake n (placed s link (orderImage head k params)) s.part = (s.withTaken n link head k params).emit [.passOrder n] ∧
      drain (placed s link (orderImage head k params)) Config.agendaBound
          ((s.withTaken n link head k params).emit [.passOrder n]) =
        drain (placed s link (orderImage head k params)) 65535 (passOrder n (s.withTaken n link head k params)) := by
  refine ⟨linkTake_placed h.takes hl (refusal_none hl (headPasses_taken h.passes) ?_ ?_ ?_), ?_⟩
  · rw [takenPart_paramChecks]
    exact hc
  · simpa using Or.inl hplan
  · simpa using hb
  · have hagenda : (s.withTaken n link head k params).agenda = [] := (takenPart_agenda ..).trans h.takes.quiet.agenda
    rw [show Config.agendaBound = 65535 + 1 from rfl, drain_emit hagenda (by simp), emit_nil]
    rfl

/-- An order that the Claim Table ends, with the deck as it was. -/
theorem order_ends_at_pass (h : s.TakesOrder n link head) (hl : params.length ≤ 24)
    (hc : ∀ c ∈ s.part.paramChecks (orderImage head k params) k, c.2 = true) (hplan : s.part.plan.isSome = true)
    (hb : needsBridge (orderImage head k params) k = true → (s.part.lane n).bridge = true)
    (hpass : passOrder n (s.withTaken n link head k params) = (s.withTaken n link head k params).emit [.orderEnds n r])
    (ha : r.code.failure = true → head.alternate ≠ 0) :
    s.OrderEnds (runOrder n (orderImage head k params) s) n link head r s.part := by
  obtain ⟨htaking, hcomes⟩ := order_to_pass h hl hc hplan hb
  have hagenda : (s.withTaken n link head k params).agenda = [] := (takenPart_agenda ..).trans h.takes.quiet.agenda
  have hcur := withTaken_current s n link head k params
  have hstep := drain_emit (m := placed s link (orderImage head k params)) (n := 65534) (rest := []) hagenda
    (a := .orderEnds n r) (by simp)
  obtain ⟨ws, ov, oc, fs, hleaves⟩ := orderEnds_leaves (r := r) hcur rfl ha
  have hrest : (orderEnds n r (s.withTaken n link head k params)).agenda = [] := by
    rw [hleaves]
    exact hagenda
  refine order_ends_as (q := s.withTaken n link head k params) (claims := (s.withTaken n link head k params).claims) h.takes
    hl htaking (hcomes.trans ?_) hagenda rfl rfl rfl (takenPart_lane_same ..) (fun c => ?_) ha ?_
    (fun l hne => takenPart_lane_ne _ _ _ _ _ hne) (takenPart_generation ..) (by rw [takenPart_port])
  · rw [hpass, hstep, emit_nil]
    exact (drain_done hrest).trans (by rw [hleaves])
  · rw [State.withTaken, takenPart_of h.takes]
    refine ⟨rfl, rfl, rfl, rfl, rfl, rfl, rfl, ?_, rfl, rfl, rfl, rfl, rfl, rfl, rfl⟩
    simp [Part.setLane]
  · rw [State.withTaken, takenPart_of h.takes]

end

/-! ### The statement -/

/-- The entry that an order of R154 needs, by the index of its first parameter byte. -/
theorem claimEntry_orderImage {p : Part} {head : OrderHead} {k : OrderKind} {b : Byte} {rest : List Byte} {e : EntryId}
    (h : (∃ m : MoverId, b.toNat = m.val ∧ (k = .move ∨ k = .stopMover ∨ k = .floatRamp) ∧ e = p.entryOfMover m) ∨
      (∃ d : DoorId, b.toNat = d.val ∧ (k = .closeDoor ∨ k = .openDoor ∨ k = .forceClose) ∧ e = doorEntry d)) :
    p.claimEntry (orderImage head k (b :: rest)) = some e := by
  have hbyte : ∀ x : Nat, b.toNat = x → b = BitVec.ofNat 8 x := fun x hx =>
    BitVec.eq_of_toNat_eq (by rw [← hx, BitVec.toNat_ofNat, Nat.mod_eq_of_lt b.isLt])
  unfold Part.claimEntry
  rw [imageKind_orderImage]
  rcases h with ⟨m, hm, hk, rfl⟩ | ⟨d, hd, hk, rfl⟩
  · rw [hbyte _ hm, paramMover_orderImage]
    rcases hk with rfl | rfl | rfl <;> rfl
  · rw [hbyte _ hd, paramDoor_orderImage]
    rcases hk with rfl | rfl | rfl <;> rfl

theorem claimWait_begins : claimWaitBegins := by
  intro s c n h link head k b rest e ht hc hplan hfits hbridge he hnest hholder hne
  have hlength := orderOf_length hc
  have hparams : ∀ f ∈ s.part.paramChecks (orderImage head k (b :: rest)) k, f.2 = true :=
    (paramChecks_operandFields hc s.part).all_pass.2 fun f hf =>
      (badField_orderFields hc s.part).1.1 hfits f (List.mem_append_right _ hf)
  have hbr : needsBridge (orderImage head k (b :: rest)) k = true → (s.part.lane n).bridge = true := by
    intro hb
    rcases he with ⟨_, -, hk, -⟩ | ⟨_, -, hk, -⟩
    · rcases hk with rfl | rfl | rfl <;> cases hb
    · rcases hk with rfl | rfl | rfl
      · cases hb
      · cases hb
      · exact hbridge rfl
  have hentry := claimEntry_orderImage (head := head) (rest := rest) he
  have hpass : passOrder n (s.withTaken n link head k (b :: rest)) =
      waitForClaim n (entryBit e) false (s.withTaken n link head k (b :: rest)) :=
    passOrder_waits (by rw [takenPart_nest, hnest]) (by rw [takenPart_currentBytes, takenPart_claimEntry, hentry])
      (by rw [takenPart_claim, hholder]) hne
  have hlimit : (s.withTaken n link head k (b :: rest)).inForce = s.part.inForce := takenPart_inForce ..
  have hexec := exec_order ht hc
  refine ⟨fun hwait hw => ⟨_, hexec, ?_⟩, fun hwait halternate => ⟨_, hexec, ?_⟩⟩
  · obtain ⟨htaking, hcomes⟩ := order_to_pass ht hlength hparams hplan hbr
    refine order_waitsForClaim ht.takes hlength htaking (hcomes.trans ?_)
    have hlist : insertWaiter (s.withTaken n link head k (b :: rest)).claimTicks
        ((s.withTaken n link head k (b :: rest)).waiterNow n (entryBit e) false)
        (s.withTaken n link head k (b :: rest)).waiters = [s.part.waiterNow n (entryBit e) false] := by
      rw [takenPart_waiters, hw, Part.waiterNow, hlimit, takenPart_claimTicks]
      rfl
    rw [hpass, waitForClaim_waits (by rwa [hlimit]), drain_done (by exact (takenPart_agenda ..).trans ht.takes.quiet.agenda),
      hlist]
    rfl
  · refine order_ends_at_pass ht hlength hparams hplan hbr ?_ fun _ => halternate
    have hclaim : (s.withTaken n link head k (b :: rest)).claim e = s.part.claim e := takenPart_claim ..
    rw [hpass, waitForClaim_ends (by rwa [hlimit]),
      timeoutResult_eq (conflict_entryBit (by rw [hclaim, hholder]) hne) (by rw [hclaim, hholder])]
    rfl

/-- CLAIM_WAIT_EXPIRY of a waiter whose time has run out. -/
theorem exec_claimWaitExpiry {s : State} {n : Lane} {w : Waiter} (h : s.Quiet) (hw : s.part.waiterOf n = some w)
    (ht : w.timer = 0) : exec (.claimWaitExpiry n) s = .next (runLocal (claimWaitExpiry n) s) := by
  have hdue : claimWaitDue n s.part = true := by
    unfold claimWaitDue
    rw [hw]
    simp [ht]
  show Host.Outcome.next (unlessReset (claimTick n) s) = _
  rw [unlessReset_quiet h, claimTick, runWhen_due hdue]

/-- Settles O24: the wait's beginning at the Claim Table, its limit of 0, and its expiry. -/
theorem claimWaitExpiryEndsOrder : Obligations.ClaimWaitExpiryEndsOrder := by
  refine ⟨claimWait_begins, ?_⟩
  intro s n held w e h hquiet hw htimer hcur hvalid hclean halternate hconflict hholder
  have hexpires : claimWaitExpiry n s.part = Part.emit [.orderEnds n (claimTimedOut e h)]
      { s.part with waiters := s.part.waiters.filter (fun x => x.lane != n) } := by
    unfold claimWaitExpiry
    rw [hw]
    dsimp only
    rw [timeoutResult_eq hconflict hholder]
  exact ⟨_, exec_claimWaitExpiry hquiet hw htimer,
    local_ends (r := claimTimedOut e h) (.weaken hquiet) hvalid hclean hcur hexpires
      (Or.inr ⟨failure_claimTimeout, halternate, rfl⟩)⟩

end Sys2Proof.Machine
end

section
/-! Group orders at the Lane Engine, and GROUP CLOSE of a lane's only level (R158, R162). -/

namespace Sys2Proof.Machine

/-! ### An order of a group -/

/-- The kinds of a group. -/
def OrderKind.ofGroup : OrderKind → Bool
  | .groupOpen | .groupClose | .abortGroup => true
  | _ => false

/-- What such an order does at its block. -/
def OrderKind.groupWork (k : OrderKind) (n : Lane) (p : Part) : Part :=
  match k with
  | .groupOpen => orderGroupOpen n p
  | .groupClose => orderGroupClose n p
  | .abortGroup => orderAbortGroup n p
  | _ => p

/-- Lane `n` takes a group order with these parameters now, and its record passes the checks. -/
structure State.TakesGroupOrder (s : State) (n : Lane) (link : Half) (head : OrderHead) (k : OrderKind)
    (params : List Byte) : Prop where
  order : s.TakesOrder n link head
  kind  : k.ofGroup = true
  short : params.length ≤ 24
  fits  : ∀ c ∈ s.part.paramChecks (orderImage head k params) k, c.2 = true
  plan  : s.part.plan.isSome = true

section
variable {s : State} {n : Lane} {link : Half} {head : OrderHead} {k : OrderKind} {params : List Byte} {acts : List Act}
  {p q : Part} {r : Result} {m : List Host.Cell}

theorem blockOrder_group (hk : k.ofGroup = true) (hb : q.currentBytes n = orderImage head k params) :
    blockOrder n m q = k.groupWork n q := by
  unfold blockOrder
  rw [hb, imageKind_orderImage]
  cases k with
  | groupOpen | groupClose | abortGroup => rfl
  | _ => cases hk

/-- An order whose operands are in their ranges. -/
theorem takesGroupOrder {c : Instr} (h : s.TakesOrder n link head) (hplan : s.part.plan.isSome = true)
    (hc : orderOf c = some (n, head, k, params)) (hk : k.ofGroup = true) (hfits : ∀ f ∈ operandFields s.part c, f.2) :
    s.TakesGroupOrder n link head k params :=
  ⟨h, hk, orderOf_length hc, (paramChecks_operandFields hc s.part).all_pass.2 hfits, hplan⟩

namespace State.TakesGroupOrder

theorem exec (h : s.TakesGroupOrder n link head k params) {c : Instr} (hc : orderOf c = some (n, head, k, params)) :
    Machine.exec c s = .next (runOrder n (orderImage head k params) s) :=
  exec_order h.order hc

theorem needsNothing (h : s.TakesGroupOrder n link head k params) :
    needsBridge (orderImage head k params) k = false ∧ s.part.claimEntry (orderImage head k params) = none := by
  have hk := h.kind
  unfold Part.claimEntry
  rw [imageKind_orderImage]
  cases k with
  | groupOpen | groupClose | abortGroup => exact ⟨rfl, rfl⟩
  | _ => cases hk

theorem agenda (h : s.TakesGroupOrder n link head k params) : (s.withTaken n link head k params).agenda = [] :=
  (takenPart_agenda ..).trans h.order.takes.quiet.agenda

/-- The order goes on to its block, and then to what the block asks for. -/
theorem to_acts (h : s.TakesGroupOrder n link head k params)
    (hwork : k.groupWork n (s.withTaken n link head k params) = q.emit acts) :
    linkTake n (placed s link (orderImage head k params)) s.part = (s.withTaken n link head k params).emit [.passOrder n] ∧
      drain (placed s link (orderImage head k params)) Config.agendaBound
          ((s.withTaken n link head k params).emit [.passOrder n]) =
        drain (placed s link (orderImage head k params)) 65534 (q.emit acts) := by
  obtain ⟨hbridge, hclaim⟩ := h.needsNothing
  exact order_to_acts h.order h.short h.fits (.inl h.plan) (by rw [hbridge]; simp) hclaim
    ((blockOrder_group h.kind (takenPart_currentBytes ..)).trans hwork)

/-- An order that its block ends, with the deck as it was. -/
theorem ends (h : s.TakesGroupOrder n link head k params)
    (hwork : k.groupWork n (s.withTaken n link head k params) = (s.withTaken n link head k params).emit [.orderEnds n r])
    (ha : r.code.failure = true → head.alternate ≠ 0) :
    s.OrderEnds (runOrder n (orderImage head k params) s) n link head r s.part := by
  obtain ⟨hbridge, hclaim⟩ := h.needsNothing
  exact order_done_taken h.order h.short h.fits (.inl h.plan) (by rw [hbridge]; simp) hclaim
    (fun m => (blockOrder_group h.kind (takenPart_currentBytes ..)).trans hwork) ha rfl rfl rfl rfl rfl rfl

end State.TakesGroupOrder

end

/-! ### The records that an event retires -/

/-- A record that retires with result `r` shows these values (Table 6-5). -/
structure Result.ShownAs (r : Result) (detail : Half) (first second : Word) : Prop where
  detail : ∀ v, r.detail = some v → detail = v
  first  : ∀ v, r.first = some v → first = v
  second : ∀ v, r.second = some v → second = v

/-- The event of an order that retires it and the record of its lane's only level. -/
theorem order_retires_level {s : State} {n : Lane} {link : Half} {head : OrderHead} {k : OrderKind} {params : List Byte}
    {acts : List Act} {top : Level} {p q : Part} {c : LaneContext} {ra rb : Result} {da db : Half} {fa ga fb gb : Word}
    (h : s.Takes n link) (hl : params.length ≤ 24)
    (htaking : linkTake n (placed s link (orderImage head k params)) s.part = (s.withTaken n link head k params).emit acts)
    (hcomes : drain (placed s link (orderImage head k params)) Config.agendaBound
      ((s.withTaken n link head k params).emit acts) = q)
    (hagenda : q.agenda = []) (hlanes : q.lanes = setAt s.part.lanes n c) (hc : c.waitKind ≠ some .hold)
    (hne : top.record.link ≠ link) (hvalid : linkValid top.record.link = true) (hclean : top.record.clamped = false)
    (hw : q.writes = takenCells link head.standing s.part.now ++ (retireCells top.record ra da fa ga s.part.now ++
          retireCells (heldBy link head (orderImage head k params)) rb db fb gb s.part.now) ∨
      q.writes = takenCells link head.standing s.part.now ++
        (retireCells (heldBy link head (orderImage head k params)) rb db fb gb s.part.now ++
          retireCells top.record ra da fa ga s.part.now))
    (ha : ra.ShownAs da fa ga) (hb : rb.ShownAs db fb gb) (hg : q.generation = s.part.generation)
    (hport : q.port.partState = s.part.port.partState) (hp : p.Follows q) :
    s.RetiresBoth (runOrder n (orderImage head k params) s) n top.record.link link (anchorOwner s top)
      (retiredOwner head.standing) ra rb p := by
  have hlane : ∀ l, q.lane l = if n = l then c else s.part.lane l := fun l => by
    rw [Part.lane, hlanes]
    exact getAt_setAt ..
  have hboth := order_retires_both (hb := heldBy link head (orderImage head k params)) h hl htaking hcomes hagenda
    (by rw [hlane, if_pos rfl]; exact hc) rfl hne hvalid rfl hw ha.detail ha.first ha.second hb.detail hb.first hb.second
    (fun l hl => by rw [hlane, if_neg (Ne.symm hl)]) hg hport
  rw [hclean] at hboth
  exact ⟨hp.trans hboth.follows, hboth.ownerA, hboth.ownerB, hboth.resultA, hboth.resultB, hboth.keeps, hboth.queue,
    hboth.done⟩

/-! ### The end of the outermost level (R162) -/

/-- The claims with those of lane `n`'s nest given back. -/
def nestFreed (n : Lane) (claims : Vector Claim 32) : Vector Claim 32 :=
  mapAll (fun c => if c.inNest n then Claim.free else c) claims

theorem nestEntries_freed {p : Part} {n : Lane} {claims : Vector Claim 32} (h : p.claims = nestFreed n claims) :
    p.nestEntries n = [] := by
  unfold Part.nestEntries
  rw [List.filter_eq_nil_iff]
  intro e _
  rw [Part.claim, h, nestFreed, getAt_mapAll]
  split
  · simp [Claim.inNest, Claim.free]
  · assumption

/-- R162: what the record of a GROUP OPEN shows whose level, the only one, has closed, and what that of the GROUP CLOSE. -/
def levelClosed (top : Level) : Result := { Result.bare .done with detail := some 1, first := some top.opened }

def groupClosed : Result := { Result.bare .done with detail := some 1, first := some 0 }

/-- The context of a lane whose only level `top` has closed, its record retired. -/
def LaneContext.closes (c : LaneContext) (top : Level) : LaneContext :=
  { c with nest := [], retired := c.retired + 1, anchor := .record top.record.link }

theorem closeLevel_outermost {p : Part} {n : Lane} {top : Level} (hnest : (p.lane n).nest = [top]) :
    ∃ d f g ov oc fs,
      closeLevel n p =
        ({ p with lanes := setAt p.lanes n ((p.lane n).closes top), claims := nestFreed n p.claims,
                  writes := p.writes ++ retireCells top.record (levelClosed top) d f g p.now,
                  forced := fs, openValues := ov, openCount := oc } : Part).emit [.arbitrate, .orderEnds n groupClosed] ∧
      (levelClosed top).ShownAs d f g := by
  obtain ⟨p1, hp1⟩ : ∃ p1, p1 = (releaseWhere (fun c => c.inNest n) (p.setLane n { p.lane n with nest := [] })).emit
      [.arbitrate] := ⟨_, rfl⟩
  obtain ⟨d, f, g, ov, oc, fs, hretired, h1, h2, h3⟩ := laneRetires_eq n top.record (levelClosed top) p1
  refine ⟨d, f, g, ov, oc, fs, ?_, h1, h2, h3⟩
  have hleft : (laneRetires n top.record (levelClosed top) p1).nestEntries n = [] :=
    nestEntries_freed (claims := p.claims) (by rw [hretired, hp1]; rfl)
  have hcloses : closeLevel n p = (laneRetires n top.record (levelClosed top) p1).emit [.orderEnds n
      { Result.bare .done with detail := some 1,
                               first := some (setOf ((laneRetires n top.record (levelClosed top) p1).nestEntries n)) }] := by
    unfold closeLevel
    rw [hp1]
    simp only [hnest]
    rfl
  rw [hcloses, hleft, hretired, hp1]
  simp [releaseWhere, Part.emit, Part.setLane, Part.lane, nestFreed, LaneContext.closes, groupClosed, setOf, Part.now]

theorem closes_goesOn (c : LaneContext) (top : Level) (link next : Half) :
    (c.closes top).goesOn link next = { c.goesOn link next with retired := c.retired + 2, nest := [] } := by
  have htwo : c.retired + 1#16 + 1#16 = c.retired + 2#16 := BitVec.add_assoc ..
  simp [LaneContext.closes, LaneContext.goesOn, htwo]

/-- The event of a GROUP CLOSE comes to rest with both records retired. -/
theorem groupClose_rests {p : Part} {n : Lane} {top : Level} {held : HeldRecord} (hnest : (p.lane n).nest = [top])
    (hcur : (p.lane n).current = some held) (hagenda : p.agenda = []) (hw : p.waiters = []) (m : List Host.Cell) (b : Nat) :
    ∃ d f g d' f' g' ov oc fs,
      drain m (b + 3) (closeLevel n p) =
        { p with lanes := setAt p.lanes n (((p.lane n).closes top).goesOn held.link held.next),
                 claims := nestFreed n p.claims,
                 writes := p.writes ++ (retireCells top.record (levelClosed top) d f g p.now ++
                   retireCells held groupClosed d' f' g' p.now),
                 forced := fs, openValues := ov, openCount := oc } ∧
      (levelClosed top).ShownAs d f g ∧ groupClosed.ShownAs d' f' g' := by
  obtain ⟨d, f, g, ov, oc, fs, hcloses, htop⟩ := closeLevel_outermost hnest
  obtain ⟨q, hq⟩ : ∃ q : Part, q = { p with
      lanes := setAt p.lanes n ((p.lane n).closes top), claims := nestFreed n p.claims,
      writes := p.writes ++ retireCells top.record (levelClosed top) d f g p.now,
      forced := fs, openValues := ov, openCount := oc } := ⟨_, rfl⟩
  have hlane : q.lane n = (p.lane n).closes top := by
    rw [hq]
    exact getAt_setAt_same ..
  have hqcur : (q.lane n).current = some held := by
    rw [hlane]
    exact hcur
  have hqagenda : q.agenda = [] := by
    rw [hq]
    exact hagenda
  obtain ⟨d', f', g', ov', oc', fs', hends, hheld⟩ := retire_follow_eq groupClosed held.next hqcur
  have hends := (orderEnds_success (r := groupClosed) hqcur rfl).trans hends
  refine ⟨d, f, g, d', f', g', ov', oc', fs', ?_, htop, hheld.1, hheld.2.1, hheld.2.2⟩
  rw [hcloses, ← hq, drain_arbitrate_last hqagenda (by simp) (by simp), List.singleton_append,
    drain_emit hqagenda (by simp)]
  show drain m (b + 1) ((orderEnds n groupClosed q).emit [.arbitrate]) = _
  refine (drain_arbitrate_alone (by rw [hends]; exact hqagenda) (by rw [hends, hq]; exact hw)).trans ?_
  rw [hends, hlane, hq]
  simp [setAt_setAt, Part.now]

/-- R162: with the actuators of the innermost level at rest the level closes at once. -/
theorem orderGroupClose_steady {p : Part} {n : Lane} {top : Level} (hnest : (p.lane n).nest = [top])
    (hsteady : ∀ e ∈ setEntries top.claimSet, p.steady e = true) : orderGroupClose n p = closeLevel n p := by
  have hlevel : p.levelSteady n = true := by
    unfold Part.levelSteady
    rw [hnest]
    exact List.all_eq_true.2 hsteady
  unfold orderGroupClose
  rw [hnest, hlevel]
  rfl

/-! ### The statement -/

/-- R162: at depth 1, with the level's actuators at rest and no waiter, the level ends in the event. -/
theorem groupClose_ends {s : State} {n : Lane} {link : Half} {head : OrderHead} {top : Level}
    (h : s.TakesGroupOrder n link head .groupClose []) (hnest : (s.part.lane n).nest = [top]) (hne : top.record.link ≠ link)
    (hvalid : linkValid top.record.link = true) (hclean : top.record.clamped = false)
    (hsteady : ∀ e ∈ setEntries top.claimSet, s.part.steady e = true) (hw : s.part.waiters = []) :
    s.RetiresBoth (runOrder n (orderImage head .groupClose []) s) n top.record.link link (anchorOwner s top)
      (retiredOwner head.standing) (levelClosed top) groupClosed
      (Part.setLane n { (s.part.lane n).taken.goesOn link head.next with retired := (s.part.lane n).retired + 2, nest := [] }
        { s.part with claims := nestFreed n s.part.claims }) := by
  obtain ⟨T, hT⟩ : ∃ T, T = s.withTaken n link head .groupClose [] := ⟨_, rfl⟩
  have hTeq := hT.trans (takenPart_of h.order.takes head.standing (orderImage head .groupClose []))
  have hTlane := (congrArg (fun q => Part.lane q n) hT).trans (takenPart_lane_same ..)
  have hTnest : (T.lane n).nest = [top] := by rw [hTlane]; exact hnest
  have hwork : orderGroupClose n T = closeLevel n T := by
    refine orderGroupClose_steady hTnest fun e he => ?_
    rw [← hsteady e he, hTeq]
    rfl
  obtain ⟨htaking, hcomes⟩ := h.to_acts (q := closeLevel n T) (acts := []) (by rw [emit_nil, ← hwork, hT]; rfl)
  obtain ⟨d, f, g, d', f', g', ov, oc, fs, hrests, htop, hheld⟩ :=
    groupClose_rests hTnest (by rw [hTlane]) (by rw [hTeq]; exact h.order.takes.quiet.agenda)
      (by rw [hTeq]; exact hw) (placed s link (orderImage head .groupClose [])) 65531
  have hnext : HeldRecord.next (heldBy link head (orderImage head .groupClose [])) = head.next := imageNext_orderImage ..
  rw [closes_goesOn, hnext] at hrests
  refine order_retires_level h.order.takes h.short htaking (hcomes.trans ((congrArg _ (emit_nil _)).trans hrests)) ?_
    (c := { (s.part.lane n).taken.goesOn link head.next with retired := (s.part.lane n).retired + 2, nest := [] })
    ?_ ?_ hne hvalid hclean (.inl ?_) htop hheld ?_ ?_ ?_
  · rw [hTeq]
    exact h.order.takes.quiet.agenda
  · rw [hTlane, hTeq]
    exact setAt_setAt ..
  · simp [LaneContext.goesOn]
  · rw [hTeq]
    rfl
  · rw [hTeq]
  · rw [hTeq]
  · rw [hTlane, hTeq]
    refine ⟨rfl, rfl, rfl, rfl, rfl, rfl, rfl, ?_, rfl, rfl, rfl, rfl, rfl, rfl, rfl⟩
    exact setAt_setAt ..

/-- Settles O58: the lane's nest is empty, or holds one level at rest. -/
theorem groupCloseReleases : Obligations.GroupCloseReleases := by
  intro s n link head h hplan
  have htakes : s.TakesGroupOrder n link head .groupClose [] :=
    takesGroupOrder h hplan (c := .groupClose n head) rfl rfl (by simp [operandFields])
  have hexec := htakes.exec (c := .groupClose n head) rfl
  refine ⟨fun hnest ha => ⟨_, hexec, htakes.ends ?_ fun _ => ha⟩,
    fun top hnest hne hvalid hclean hsteady hw => ⟨_, hexec, groupClose_ends htakes hnest hne hvalid hclean hsteady hw⟩⟩
  show orderGroupClose n _ = _
  unfold orderGroupClose
  rw [takenPart_nest, hnest]
  rfl

end Sys2Proof.Machine
end

section
/-! GROUP OPEN: the claims that it takes, its wait, and the grant at a release (R155 to R161). -/

namespace Sys2Proof.Machine

/-! ### The level that a GROUP OPEN adds (R159 to R161) -/

/-- The context of a lane whose GROUP OPEN, the record `held`, has opened its level over `claimSet`. -/
def LaneContext.opens (c : LaneContext) (held : HeldRecord) (claimSet : Word) : LaneContext :=
  { c with
    state := if held.next = 0 then .resting else .working, current := none,
    link := if held.next = 0 then none else some held.next, anchor := .record held.link, waitKind := none, holdTimer := none,
    nest := { record := held, opened := claimSet, claimSet := claimSet, returns := groupReturns held.bytes,
              inDetour := c.returnAnchor.isSome } :: c.nest }

/-- The claims once lane `n` has taken those entries of the set which its nest did not hold. -/
def groupTaken (n : Lane) (level : Nat) (claimSet : Word) (p : Part) : Vector Claim 32 :=
  tableOf 32 (fun e =>
    if claimSet.getLsbD e.val = true ∧ (p.claim e).inNest n = false then groupClaim n level p e else p.claim e)

section
variable {p : Part} {n : Lane} {held : HeldRecord} {claimSet : Word}

theorem groupTaken_claim (level : Nat) (e : EntryId) : getAt (groupTaken n level claimSet p) e =
    if claimSet.getLsbD e.val = true ∧ (p.claim e).inNest n = false then groupClaim n level p e else p.claim e :=
  getAt_tableOf ..

theorem takeGroup_set (level : Nat) : forEach (setEntries claimSet) (takeGroup n level) p =
    { p with claims := groupTaken n level claimSet p } := by
  rw [takeGroup_loop, groupTaken]
  simp only [mem_setEntries]

theorem openGroup_eq (hcur : (p.lane n).current = some held) (hset : p.normalSet (groupSet held.bytes) = claimSet) :
    openGroup n p = Part.setLane n ((p.lane n).opens held claimSet)
      { p with claims := groupTaken n ((p.lane n).nest.length + 1) claimSet p } := by
  unfold openGroup
  rw [hcur]
  dsimp only
  rw [hset, takeGroup_set, followLink_eq]
  simp [dropCurrent, Part.setLane, Part.lane, LaneContext.opens]

end

/-! ### GROUP OPEN at its block -/

theorem State.Holds.of_follows {s t : State} {n : Lane} {link : Half} {standing : Bool} {p q : Part}
    (h : s.Holds t n link standing q) (hp : p.Follows q) : s.Holds t n link standing p :=
  ⟨hp.trans h.follows, h.owner, h.result, h.keeps, h.queue, h.done⟩

section
variable {s : State} {n : Lane} {link : Half} {head : OrderHead} {mode : Byte} {claimSet : Word}

theorem takesGroupOpen (h : s.TakesOrder n link head) (hplan : s.part.plan.isSome = true) (hmode : mode.toNat ≤ 1)
    (hleads : ∀ m : MoverId, claimSet.getLsbD m.val = true → s.part.leader m = m) :
    s.TakesGroupOrder n link head .groupOpen (groupParams mode claimSet) :=
  ⟨h, rfl, by simp [groupParams, wordBytes], groupImage_paramChecks head mode claimSet s.part hmode hleads, hplan⟩

theorem groupReturns_image (head : OrderHead) (mode : Byte) (claimSet : Word) :
    groupReturns (orderImage head .groupOpen (groupParams mode claimSet)) = decide (mode = 1) := by
  rw [groupReturns, (groupImage_fields head mode claimSet).2]
  rfl

/-- The opened level in the terms of the order. -/
theorem opens_image {held : HeldRecord} (hb : held.bytes = orderImage head .groupOpen (groupParams mode claimSet))
    (c : LaneContext) : c.opens held claimSet =
      { c with
        state := if head.next = 0 then .resting else .working, current := none,
        link := if head.next = 0 then none else some head.next, anchor := .record held.link, waitKind := none,
        holdTimer := none,
        nest := { record := held, opened := claimSet, claimSet := claimSet, returns := decide (mode = 1),
                  inDetour := c.returnAnchor.isSome } :: c.nest } := by
  rw [LaneContext.opens, HeldRecord.next, hb, imageNext_orderImage, groupReturns_image]

/-- The need of a GROUP OPEN of leading ends is its set. -/
theorem groupNeed {p : Part} (hleads : ∀ m : MoverId, claimSet.getLsbD m.val = true → p.leader m = m) :
    p.normalSet (groupSet (orderImage head .groupOpen (groupParams mode claimSet))) = claimSet := by
  rw [(groupImage_fields head mode claimSet).1]
  exact normalSet_leaders _ _ hleads

/-- R158 to R161: at a depth below 4 with every entry FREE or the lane's own the group opens at once. -/
theorem groupOpen_takes (h : s.TakesGroupOrder n link head .groupOpen (groupParams mode claimSet))
    (hleads : ∀ m : MoverId, claimSet.getLsbD m.val = true → s.part.leader m = m) (hdepth : (s.part.lane n).nest.length < 4)
    (hopen : ∀ e : EntryId, claimSet.getLsbD e.val = true →
      (s.part.claim e).holder = none ∨ (s.part.claim e).holder = some n) :
    s.Holds (runOrder n (orderImage head .groupOpen (groupParams mode claimSet)) s) n link head.standing
      (Part.setLane n
        ((s.part.lane n).taken.opens (heldBy link head (orderImage head .groupOpen (groupParams mode claimSet))) claimSet)
        { s.part with claims := groupTaken n ((s.part.lane n).nest.length + 1) claimSet s.part }) := by
  obtain ⟨T, hT⟩ : ∃ T, T = s.withTaken n link head .groupOpen (groupParams mode claimSet) := ⟨_, rfl⟩
  have hTeq := hT.trans (takenPart_of h.order.takes head.standing (orderImage head .groupOpen (groupParams mode claimSet)))
  have hTlane := (congrArg (fun q => Part.lane q n) hT).trans (takenPart_lane_same ..)
  have hset : T.normalSet (groupSet (orderImage head .groupOpen (groupParams mode claimSet))) = claimSet :=
    groupNeed fun m hm => by rw [hT, takenPart_leader, hleads m hm]
  have hneed : T.normalSet (groupSet (T.currentBytes n)) = claimSet := by rwa [hT, takenPart_currentBytes, ← hT]
  have hfree : T.conflict n claimSet = none := by
    rw [hT]
    exact conflict_none_iff.2 fun e he => by rw [takenPart_claim]; exact hopen e he
  have hwork : orderGroupOpen n T = openGroup n T := by
    unfold orderGroupOpen
    dsimp only
    rw [hneed, hfree, hTlane]
    exact if_pos hdepth
  have hopens : openGroup n T = { s.part with
      lanes := setAt s.part.lanes n
        ((s.part.lane n).taken.opens (heldBy link head (orderImage head .groupOpen (groupParams mode claimSet))) claimSet),
      claims := groupTaken n ((s.part.lane n).nest.length + 1) claimSet s.part,
      writes := takenCells link head.standing s.part.now } := by
    refine (openGroup_eq (held := heldBy link head (orderImage head .groupOpen (groupParams mode claimSet)))
      (by rw [hTlane]) hset).trans ?_
    rw [hTlane, hTeq]
    simp only [Part.setLane, setAt_setAt]
    rfl
  obtain ⟨htaking, hcomes⟩ := h.to_acts (q := openGroup n T) (acts := []) (by rw [emit_nil, ← hwork, hT]; rfl)
  rw [hopens] at hcomes
  have hholds := order_holds h.order.takes h.short htaking (hcomes.trans (drain_emit_nil h.order.takes.quiet.agenda))
    h.order.takes.quiet.agenda (metHolds_none fun l => ?_) rfl (fun l hl => getAt_setAt_ne _ _ (Ne.symm hl)) rfl rfl
  · exact hholds.of_follows ⟨rfl, rfl, rfl, rfl, rfl, rfl, rfl, rfl, rfl, rfl, rfl, rfl, rfl, rfl, rfl⟩
  · show (getAt (setAt s.part.lanes n _) l).waitKind ≠ _
    rw [getAt_setAt]
    split
    · simp [LaneContext.opens]
    · exact h.order.takes.quiet.noHold l (by simp)

/-- R155, R156: at depth 0 with an entry that another lane holds the order waits in its place among the waiters. -/
theorem groupOpen_waits (h : s.TakesGroupOrder n link head .groupOpen (groupParams mode claimSet))
    (hleads : ∀ m : MoverId, claimSet.getLsbD m.val = true → s.part.leader m = m) (hnest : (s.part.lane n).nest = [])
    (hlimit : s.part.inForce.header.claimWait ≠ 0) {after : List Waiter}
    (hafter : insertWaiter s.part.claimTicks (s.part.waiterNow n claimSet true) s.part.waiters = after)
    (hheld : ∃ e : EntryId, claimSet.getLsbD e.val = true ∧ (s.part.claim e).holder.isSome = true ∧
      (s.part.claim e).holder ≠ some n) :
    s.OrderWaits (runOrder n (orderImage head .groupOpen (groupParams mode claimSet)) s) n link head
      (orderImage head .groupOpen (groupParams mode claimSet)) .claim { s.part with waiters := after } := by
  obtain ⟨T, hT⟩ : ∃ T, T = s.withTaken n link head .groupOpen (groupParams mode claimSet) := ⟨_, rfl⟩
  have hset : T.normalSet (groupSet (orderImage head .groupOpen (groupParams mode claimSet))) = claimSet :=
    groupNeed fun m hm => by rw [hT, takenPart_leader, hleads m hm]
  have hneed : T.normalSet (groupSet (T.currentBytes n)) = claimSet := by rwa [hT, takenPart_currentBytes, ← hT]
  obtain ⟨first, hfirst⟩ : ∃ e, T.conflict n claimSet = some e := by
    rw [← Option.isSome_iff_exists, Option.isSome_iff_ne_none, Ne, conflict_none_iff]
    intro hopen
    obtain ⟨e, he, hsome, hother⟩ := hheld
    have hclaim : T.claim e = s.part.claim e := by rw [hT, takenPart_claim]
    rcases hclaim ▸ hopen e he with hnone | hown
    · rw [hnone] at hsome
      cases hsome
    · exact hother hown
  have hforce : T.inForce = s.part.inForce := by rw [hT, takenPart_inForce]
  have hwaiter : T.waiterNow n claimSet true = s.part.waiterNow n claimSet true := by
    rw [Part.waiterNow, hforce, hT, takenPart_claimTicks]
    rfl
  have hplace : insertWaiter T.claimTicks (T.waiterNow n claimSet true) T.waiters = after := by
    rw [hwaiter, ← hafter, hT, takenPart_claimTicks, takenPart_waiters]
  have hwork : orderGroupOpen n T = laneWaits n .claim { T with waiters := after } := by
    unfold orderGroupOpen
    dsimp only
    rw [hneed, hfirst, hT, takenPart_nest, hnest, ← hT]
    exact (waitForClaim_waits (by rwa [hforce])).trans (by rw [hplace])
  obtain ⟨htaking, hcomes⟩ := h.to_acts (q := laneWaits n .claim { T with waiters := after }) (acts := [])
    (by rw [emit_nil, ← hwork, hT]; rfl)
  rw [hT] at hcomes
  exact order_waitsForClaim h.order.takes h.short htaking (hcomes.trans (drain_emit_nil h.agenda))

/-- A waiter whose wait begins now goes before one waiter only where that began in the same tick, of a higher lane. -/
theorem insertWaiter_single {now : Word} {w w0 : Waiter} (hw : w.start = now) :
    insertWaiter now w [w0] = if w0.start = now ∧ w.lane.val < w0.lane.val then [w, w0] else [w0, w] := by
  have hnow : w.age now = 0 := by simp [Waiter.age, hw]
  have hage : w0.age now = 0 ↔ w0.start = now := by
    rw [Waiter.age, ← BitVec.toNat_zero (w := 32), BitVec.toNat_inj, BitVec.sub_eq_iff_eq_add]
    simp [eq_comm]
  simp [insertWaiter, hnow, hage]

end

/-! ### The grant at a release (R156) -/

section
variable {p : Part} {w w1 w2 : Waiter} {held : HeldRecord}

theorem grant_group (hgroup : w.isGroup = true) (hcur : (p.lane w.lane).current = some held)
    (hset : p.normalSet (groupSet held.bytes) = w.need) :
    grant w p = Part.setLane w.lane ((p.lane w.lane).opens held w.need)
      { p with claims := groupTaken w.lane ((p.lane w.lane).nest.length + 1) w.need p } := by
  obtain ⟨p1, hp1⟩ : ∃ p1, p1 = p.setLane w.lane { p.lane w.lane with state := .working, waitKind := none } :=
    ⟨_, rfl⟩
  have hlane : p1.lane w.lane = { p.lane w.lane with state := .working, waitKind := none } := by
    rw [hp1]
    exact getAt_setAt_same ..
  have hgrant : grant w p = openGroup w.lane p1 := by
    rw [grant, if_pos hgroup, hp1]
  rw [hgrant, openGroup_eq (claimSet := w.need) (by rw [hlane]; exact hcur) (by rw [hp1]; exact hset), hlane, hp1]
  simp only [Part.setLane, setAt_setAt]
  rfl

/-- Of two waiters the older is granted and the younger waits on, whose need the grant has taken. -/
theorem arbitrate_grantsFirst (hw : p.waiters = [w1, w2]) (hfirst : p.conflict w1.lane w1.need = none) {q : Part}
    (hq : grant w1 { p with waiters := [] } = q) (hnone : q.waiters = [])
    (hsecond : q.conflict w2.lane w2.need ≠ none) : arbitrate p = { q with waiters := [w2] } := by
  have hgrant : Part.grantable { p with waiters := [] } w1 = true := by
    rw [Part.grantable, Option.isNone_iff_eq_none]
    exact hfirst
  have hwait : q.grantable w2 = false := by
    rw [Part.grantable, Option.isNone_eq_false_iff, Option.isSome_iff_ne_none]
    exact hsecond
  rw [arbitrate, hw]
  simp only [forEach_cons, forEach_nil]
  rw [if_pos hgrant, hq, hwait, hnone]
  rfl

/-- The older waiter, a GROUP OPEN at depth 0, opens its group; entry `e`, which both need, keeps the younger waiting. -/
theorem arbitrate_opens {e : EntryId} (hw : p.waiters = [w1, w2]) (hlanes : w1.lane ≠ w2.lane) (hgroup : w1.isGroup = true)
    (hcur : (p.lane w1.lane).current = some held) (hset : p.normalSet (groupSet held.bytes) = w1.need)
    (hnest : (p.lane w1.lane).nest = []) (hfirst : p.conflict w1.lane w1.need = none) (hneed1 : w1.need.getLsbD e.val = true)
    (hneed2 : w2.need.getLsbD e.val = true) (hfree : p.claim e = Claim.free) :
    arbitrate p = Part.setLane w1.lane ((p.lane w1.lane).opens held w1.need)
      { p with waiters := [w2], claims := groupTaken w1.lane 1 w1.need p } := by
  have hgrant := grant_group (p := { p with waiters := [] }) hgroup hcur hset
  rw [show (Part.lane { p with waiters := [] } w1.lane).nest = [] from hnest] at hgrant
  refine arbitrate_grantsFirst hw hfirst hgrant rfl fun hnone => ?_
  have htaken : getAt (groupTaken w1.lane 1 w1.need { p with waiters := [] }) e =
      groupClaim w1.lane 1 { p with waiters := [] } e := by
    refine (groupTaken_claim ..).trans (if_pos ⟨hneed1, ?_⟩)
    show (p.claim e).inNest w1.lane = false
    rw [hfree]
    rfl
  rcases conflict_none_iff.1 hnone e hneed2 with hopen | hopen
  · exact absurd (((congrArg Claim.holder htaken).symm.trans hopen)) (by simp [groupClaim])
  · exact absurd (((congrArg Claim.holder htaken).symm.trans hopen)) (by simpa [groupClaim] using hlanes)

end

/-- R45, R154: a mover that settles gives its implicit claim back, and arbitration follows. -/
theorem settle_arbitrates {s : State} {m : MoverId} {h : Lane} (hquiet : s.Quiet)
    (hstate : (s.part.mover m).motion.state = .settling) (hwaiting : (s.part.mover m).motion.waiting = none)
    (hclaim : s.part.claim (s.part.entryOfMover m) = implicitOf h)
    (hrest : (arbitrate ((idled m (s.part.restCount m) s.part).setClaim (s.part.entryOfMover m) Claim.free)).agenda = []) :
    drain s.mem Config.agendaBound (settleTimerExpiry m s.part) =
      arbitrate ((idled m (s.part.restCount m) s.part).setClaim (s.part.entryOfMover m) Claim.free) := by
  have hagenda : (idled m (s.part.restCount m) s.part).agenda = [] := by
    rw [idled, moved_eq]
    exact hquiet.agenda
  have hreport := steadyReport_releases (q := idled m (s.part.restCount m) s.part) ((moved_claim _).trans hclaim) moved_steady
  obtain ⟨q, hq⟩ : ∃ q, q = (idled m (s.part.restCount m) s.part).setClaim (s.part.entryOfMover m) Claim.free :=
    ⟨_, rfl⟩
  have hqagenda : q.agenda = [] := by
    rw [hq]
    exact hagenda
  rw [← hq] at hreport hrest ⊢
  rw [settleTimerExpiry_eq hstate hwaiting, show Config.agendaBound = 65534 + 1 + 1 from rfl, drain_emit hagenda (by simp),
    emit_nil]
  refine (congrArg _ hreport).trans ?_
  rw [drain_next (by simp), performNext_arbitrate (by simp [hqagenda])]
  have hcleared : ({ q.emit [.arbitrate] with agenda := [] } : Part) = q := by simp [Part.emit, ← hqagenda]
  rw [hcleared]
  exact drain_done hrest

theorem release_grants : releaseGrantsOldest := by
  intro s m h e w1 w2 held head mode q hquiet he htimer hstate hwaiting hclaim hwaiters hlanes hgroup hneed1 hneed2 hothers
    hleads hnest hcur hmode hbytes hq
  subst he
  have hqeq : q = (idled m (s.part.restCount m) s.part).setClaim (s.part.entryOfMover m) Claim.free := hq
  have hdeck : q = { s.part with movers := q.movers, claims := q.claims } := by
    rw [hqeq, idled, moved_eq]
    rfl
  have hlane : ∀ l, q.lane l = s.part.lane l := fun l => by
    rw [hdeck]
    rfl
  have hfree : q.claim (s.part.entryOfMover m) = Claim.free := by
    rw [hqeq]
    exact getAt_setAt_same ..
  have hfirst : q.conflict w1.lane w1.need = none := conflict_none_iff.2 fun x hx => by
    by_cases hxe : x = s.part.entryOfMover m
    · rw [hxe, hfree]
      exact .inl rfl
    · have hkept : q.claim x = s.part.claim x := by
        rw [hqeq]
        exact (getAt_setAt_ne _ _ (Ne.symm hxe)).trans (moved_claim _)
      rw [hkept]
      exact hothers x hx hxe
  have hset : q.normalSet (groupSet held.bytes) = w1.need := by
    rw [hbytes]
    refine groupNeed fun i hi => ?_
    rw [hdeck]
    exact hleads i hi
  have harbitrate := arbitrate_opens (p := q) (by rw [hdeck]; exact hwaiters) hlanes hgroup (by rw [hlane]; exact hcur) hset
    (by rw [hlane]; exact hnest) hfirst hneed1 hneed2 hfree
  have hagenda : q.agenda = [] := by
    rw [hdeck]
    exact hquiet.agenda
  have hcomes := settle_arbitrates hquiet hstate hwaiting hclaim (by rw [← hqeq, harbitrate]; exact hagenda)
  have hwrites : q.writes = [] := by
    rw [hdeck]
    exact hquiet.settled.1
  have hgeneration : q.generation = s.part.generation := by rw [hdeck]
  have hport : q.port.partState = s.part.port.partState := by rw [hdeck]
  refine ⟨_, exec_settleTimerExpiry hquiet htimer, ?_⟩
  rw [← hqeq, harbitrate, hlane, opens_image hbytes, hnest] at hcomes
  refine ranLane_of_drain (f := fun _ => settleTimerExpiry m) hquiet.mem hcomes hagenda (metHolds_none fun l => ?_)
    hwrites (fun l hl => (getAt_setAt_ne _ _ (Ne.symm hl)).trans (hlane l)) hgeneration hport
  refine ne_of_eq_of_ne (congrArg LaneContext.waitKind (getAt_setAt ..)) ?_
  split
  · simp
  · exact ne_of_eq_of_ne (congrArg LaneContext.waitKind (hlane l)) (hquiet.noHold l (by simp))

/-- Settles O57: the release that grants, and GROUP OPEN at its block. -/
theorem groupOpenTakesClaims : Obligations.GroupOpenTakesClaims := by
  refine ⟨release_grants, ?_⟩
  intro s n link head mode claimSet h hplan hmode hleads
  have htakes := takesGroupOpen h hplan hmode hleads
  have hexec := htakes.exec (c := .groupOpen n head mode claimSet) rfl
  refine ⟨fun hdepth hopen => ⟨_, hexec, ?_⟩, fun w after hnest hlimit hw hafter hheld =>
    ⟨_, hexec, groupOpen_waits htakes hleads hnest hlimit ?_ hheld⟩⟩
  · have hholds := groupOpen_takes htakes hleads hdepth hopen
    rw [opens_image rfl] at hholds
    exact hholds
  · subst hw
    rcases hafter with ⟨hnone, rfl⟩ | ⟨w0, hone, hne, rfl⟩
    · rw [hnone]
      rfl
    · rw [hone]
      exact insertWaiter_single rfl

end Sys2Proof.Machine
end

section
/-! ABORT GROUP of a lane's only level: how the abort begins, goes on and ends in the order's event (R163, R164, R167). -/

namespace Sys2Proof.Machine

/-! ### The deck in the hands of an event -/

/-- The deck of `p` where the event has brought the lanes, the writes and what the port is forced to show to those of `b`. -/
def Part.onDeck (b p : Part) : Part :=
  { p with lanes := b.lanes, writes := b.writes, forced := b.forced, openValues := b.openValues, openCount := b.openCount }

section
variable {b p : Part}

theorem onDeck_setDoor (d : DoorId) (x : Door) : (b.onDeck p).setDoor d x = b.onDeck (p.setDoor d x) := rfl

theorem onDeck_setMotion (m : MoverId) (mo : Motion) : setMotion m mo (b.onDeck p) = b.onDeck (setMotion m mo p) :=
  forEach_commutes (g := b.onDeck) (f := fun e q => q.setMover e { q.mover e with motion := mo }) (fun _ _ => rfl)
    (p.ends m) p

theorem onDeck_mapEnds (m : MoverId) (f : Mover → Mover) : mapEnds m f (b.onDeck p) = b.onDeck (mapEnds m f p) :=
  forEach_commutes (g := b.onDeck) (f := fun e q => q.setMover e (f (q.mover e))) (fun _ _ => rfl) (p.ends m) p

theorem onDeck_moved {m : MoverId} {mo : Motion} {f : Mover → Mover} :
    moved m mo f (b.onDeck p) = b.onDeck (moved m mo f p) := by
  rw [moved, onDeck_mapEnds, onDeck_setMotion]
  rfl

theorem onDeck_syncZoneWarn (k : ZoneId) : syncZoneWarn k (b.onDeck p) = b.onDeck (syncZoneWarn k p) := by
  have hline : (b.onDeck p).line (zoneLine k) = p.line (zoneLine k) := rfl
  have hwanted : (b.onDeck p).warnWanted k = p.warnWanted k := rfl
  unfold syncZoneWarn postWarn withdrawWarn
  rw [hwanted, hline]
  dsimp only
  repeat' split
  all_goals rfl

theorem onDeck_syncWarn (d : DoorId) : syncWarn d (b.onDeck p) = b.onDeck (syncWarn d p) :=
  forEach_commutes (g := b.onDeck) (f := syncZoneWarn) (fun k _ => onDeck_syncZoneWarn k) (p.doorZones d) p

theorem onDeck_countOneMore (d : DoorId) : countOneMore d (b.onDeck p) = b.onDeck (countOneMore d p) :=
  forEach_commutes (g := b.onDeck) (f := zoneCounts) (fun _ _ => rfl) (p.countingZones d) p

end

/-! ### The beginning (R163, R164) -/

/-- The abort that an ABORT GROUP in slot `link` has begun, of a nest of one level. -/
def groupAbort (code : Byte) (link : Half) (returns incomplete : Bool) : AbortRecord :=
  { cause := .explicit, code := code.toNat, depth := 1, link := link, returnIncomplete := incomplete, furtherCause := false,
    stopCause := none, badLink := none, returns := returns }

theorem groupAbort_result (code : Byte) (link : Half) (returns incomplete : Bool) :
    (groupAbort code link returns incomplete).result =
      Result.of .aborted (7 + 256 * code.toNat) 1 (link.setWidth 32) (if incomplete then flagReturnIncomplete else 0) := by
  cases incomplete <;> simp [groupAbort, AbortRecord.result, AbortCause.num, word]

/-- What an abort does to each entry of its nest. -/
def abortAct (n : Lane) (returns : Bool) (e : EntryId) : Part → Part := if returns then returnEntry n e else haltEntry e

/-- The lane whose ABORT GROUP has retired and begun the abort. -/
def abortingLane (s : State) (n : Lane) (link : Half) (code : Byte) (returns incomplete : Bool) : LaneContext :=
  ((s.part.lane n).taken.letGo link).aborting (groupAbort code link returns incomplete)

/-- The event stands at `b`, with the ABORT GROUP of lane `n` retired and its abort begun. -/
structure State.Begun (s : State) (n : Lane) (link : Half) (head : OrderHead) (code : Byte) (returns incomplete : Bool)
    (b : Part) : Prop where
  lanes  : b.lanes = setAt s.part.lanes n (abortingLane s n link code returns incomplete)
  writes : ∃ d f g, b.writes = takenCells link head.standing s.part.now ++
    retireCells (heldBy link head (orderImage head .abortGroup [code])) (Result.bare .aborted) d f g s.part.now

section
variable {s : State} {n : Lane} {link : Half} {head : OrderHead} {code : Byte} {top : Level} {returns incomplete : Bool}
  {b p q : Part}

theorem State.Begun.lane (h : s.Begun n link head code returns incomplete b) :
    b.lane n = abortingLane s n link code returns incomplete := by
  rw [Part.lane, h.lanes]
  exact getAt_setAt_same ..

theorem State.Begun.others (h : s.Begun n link head code returns incomplete b) {l : Lane} (hl : l ≠ n) :
    b.lane l = s.part.lane l := by
  rw [Part.lane, h.lanes]
  exact getAt_setAt_ne _ _ (Ne.symm hl)

/-- An entry of the nest that ends INCOMPLETE is noted with the abort (R166). -/
theorem State.Begun.incompletes (h : s.Begun n link head code returns incomplete b) :
    s.Begun n link head code returns true (b.setLane n (abortingLane s n link code returns true)) := by
  refine ⟨?_, h.writes⟩
  rw [Part.setLane_lanes, h.lanes, setAt_setAt]

theorem nestAbort_explicit {p p1 : Part} (hnest : (p.lane n).nest = [top]) (hstate : (p.lane n).state ≠ .aborting)
    (hp1 : endCurrent n .aborted p = p1) (hlane : p1.lane n = (s.part.lane n).taken.letGo link)
    (hnest1 : (s.part.lane n).nest = [top]) :
    nestAbort n .explicit code.toNat none none p =
      (forEach ((p1.setLane n (abortingLane s n link code top.returns false)).nestEntries n) (abortAct n top.returns)
        (p1.setLane n (abortingLane s n link code top.returns false))).emit [.abortTest n] := by
  have hlink : (((s.part.lane n).taken.letGo link).anchor).link = link := rfl
  have hdepth : ((s.part.lane n).taken.letGo link).nest.length = 1 := congrArg List.length hnest1
  unfold nestAbort
  simp only [hnest, List.getLast?_singleton, if_neg hstate, hp1, hlane, Option.getD_none, hlink, hdepth]
  simp only [show (AbortCause.explicit != AbortCause.cancel) = true from rfl, Bool.and_true]
  rfl

theorem groupAbort_begins (h : s.TakesGroupOrder n link head .abortGroup [code]) (hnest : (s.part.lane n).nest = [top])
    (hw : s.part.waiters = []) (hu : s.part.Unwaited n) :
    ∃ b, s.Begun n link head code top.returns false b ∧
      orderAbortGroup n (s.withTaken n link head .abortGroup [code]) =
        (forEach (s.part.nestEntries n) (abortAct n top.returns) (b.onDeck s.part)).emit [.abortTest n] := by
  obtain ⟨T, hT⟩ : ∃ T, T = s.withTaken n link head .abortGroup [code] := ⟨_, rfl⟩
  have hlane : (T.lane n).nest = [top] ∧ (T.lane n).state = .working := by
    rw [hT, takenPart_lane_same]
    exact ⟨hnest, h.order.takes.working⟩
  have hresult : currentResult n .aborted T = Result.bare .aborted := by
    unfold currentResult
    dsimp only
    rw [hT, takenPart_currentBytes, imageKind_orderImage]
    exact ite_self _
  obtain ⟨p1, hp1⟩ : ∃ p1, p1 = retireCurrent n (Result.bare .aborted) T := ⟨_, rfl⟩
  have hletGo : p1.lane n = (s.part.lane n).taken.letGo link := by
    rw [hp1, hT]
    exact retired_lane _
  obtain ⟨d, f, g, ov, oc, fs, hretired, -⟩ := retired_withTaken (head := head) (k := .abortGroup) (params := [code])
    h.order.takes (Result.bare .aborted) ((s.part.lane n).taken.letGo link)
  rw [← hT, ← hp1, ← hletGo, Part.setLane_self, hletGo] at hretired
  have hend : endCurrent n .aborted T = p1 := by
    rw [endCurrent, hresult, ← hp1, hretired]
    exact forgetLane_unwaited hu.movers hu.doors hu.calls hw
  refine ⟨p1.setLane n (abortingLane s n link code top.returns false), ⟨?_, d, f, g, by rw [hretired]; rfl⟩, ?_⟩
  · rw [hretired]
    exact setAt_setAt ..
  · have hopen : ¬ (T.lane n).nest.isEmpty = true := by
      rw [hlane.1]
      simp
    have hcode : byteAt (T.currentBytes n) 12 = code := by
      rw [hT, takenPart_currentBytes]
      exact byteAt_params (i := 0) head .abortGroup h.short (by simp)
    rw [← hT, orderAbortGroup, if_neg hopen, hcode,
      nestAbort_explicit hlane.1 (by rw [hlane.2]; decide) hend hletGo hnest, hretired]
    rfl

/-! ### How the abort goes on (R164) -/

theorem abort_goesOn {x : Part} {k : Nat} (h : s.TakesGroupOrder n link head .abortGroup [code])
    (hb : s.Begun n link head code returns false b)
    (hbegins : orderAbortGroup n (s.withTaken n link head .abortGroup [code]) = x.emit [.abortTest n])
    (hdoes : x.Does [.abortTest n] k (b.onDeck q) []) (hk : k ≤ 1000) (hdeck : s.part.DeckChange q) :
    s.Retires (runOrder n (orderImage head .abortGroup [code]) s) n link (retiredOwner head.standing) (Result.bare .aborted)
      (q.setLane n (abortingLane s n link code returns false)) := by
  have hagenda : (b.onDeck q).agenda = [] := hdeck.agenda.trans h.order.takes.quiet.agenda
  obtain ⟨htaking, hcomes⟩ := h.to_acts hbegins
  obtain ⟨d, f, g, hwrites⟩ := hb.writes
  have hlane : ((b.onDeck q).lane n).waitKind ≠ some .hold := by
    show (b.lane n).waitKind ≠ some .hold
    rw [hb.lane]
    simp [abortingLane, LaneContext.aborting, LaneContext.letGo]
  refine State.Retires.of_follows (order_retires (held := heldBy link head (orderImage head .abortGroup [code]))
    (r := Result.bare .aborted) h.order.takes h.short htaking (hcomes.trans (hdoes.drain_eq hagenda (by omega) _)) hagenda
    hlane rfl rfl hwrites (by simp [Result.bare]) (by simp [Result.bare]) (by simp [Result.bare]) (fun l hl => hb.others hl)
    hdeck.generation (congrArg ControlPort.partState hdeck.port)) ?_
  refine ⟨rfl, rfl, rfl, rfl, rfl, rfl, rfl, ?_, rfl, rfl, rfl, rfl, rfl, rfl, rfl⟩
  rw [Part.setLane_lanes, hdeck.lanes]
  exact hb.lanes

/-! ### How it ends (R167) -/

theorem haltAborted_abort (c : LaneContext) : (haltAborted c top).abort = none := by
  unfold haltAborted
  split <;> rfl

theorem abortTest_ended (h : (p.lane n).abort = none) : abortTest n p = p := by
  unfold abortTest
  dsimp only
  rw [h]

theorem closeTest_notWaiting (h : (p.lane n).waitKind = none) : closeTest n p = p := by
  unfold closeTest
  rw [h]
  simp

/-- Arbitration with no waiter, before micro-operations that change nothing. -/
theorem drain_arbitrate_idle {m : List Host.Cell} {tail : List Act} (hp : p.agenda = []) (hw : p.waiters = [])
    (htail : ∀ a ∈ tail, a ≠ .arbitrate ∧ perform m a p = p) (k : Nat) :
    drain m (k + 2 + tail.length) (p.emit (.arbitrate :: tail)) = p := by
  cases tail with
  | nil => exact drain_arbitrate_alone hp hw
  | cons a rest =>
    have hlast := drain_arbitrate_last (mm := m) (b := k + 1 + (a :: rest).length) hp
      (htail a (List.mem_cons_self ..)).1 (fun x hx => (htail x (List.mem_cons_of_mem _ hx)).1)
    rw [show k + 2 + (a :: rest).length = k + 1 + (a :: rest).length + 1 by omega, hlast, drain_idle hp htail]
    exact drain_arbitrate_alone hp hw

/-- The end of the abort, and what the event has still to do after it. -/
theorem abort_ends_part {tail : List Act} (hb : s.Begun n link head code returns incomplete b)
    (hnest : (s.part.lane n).nest = [top]) (hagenda : q.agenda = []) (hw : q.waiters = [])
    (htail : ∀ a ∈ tail, a = .abortTest n ∨ a = .closeTest n)
    (hdone : ∀ e, (q.claim e).inNest n = true → q.steady e = true ∧ (q.claim e).status ≠ .pending) :
    ∃ d f g ov oc fs, (groupAbort code link returns incomplete).result.ShownAs d f g ∧
      ∀ m k, 3 + tail.length ≤ k → drain m k ((b.onDeck q).emit (.abortTest n :: tail)) =
        { q with lanes := setAt s.part.lanes n (haltAborted ((s.part.lane n).taken.letGo link) top),
                 claims := nestFreed n q.claims,
                 writes := b.writes ++
                   retireCells top.record (groupAbort code link returns incomplete).result d f g q.now,
                 forced := fs, openValues := ov, openCount := oc } := by
  obtain ⟨d, f, g, ov, oc, fs, htest, h1, h2, h3⟩ := abortTest_atRest (p := b.onDeck q)
    (c := (s.part.lane n).taken.letGo link) (a := groupAbort code link returns incomplete) hnest rfl (by simp [groupAbort])
    hdone
  refine ⟨d, f, g, ov, oc, fs, ⟨h1, h2, h3⟩, fun m k hk => ?_⟩
  have hself : (b.onDeck q).setLane n (((s.part.lane n).taken.letGo link).aborting
      (groupAbort code link returns incomplete)) = b.onDeck q := by
    have hlane : (b.onDeck q).lane n = abortingLane s n link code returns incomplete := hb.lane
    rw [← Part.setLane_self (p := b.onDeck q) n, hlane]
    simp [abortingLane]
  obtain ⟨r, hr⟩ : ∃ r : Part, r = { q with
      lanes := setAt s.part.lanes n (haltAborted ((s.part.lane n).taken.letGo link) top),
      claims := nestFreed n q.claims,
      writes := b.writes ++ retireCells top.record (groupAbort code link returns incomplete).result d f g q.now,
      forced := fs, openValues := ov, openCount := oc } := ⟨_, rfl⟩
  have hends : abortTest n (b.onDeck q) = r.emit [.arbitrate] := by
    rw [hself] at htest
    rw [htest, hr, show (b.onDeck q).lanes = _ from hb.lanes, setAt_setAt]
    rfl
  have hlane : r.lane n = haltAborted ((s.part.lane n).taken.letGo link) top := by
    rw [hr]
    exact getAt_setAt_same ..
  have hqagenda : (b.onDeck q).agenda = [] := hagenda
  obtain ⟨k, rfl⟩ : ∃ k', k = k' + 2 + tail.length + 1 := ⟨k - 3 - tail.length, by omega⟩
  rw [← hr, drain_emit hqagenda (by simp)]
  show drain m _ ((abortTest n (b.onDeck q)).emit tail) = r
  rw [hends, emit_emit]
  refine drain_arbitrate_idle (by rw [hr]; exact hagenda) (by rw [hr]; exact hw) (fun a ha => ?_) k
  rcases htail a ha with rfl | rfl
  · exact ⟨by simp, abortTest_ended (by rw [hlane, haltAborted_abort])⟩
  · exact ⟨by simp, closeTest_notWaiting (by rw [hlane, haltAborted_waitKind rfl])⟩

theorem abort_ends {x : Part} {k : Nat} {tail : List Act} (h : s.TakesGroupOrder n link head .abortGroup [code])
    (hb : s.Begun n link head code returns incomplete b)
    (hbegins : orderAbortGroup n (s.withTaken n link head .abortGroup [code]) = x.emit [.abortTest n])
    (hdoes : x.Does [.abortTest n] k (b.onDeck q) (.abortTest n :: tail)) (hk : k ≤ 1000) (hlen : tail.length ≤ 10)
    (htail : ∀ a ∈ tail, a = .abortTest n ∨ a = .closeTest n) (hdeck : s.part.DeckChange q) (hnow : q.now = s.part.now)
    (hw : q.waiters = [])
    (hdone : ∀ e, (q.claim e).inNest n = true → q.steady e = true ∧ (q.claim e).status ≠ .pending)
    (hnest : (s.part.lane n).nest = [top]) (hne : top.record.link ≠ link) (hvalid : linkValid top.record.link = true)
    (hclean : top.record.clamped = false) :
    s.RetiresBoth (runOrder n (orderImage head .abortGroup [code]) s) n top.record.link link (anchorOwner s top)
      (retiredOwner head.standing)
      (Result.of .aborted (7 + 256 * code.toNat) 1 (link.setWidth 32) (if incomplete then flagReturnIncomplete else 0))
      (Result.bare .aborted) (nestEnded q n top) := by
  have hagenda : q.agenda = [] := hdeck.agenda.trans h.order.takes.quiet.agenda
  obtain ⟨htaking, hcomes⟩ := h.to_acts hbegins
  obtain ⟨dt, ft, gt, ov, oc, fs, htop, hends⟩ := abort_ends_part hb hnest hagenda hw htail hdone
  obtain ⟨d, f, g, hwrites⟩ := hb.writes
  rw [groupAbort_result] at htop hends
  have hrest := fun m => (hdoes m (65534 - k) []).trans
    ((congrArg (fun l => drain m (65534 - k) ((b.onDeck q).emit l)) (List.append_nil _)).trans
      (hends m (65534 - k) (by omega)))
  rw [show 65534 - k + k = 65534 by omega] at hrest
  rw [hwrites, hnow, List.append_assoc] at hrest
  refine order_retires_level h.order.takes h.short htaking (hcomes.trans (hrest _)) hagenda rfl ?_ hne hvalid hclean
    (.inr rfl) htop ⟨by simp [Result.bare], by simp [Result.bare], by simp [Result.bare]⟩ hdeck.generation
    (congrArg ControlPort.partState hdeck.port) ?_
  · rw [haltAborted_waitKind rfl]
    simp
  · have hlane : q.lane n = s.part.lane n := by rw [Part.lane, hdeck.lanes]; rfl
    refine ⟨rfl, rfl, rfl, rfl, rfl, rfl, rfl, ?_, rfl, rfl, rfl, rfl, rfl, rfl, rfl⟩
    rw [nestEnded, Part.setLane_lanes, hlane, ← haltAborted_letGo _ _ link]
    show _ = setAt q.lanes n _
    rw [hdeck.lanes]

end

end Sys2Proof.Machine
end

section
/-! ABORT GROUP of a RETURN group of one claim: what the claim's row of Table 8-3 has to come to (R164, R166, R167). -/

namespace Sys2Proof.Machine

/-! ### Marks and reports of a claimed entry (R166) -/

section
variable {p q x y : Part} {n : Lane} {e : EntryId} {c : Claim} {status : ReturnStatus} {acts more left : List Act} {k : Nat}

/-- What is still to do of a part that has asked for it. -/
theorem Part.Does.of_emit (h : q.Does (acts ++ more) k y left) (hx : x = q.emit acts) : x.Does more k y left := by
  intro m i rest
  rw [hx, emit_emit, ← List.append_assoc, h]

theorem Part.Does.of_eq (hx : x = q.emit acts) (hleft : acts ++ more = left) : x.Does more 0 q left :=
  .of_emit (acts := acts) (fun _ _ _ => by rw [hleft]; rfl) hx

theorem Part.Does.before (h : p.Does acts k q left) : p.Does (acts ++ more) k q (left ++ more) := by
  intro m i rest
  rw [List.append_assoc, h, List.append_assoc]

theorem markReturn_eq (hholder : (p.claim e).holder = some n) (hne : status ≠ .incomplete) :
    markReturn e status p = p.setClaim e { p.claim e with status := status } := by
  unfold markReturn
  dsimp only
  rw [hholder]
  exact if_neg hne

theorem markReturn_incomplete (hholder : (p.claim e).holder = some n) :
    markReturn e .incomplete p = (p.setClaim e { p.claim e with status := .incomplete }).setLane n
      { p.lane n with abort := (p.lane n).abort.map (fun a => { a with returnIncomplete := true }) } := by
  unfold markReturn
  dsimp only
  rw [hholder]
  exact if_pos rfl

theorem abortTestOf_held (hholder : (p.claim e).holder = some n) : abortTestOf p e = [.abortTest n] := by
  unfold abortTestOf
  rw [hholder]

/-- The end test where an entry of the nest is not steady, or PENDING. -/
theorem abortTest_busy (hin : (p.claim e).inNest n = true)
    (hbusy : p.steady e = false ∨ (p.claim e).status = .pending) : abortTest n p = p := by
  refine abortTest_underWay (Bool.eq_false_iff.2 fun hdone => ?_)
  obtain ⟨hsteady, hpending⟩ := abortDone_iff.1 hdone e hin
  rcases hbusy with hunsteady | hwaits
  · rw [hunsteady] at hsteady
    cases hsteady
  · exact hpending hwaits

theorem steadyReport_group (hholder : (p.claim e).holder = some n) (hkind : (p.claim e).kind = some .group)
    (hsteady : p.steady e = true) : steadyReport e p = (settleReturn e p).emit [.abortTest n, .closeTest n] := by
  unfold steadyReport
  dsimp only
  rw [hholder, hkind]
  exact if_pos hsteady

theorem settleReturn_done (hunderWay : (p.claim e).status ≠ .underWay) (hpending : (p.claim e).status ≠ .pending) :
    settleReturn e p = p := by
  unfold settleReturn
  dsimp only
  split <;> simp_all

end

/-! ### The group -/

/-- Lane `n` takes an ABORT GROUP at depth 1 of a RETURN group, whose one claim is `c` of entry `e`. -/
structure State.AbortsReturn (s : State) (n : Lane) (link : Half) (head : OrderHead) (code : Byte) (top : Level)
    (e : EntryId) (c : Claim) : Prop where
  order    : s.TakesGroupOrder n link head .abortGroup [code]
  nest     : (s.part.lane n).nest = [top]
  apart    : top.record.link ≠ link
  valid    : linkValid top.record.link = true
  clean    : top.record.clamped = false
  returns  : top.returns = true
  claim    : s.part.claim e = c
  holder   : c.holder = some n
  kind     : c.kind = some .group
  alone    : ∀ x, x ≠ e → (s.part.claim x).inNest n = false
  waiters  : s.part.waiters = []
  unwaited : s.part.Unwaited n

/-- The part `q` is `p` with its actuators and zones changed. -/
structure Part.Actuated (p q : Part) : Prop where
  deck    : p.DeckChange q
  time    : q.time = p.time
  claims  : q.claims = p.claims
  waiters : q.waiters = p.waiters

theorem Part.Actuated.refl (p : Part) : p.Actuated p := ⟨.refl p, rfl, rfl, rfl⟩

theorem Part.Actuated.setMotion {p q : Part} (h : p.Actuated q) (m : MoverId) (mo : Motion) :
    p.Actuated (setMotion m mo q) := by
  rw [setMotion_eq]
  exact ⟨⟨h.deck.agenda, h.deck.writes, h.deck.lanes, h.deck.generation, h.deck.port⟩, h.time, h.claims, h.waiters⟩

theorem Part.Actuated.moved {p q : Part} (h : p.Actuated q) (m : MoverId) (mo : Motion) (f : Mover → Mover) :
    p.Actuated (moved m mo f q) := by
  rw [moved_eq]
  exact ⟨⟨h.deck.agenda, h.deck.writes, h.deck.lanes, h.deck.generation, h.deck.port⟩, h.time, h.claims, h.waiters⟩

/-- The claim of the entry that a row has marked. -/
theorem marked_claim (b p : Part) (e : EntryId) (c : Claim) : (b.onDeck (p.setClaim e c)).claim e = c :=
  Part.setClaim_same ..

/-- A micro-operation of a row that changes nothing while the return is under way. -/
def idleAct (n : Lane) (q : Part) (a : Act) : Prop :=
  a = .abortTest n ∨ a = .closeTest n ∨ ∃ k, a = .moversClear k ∧ ∀ d, (q.door d).state ≠ .waitClear

namespace State.AbortsReturn

section
variable {s : State} {n : Lane} {link : Half} {head : OrderHead} {code : Byte} {top : Level} {e : EntryId} {c : Claim}
  {status : ReturnStatus} {incomplete : Bool} {b p q : Part} {k : Nat} {acts tail : List Act}

theorem inNest (h : s.AbortsReturn n link head code top e c) (status : ReturnStatus) :
    ({ c with status := status } : Claim).inNest n = true := by
  simp [Claim.inNest, h.holder, h.kind]

theorem nestEntries (h : s.AbortsReturn n link head code top e c) : s.part.nestEntries n = [e] := by
  have hin : (s.part.claim e).inNest n = true := by
    rw [h.claim]
    exact h.inNest c.status
  have heach : ∀ x : EntryId, (s.part.claim x).inNest n = (x == e) := fun x => by
    by_cases hx : x = e
    · rw [hx, hin, beq_self_eq_true]
    · rw [h.alone x hx, beq_eq_false_iff_ne.2 hx]
  have hone : ∀ e : EntryId, (List.finRange 32).filter (· == e) = [e] := by decide
  rw [Part.nestEntries, List.filter_congr fun x _ => heach x, hone]

/-- The event of the order, up to what the claim's row comes to. -/
theorem begins (h : s.AbortsReturn n link head code top e c) :
    ∃ b, s.Begun n link head code true false b ∧
      orderAbortGroup n (s.withTaken n link head .abortGroup [code]) =
        (returnEntry n e (b.onDeck s.part)).emit [.abortTest n] := by
  obtain ⟨b, hb, hbegins⟩ := groupAbort_begins h.order h.nest h.waiters h.unwaited
  rw [h.nestEntries, h.returns] at hbegins
  rw [h.returns] at hb
  exact ⟨b, hb, hbegins⟩

theorem exec (h : s.AbortsReturn n link head code top e c) :
    exec (.abortGroup n head code) s = .next (runOrder n (orderImage head .abortGroup [code]) s) :=
  h.order.exec rfl

theorem goesOn (h : s.AbortsReturn n link head code top e c) (hq : s.part.Actuated q)
    (hrow : ∀ b, s.Begun n link head code true false b → ∃ k ≤ 1000,
      (returnEntry n e (b.onDeck s.part)).Does [.abortTest n] k (b.onDeck (q.setClaim e { c with status := status })) []) :
    returnGoesOn s n link head code e c status q := by
  obtain ⟨b, hb, hbegins⟩ := h.begins
  obtain ⟨k, hk, hdoes⟩ := hrow b hb
  exact ⟨_, h.exec, abort_goesOn h.order hb hbegins hdoes hk (setClaim_deckChange hq.deck)⟩

theorem nestEnded_setClaim (h : s.AbortsReturn n link head code top e c) (hclaims : q.claims = s.part.claims)
    (status : ReturnStatus) : nestEnded (q.setClaim e { c with status := status }) n top = nestEnded q n top := by
  have hfreed : mapAll (fun x => if x.inNest n then Claim.free else x) (setAt q.claims e { c with status := status }) =
      mapAll (fun x => if x.inNest n then Claim.free else x) q.claims := by
    refine table_ext fun x => ?_
    rw [getAt_mapAll, getAt_mapAll, getAt_setAt]
    by_cases hx : e = x
    · have hin : (getAt q.claims x).inNest n = true := by
        rw [hclaims, ← hx]
        exact (congrArg (fun x => Claim.inNest x n) h.claim).trans (h.inNest c.status)
      rw [if_pos hx, h.inNest, hin, if_pos rfl, if_pos rfl]
    · rw [if_neg hx]
  unfold nestEnded
  rw [Part.setClaim_claims, hfreed]
  rfl

theorem ends (h : s.AbortsReturn n link head code top e c) (hq : s.part.Actuated q) (hsteady : q.steady e = true)
    (hpending : status ≠ .pending)
    (hrow : ∀ b, s.Begun n link head code true false b → ∃ b', s.Begun n link head code true incomplete b' ∧
      ∃ k ≤ 1000, ∃ tail : List Act, tail.length ≤ 10 ∧ (∀ a ∈ tail, a = .abortTest n ∨ a = .closeTest n) ∧
        (returnEntry n e (b.onDeck s.part)).Does [.abortTest n] k (b'.onDeck (q.setClaim e { c with status := status }))
          (.abortTest n :: tail)) :
    returnEnds s n link head code top (if incomplete then flagReturnIncomplete else 0) q := by
  obtain ⟨b, hb, hbegins⟩ := h.begins
  obtain ⟨b', hb', k, hk, tail, hlen, htail, hdoes⟩ := hrow b hb
  have hends := abort_ends h.order hb' hbegins hdoes hk hlen htail (setClaim_deckChange hq.deck)
    (congrArg TimeBase.clock hq.time) (hq.waiters.trans h.waiters) (fun x hx => ?_) h.nest h.apart h.valid h.clean
  · rw [h.nestEnded_setClaim hq.claims] at hends
    exact ⟨_, h.exec, hends⟩
  · by_cases hxe : x = e
    · rw [hxe, Part.setClaim_same]
      exact ⟨hsteady, hpending⟩
    · have hclaim : (q.setClaim e { c with status := status }).claim x = s.part.claim x := by
        rw [Part.setClaim_get, if_neg (Ne.symm hxe), Part.claim, hq.claims]
        rfl
      rw [hclaim, h.alone x hxe] at hx
      cases hx

theorem idleActs_do (h : s.AbortsReturn n link head code top e c) (hb : s.Begun n link head code true false b)
    (hq : s.part.Actuated q) (hbusy : q.steady e = false ∨ status = .pending) (hacts : ∀ a ∈ acts, idleAct n q a) :
    (b.onDeck (q.setClaim e { c with status := status })).Does acts acts.length
      (b.onDeck (q.setClaim e { c with status := status })) [] := by
  have hclaim : (b.onDeck (q.setClaim e { c with status := status })).claim e = { c with status := status } :=
    Part.setClaim_same ..
  refine .idle (hq.deck.agenda.trans h.order.order.takes.quiet.agenda) fun m a ha => ?_
  rcases hacts a ha with rfl | rfl | ⟨k, rfl, hdoors⟩
  · exact ⟨by simp, abortTest_busy (by rw [hclaim]; exact h.inNest status) (by rw [hclaim]; exact hbusy)⟩
  · exact ⟨by simp, closeTest_notWaiting (congrArg LaneContext.waitKind hb.lane)⟩
  · exact ⟨by simp, moversClear_noWaitClear k hdoors⟩

/-- A row that leaves the actuator under way, or the return PENDING. -/
theorem goesOn_busy (h : s.AbortsReturn n link head code top e c) (hq : s.part.Actuated q)
    (hbusy : q.steady e = false ∨ status = .pending) (hacts : ∀ a ∈ acts, idleAct n q a) (hlen : acts.length ≤ 10)
    (hrow : ∀ b, s.Begun n link head code true false b →
      returnEntry n e (b.onDeck s.part) = (b.onDeck (q.setClaim e { c with status := status })).emit acts) :
    returnGoesOn s n link head code e c status q := by
  refine h.goesOn hq fun b hb => ⟨(acts ++ [Act.abortTest n]).length, by simp; omega, .of_emit ?_ (hrow b hb)⟩
  refine h.idleActs_do hb hq hbusy fun a ha => ?_
  rcases List.mem_append.1 ha with ha | ha
  · exact hacts a ha
  · exact .inl (List.mem_singleton.1 ha)

/-- A row that settles the return at once. -/
theorem ends_atOnce (h : s.AbortsReturn n link head code top e c) (hq : s.part.Actuated q) (hsteady : q.steady e = true)
    (hpending : status ≠ .pending) (hacts : acts = [] ∨ acts = [.abortTest n])
    (hrow : ∀ b, s.Begun n link head code true false b → ∃ b', s.Begun n link head code true incomplete b' ∧
      returnEntry n e (b.onDeck s.part) = (b'.onDeck (q.setClaim e { c with status := status })).emit acts) :
    returnEnds s n link head code top (if incomplete then flagReturnIncomplete else 0) q := by
  refine h.ends hq hsteady hpending fun b hb => ?_
  obtain ⟨b', hb', hentry⟩ := hrow b hb
  refine ⟨b', hb', 0, by omega, acts, ?_⟩
  rcases hacts with rfl | rfl
  · exact ⟨by simp, by simp, .of_eq hentry rfl⟩
  · exact ⟨by simp, by simp, .of_eq hentry rfl⟩

/-- A row that ends with the report of an actuator that has come to rest. -/
theorem ends_atReport (h : s.AbortsReturn n link head code top e c) (hq : s.part.Actuated q) (hsteady : q.steady e = true)
    (hpending : status ≠ .pending) (hunderWay : status ≠ .underWay) (hacts : ∀ a ∈ acts, ∃ k, a = .moversClear k)
    (hdoors : acts ≠ [] → ∀ d, (q.door d).state ≠ .waitClear) (hlen : acts.length ≤ 10)
    (hrow : ∀ b, s.Begun n link head code true false b → returnEntry n e (b.onDeck s.part) =
      (b.onDeck (q.setClaim e { c with status := status })).emit (acts ++ [.steadyReport e])) :
    returnEnds s n link head code top 0 q := by
  refine h.ends (incomplete := false) (status := status) hq hsteady hpending fun b hb => ⟨b, hb, ?_⟩
  obtain ⟨Q, hQ⟩ : ∃ Q, Q = b.onDeck (q.setClaim e { c with status := status }) := ⟨_, rfl⟩
  have hclaim : Q.claim e = { c with status := status } := by
    rw [hQ]
    exact Part.setClaim_same ..
  have hagenda : Q.agenda = [] := by
    rw [hQ]
    exact hq.deck.agenda.trans h.order.order.takes.quiet.agenda
  have hclear : Q.Does acts acts.length Q [] := .idle hagenda fun m a ha => by
    obtain ⟨k, rfl⟩ := hacts a ha
    refine ⟨by simp, moversClear_noWaitClear k ?_⟩
    rw [hQ]
    exact hdoors (List.ne_nil_of_mem ha)
  have hreport : Q.Does [.steadyReport e] 1 Q [.abortTest n, .closeTest n] := .one hagenda (by simp) fun _ => by
    show steadyReport e Q = _
    rw [steadyReport_group (n := n) (by rw [hclaim]; exact h.holder) (by rw [hclaim]; exact h.kind)
      (by rw [hQ]; exact hsteady), settleReturn_done (by rw [hclaim]; exact hunderWay) (by rw [hclaim]; exact hpending)]
  refine ⟨acts.length + 1, by omega, [.closeTest n, .abortTest n], by simp, by simp, ?_⟩
  rw [← hQ]
  exact .of_emit (hclear.append hreport).before (hQ ▸ hrow b hb)

end

end State.AbortsReturn

end Sys2Proof.Machine
end

section
/-! ABORT GROUP of a RETURN group of one claim, a mover's: the mover rows of Table 8-3 (R166). -/

namespace Sys2Proof.Machine

/-! ### What the abort asks of a mover -/

section
variable {p : Part} {n : Lane} {m : MoverId} {e : EntryId} {v : Verdict} {x : Nat} {target : Nat} {status : ReturnStatus}

theorem actuatorOf_moverEntry (m : MoverId) : actuatorOf (moverEntry m) = .mover m := dif_pos m.isLt

theorem returnEntry_unsaved (ha : actuatorOf e = .mover m) (hsaved : (p.claim e).saved = none) :
    returnEntry n e p = moverStop m false p := by
  unfold returnEntry
  rw [ha, hsaved]

theorem returnEntry_limited (ha : actuatorOf e = .mover m) (hsaved : (p.claim e).saved = some (.position x))
    (hzone : (p.zone (p.moverZone m)).state ≠ .loading) :
    returnEntry n e p = moverStop m false (markReturn e .zoneLimited p) := by
  unfold returnEntry
  rw [ha, hsaved]
  exact if_pos hzone

/-! In a LOADING zone the mover's own state decides. -/

theorem returnEntry_drives (ha : actuatorOf e = .mover m) (hsaved : (p.claim e).saved = some (.position x))
    (hzone : (p.zone (p.moverZone m)).state = .loading)
    (hstate : (p.motion m).state = .idle ∨ (p.motion m).state = .floating ∨ (p.motion m).state = .moving) :
    returnEntry n e p = moverReturn m x p := by
  unfold returnEntry
  rw [ha, hsaved]
  dsimp only
  rw [if_neg (not_not.2 hzone)]
  rcases hstate with hs | hs | hs <;> rw [hs]

theorem returnEntry_pends (ha : actuatorOf e = .mover m) (hsaved : (p.claim e).saved = some (.position x))
    (hzone : (p.zone (p.moverZone m)).state = .loading)
    (hstate : (p.motion m).state = .stopping ∨ (p.motion m).state = .settling ∨ (p.motion m).state = .releasing) :
    returnEntry n e p = moverStop m false (markReturn e .pending p) := by
  unfold returnEntry
  rw [ha, hsaved]
  dsimp only
  rw [if_neg (not_not.2 hzone)]
  rcases hstate with hs | hs | hs <;> rw [hs]

theorem returnEntry_lost (ha : actuatorOf e = .mover m) (hsaved : (p.claim e).saved = some (.position x))
    (hzone : (p.zone (p.moverZone m)).state = .loading)
    (hstate : (p.motion m).state = .localMode ∨ (p.motion m).state = .faulted ∨ (p.motion m).state = .offline) :
    returnEntry n e p = markReturn e .incomplete p := by
  unfold returnEntry
  rw [ha, hsaved]
  dsimp only
  rw [if_neg (not_not.2 hzone)]
  rcases hstate with hs | hs | hs <;> rw [hs]

/-- A PENDING mover that is in IDLE gets its return drive (R166). -/
theorem settleReturn_drives (ha : actuatorOf e = .mover m) (hsaved : (p.claim e).saved = some (.position x))
    (hstatus : (p.claim e).status = .pending) (hidle : (p.motion m).state = .idle)
    (hzone : (p.zone (p.moverZone m)).state = .loading) : settleReturn e p = p.emit [.moverReturn m x] := by
  unfold settleReturn
  dsimp only
  rw [ha, hsaved, hstatus]
  dsimp only
  rw [if_neg (not_not.2 hidle), if_pos hzone]

theorem moverStop_rest (byZone : Bool) (hreleasing : (p.motion m).state ≠ .releasing)
    (hmoving : (p.motion m).state ≠ .moving) : moverStop m byZone p = p := by
  unfold moverStop
  dsimp only
  split <;> simp_all

/-- What a return drive of this verdict makes of the return (R166). -/
def Verdict.returnStatus : Verdict → ReturnStatus
  | .refused .zoneState _ => .zoneLimited
  | .refused _ _ => .incomplete
  | .zero | .settles _ => .met
  | .starts _ | .leavesFloat _ | .retargets _ => .underWay

theorem moverReturn_eq (hv : (p.judgeMove m 0 x).verdict = v) (hstatus : v.returnStatus = status) :
    moverReturn m x p = (applyVerdict m v 100 none (markReturn (p.entryOfMover m) status p)).emit
      (abortTestOf (applyVerdict m v 100 none (markReturn (p.entryOfMover m) status p)) (p.entryOfMover m)) := by
  subst hstatus
  unfold moverReturn
  rw [hv]
  cases v with
  | refused code second => cases code <;> rfl
  | _ => rfl

/-- In a LOADING zone no MOVE of a mover at rest is refused for its zone (R30). -/
theorem judgeMove_loading (hzone : (p.zone (p.moverZone m)).state = .loading)
    (hstate : (p.motion m).state = .idle ∨ (p.motion m).state = .floating) (i : Option Nat) :
    (p.judgeMove m 0 x).verdict ≠ .refused .zoneState i := by
  have hrest : ∀ floating, (p.judgeFromRest m floating 0 x).verdict ≠ .refused .zoneState i := fun floating => by
    unfold Part.judgeFromRest
    dsimp only
    rw [if_neg (not_not.2 hzone)]
    repeat' split
    all_goals simp
  unfold Part.judgeMove
  rcases hstate with hs | hs
  · simp only [hs]
    exact hrest false
  · simp only [hs]
    split
    · exact hrest true
    · simp

theorem steady_mover (hlead : p.leader m = m) :
    p.steady (p.entryOfMover m) = (p.motion m).state.steady := by
  rw [steady_entryOfMover, hlead]
  rfl

theorem actuatorOf_leading (hlead : p.leader m = m) : actuatorOf (p.entryOfMover m) = .mover m :=
  (congrArg (fun i => actuatorOf (moverEntry i)) hlead).trans (actuatorOf_moverEntry m)

/-! ### What a drive makes of the mover -/

theorem releasedToward_eq {p : Part} (hlead : p.leader m = m) (target : Nat) : releasedToward m target p =
    moved m ((p.motion m).released target 100 (p.profilePlan m).brakeTime none) Mover.forgetsRuns p := by
  have hplan : p.profilePlan m = p.planMover m := congrArg p.planMover hlead
  rw [hplan]
  rfl

/-- R31, R32: a drive of a mover in IDLE. -/
theorem applyVerdict_released {p : Part} (hlead : p.leader m = m) (hidle : (p.motion m).state = .idle) (target : Nat)
    (b : Part) (e : EntryId) (c : Claim) : applyVerdict m (.starts target) 100 none (b.onDeck (p.setClaim e c)) =
      (b.onDeck ((releasedToward m target p).setClaim e c)).emit [.moversClear (p.moverZone m)] := by
  rw [applyVerdict_starts (p := b.onDeck (p.setClaim e c)) target 100 none hidle, onDeck_moved, moved_setClaim,
    releasedToward_eq hlead]
  rfl

theorem releasedToward_unsteady {p : Part} (hlead : p.leader m = m) (target : Nat) :
    (releasedToward m target p).steady (p.entryOfMover m) = false := by
  rw [releasedToward_eq hlead]
  exact moved_steady

/-- The mover as it leaves FLOATING toward `target` (R50). -/
def unfloatedToward (m : MoverId) (target : Nat) (p : Part) : Part :=
  moved m ((p.motion m).unfloated (p.restCount m) target 100 none)
    (fun y => { y with followRun := 0, sent := p.restCount m }) p

theorem unfloatedToward_eq {p : Part} (hwait : (p.motion m).waiting = none) : unfloatedToward m target p =
    setMotion m { p.motion m with
        state := .moving, phase := .accel, reversal := false, setpoint := some (256 * (p.restCount m : Int)), speed := 0,
        target := some target, share := 100, up := decide (p.restCount m < target), floatAlarm := false }
      (mapEnds m (fun y => { y with followRun := 0, sent := p.restCount m }) p) := by
  unfold unfloatedToward moved Motion.unfloated
  rw [← hwait]

theorem applyVerdict_unfloated (target : Nat) (p b : Part) (e : EntryId) (c : Claim) :
    applyVerdict m (.leavesFloat target) 100 none (b.onDeck (p.setClaim e c)) =
      (b.onDeck ((unfloatedToward m target p).setClaim e c)).emit (moverReports m (p.motion m).state .moving p) := by
  have hmoves := moverTo_moved (p := b.onDeck (p.setClaim e c)) (m := m)
    (mo := (p.motion m).unfloated (p.restCount m) target 100 none)
    (f := fun y => { y with followRun := 0, sent := p.restCount m }) (fun _ => rfl) none (.inl rfl)
  rw [onDeck_moved, moved_setClaim] at hmoves
  exact hmoves

/-- R33: a retarget of a MOVING mover. -/
theorem applyVerdict_retargeted {p : Part} (hwait : (p.motion m).waiting = none) (target : Nat) (b : Part) (e : EntryId)
    (c : Claim) : applyVerdict m (.retargets target) 100 none (b.onDeck (p.setClaim e c)) =
      (b.onDeck ((setMotion m { p.motion m with pending := some { target := target, share := 100 } } p).setClaim e c)).emit
        [] := by
  have hmotion : (b.onDeck (p.setClaim e c)).motion m = p.motion m := rfl
  unfold applyVerdict
  dsimp only
  rw [hmotion, hwait]
  have hsame : ({ p.motion m with pending := some { target := target, share := 100 }, waiting := none } : Motion) =
      { p.motion m with pending := some { target := target, share := 100 } } := by rw [← hwait]
  rw [hsame, onDeck_setMotion, setMotion_setClaim]

theorem judgeMove_retargets {p : Part} (hlead : p.leader m = m) (hstate : (p.motion m).state = .moving)
    (hzone : (p.zone (p.moverZone m)).state = .loading)
    (htarget : (target : Int) = max ((p.planMover m).lower : Int) (min ((p.planMover m).upper : Int) x)) :
    (p.judgeMove m 0 x).verdict = .retargets target := by
  have hplan : p.profilePlan m = p.planMover m := congrArg p.planMover hlead
  unfold Part.judgeMove
  simp only [hstate, hzone, hplan]
  exact congrArg Verdict.retargets (clampPos_eq htarget)

end

/-! ### The rows -/

namespace State.AbortsReturn

section
variable {s : State} {n : Lane} {link : Half} {head : OrderHead} {code : Byte} {top : Level} {c : Claim} {m : MoverId}
  {status : ReturnStatus} {incomplete : Bool} {b q : Part} {x target : Nat} {v : Verdict}

/-- The row of the mover is a stop request, with the return at `status`. -/
def Stops (s : State) (n : Lane) (link : Half) (head : OrderHead) (code : Byte) (m : MoverId) (c : Claim)
    (status : ReturnStatus) : Prop :=
  ∀ b, s.Begun n link head code true false b → returnEntry n (s.part.entryOfMover m) (b.onDeck s.part) =
    moverStop m false (b.onDeck (s.part.setClaim (s.part.entryOfMover m) { c with status := status }))

theorem stops_steady (h : s.AbortsReturn n link head code top (s.part.entryOfMover m) c) (hlead : s.part.leader m = m)
    (hstop : Stops s n link head code m c status) (hpending : status ≠ .pending)
    (hsteady : (s.part.motion m).state.steady = true) : returnEnds s n link head code top 0 s.part := by
  refine h.ends_atOnce (incomplete := false) (acts := []) (.refl _) ((steady_mover hlead).trans hsteady) hpending (.inl rfl)
    fun b hb => ⟨b, hb, ?_⟩
  rw [hstop b hb, emit_nil]
  refine moverStop_rest false (fun hr => ?_) fun hr => ?_
  all_goals
    rw [show (s.part.motion m).state = _ from hr] at hsteady
    cases hsteady

theorem stops_waits (h : s.AbortsReturn n link head code top (s.part.entryOfMover m) c) (hlead : s.part.leader m = m)
    (hstop : Stops s n link head code m c status)
    (hstate : (s.part.motion m).state = .stopping ∨ (s.part.motion m).state = .settling) :
    returnGoesOn s n link head code (s.part.entryOfMover m) c status s.part := by
  refine h.goesOn_busy (acts := []) (.refl _) (.inl ?_) (by simp) (by simp) fun b hb => ?_
  · rw [steady_mover hlead]
    rcases hstate with hs | hs <;> rw [hs] <;> rfl
  · rw [hstop b hb, emit_nil]
    refine moverStop_rest false (fun hr => ?_) fun hr => ?_
    all_goals
      rw [show (s.part.motion m).state = _ from hr] at hstate
      simp at hstate

theorem stops_moving (h : s.AbortsReturn n link head code top (s.part.entryOfMover m) c)
    (hstop : Stops s n link head code m c status) (hunderWay : status ≠ .underWay)
    (hstate : (s.part.motion m).state = .moving) (hwait : (s.part.motion m).waiting = none) :
    returnGoesOn s n link head code (s.part.entryOfMover m) c status (setMotion m (s.part.motion m).stopping s.part) := by
  refine h.goesOn_busy (acts := []) ((Part.Actuated.refl _).setMotion m _) (.inl (setMotion_steady ..)) (by simp) (by simp)
    fun b hb => ?_
  rw [hstop b hb, emit_nil, moverStop_moving (p := b.onDeck (s.part.setClaim _ { c with status := status })) false hstate
    hwait, onDeck_setMotion, setMotion_setClaim]
  · rfl
  · exact ne_of_eq_of_ne (congrArg Claim.status (marked_claim ..)) hunderWay

/-- The stop request to a RELEASING mover: it is IDLE at once, and reports so. -/
theorem moverStop_onDeck (hunderWay : status ≠ .underWay) (hstate : (s.part.motion m).state = .releasing)
    (hwait : (s.part.motion m).waiting = none) (b : Part) :
    moverStop m false (b.onDeck (s.part.setClaim (s.part.entryOfMover m) { c with status := status })) =
      (b.onDeck ((idled m (s.part.restCount m) s.part).setClaim (s.part.entryOfMover m) { c with status := status })).emit
        [.moversClear (s.part.moverZone m), .steadyReport (s.part.entryOfMover m)] := by
  rw [moverStop_releasing (p := b.onDeck (s.part.setClaim _ { c with status := status })) false hstate hwait, idled,
    onDeck_moved, moved_setClaim]
  · rfl
  · exact ne_of_eq_of_ne (congrArg Claim.status (marked_claim ..)) hunderWay

theorem stops_releasing (h : s.AbortsReturn n link head code top (s.part.entryOfMover m) c)
    (hstop : Stops s n link head code m c status) (hunderWay : status ≠ .underWay) (hpending : status ≠ .pending)
    (hstate : (s.part.motion m).state = .releasing) (hwait : (s.part.motion m).waiting = none)
    (hdoors : ∀ d, (s.part.door d).state ≠ .waitClear) :
    returnEnds s n link head code top 0 (idled m (s.part.restCount m) s.part) :=
  h.ends_atReport (status := status) (acts := [.moversClear (s.part.moverZone m)]) ((Part.Actuated.refl _).moved m _ _)
    moved_steady hpending hunderWay (by simp) (fun _ d => by rw [moved_door]; exact hdoors d) (by simp) fun b hb => by
      rw [hstop b hb, moverStop_onDeck hunderWay hstate hwait]
      rfl

/-! ### The drives -/

/-- The row of the mover is a return drive, to `x`. -/
def Drives (s : State) (n : Lane) (link : Half) (head : OrderHead) (code : Byte) (m : MoverId) (x : Nat) : Prop :=
  ∀ b, s.Begun n link head code true false b →
    returnEntry n (s.part.entryOfMover m) (b.onDeck s.part) = moverReturn m x (b.onDeck s.part)

/-- A drive of the verdict `v` on the deck `p`, with what the mover then is and has reported. -/
theorem drive_does {p : Part} {e : EntryId} (he : p.entryOfMover m = e) (hclaim : p.claim e = c) (hholder : c.holder = some n)
    (hv : (p.judgeMove m 0 x).verdict = v) (hstatus : v.returnStatus = status) (hne : status ≠ .incomplete) {acts : List Act}
    (happly : applyVerdict m v 100 none (b.onDeck (p.setClaim e { c with status := status })) =
      (b.onDeck (q.setClaim e { c with status := status })).emit acts) :
    moverReturn m x (b.onDeck p) = (b.onDeck (q.setClaim e { c with status := status })).emit (acts ++ [.abortTest n]) := by
  have hheld : (b.onDeck p).claim e = c := hclaim
  have hmark : markReturn e status (b.onDeck p) = b.onDeck (p.setClaim e { c with status := status }) := by
    rw [markReturn_eq (n := n) (by rw [hheld]; exact hholder) hne, hheld]
    rfl
  have hreturn := moverReturn_eq (p := b.onDeck p) hv hstatus
  rw [show (b.onDeck p).entryOfMover m = e from he, hmark, happly] at hreturn
  rw [hreturn, abortTestOf_held (n := n), emit_emit]
  exact (congrArg Claim.holder (marked_claim b q _ _)).trans hholder

theorem drive_goesOn (h : s.AbortsReturn n link head code top (s.part.entryOfMover m) c)
    (hdrive : Drives s n link head code m x) (hv : (s.part.judgeMove m 0 x).verdict = v)
    (hstatus : v.returnStatus = .underWay) {acts : List Act} (hq : s.part.Actuated q)
    (hbusy : q.steady (s.part.entryOfMover m) = false) (hacts : ∀ a ∈ acts, idleAct n q a) (hlen : acts.length ≤ 9)
    (happly : ∀ b : Part, applyVerdict m v 100 none
        (b.onDeck (s.part.setClaim (s.part.entryOfMover m) { c with status := .underWay })) =
      (b.onDeck (q.setClaim (s.part.entryOfMover m) { c with status := .underWay })).emit acts) :
    returnGoesOn s n link head code (s.part.entryOfMover m) c .underWay q := by
  refine h.goesOn_busy (acts := acts ++ [.abortTest n]) hq (.inl hbusy) (fun a ha => ?_) (by simp; omega) fun b hb => ?_
  · rcases List.mem_append.1 ha with ha | ha
    · exact hacts a ha
    · exact .inl (List.mem_singleton.1 ha)
  · rw [hdrive b hb]
    exact drive_does rfl h.claim h.holder hv hstatus (by simp) (happly b)

theorem drive_zero (h : s.AbortsReturn n link head code top (s.part.entryOfMover m) c)
    (hdrive : Drives s n link head code m x) (hv : (s.part.judgeMove m 0 x).verdict = .zero)
    (hsteady : s.part.steady (s.part.entryOfMover m) = true) : returnEnds s n link head code top 0 s.part := by
  refine h.ends_atOnce (incomplete := false) (status := .met) (.refl _) hsteady (by simp) (.inr rfl) fun b hb => ⟨b, hb, ?_⟩
  rw [hdrive b hb]
  exact drive_does rfl h.claim h.holder hv (status := .met) rfl (by simp) (acts := []) (emit_nil _).symm

/-- The mark INCOMPLETE of the entry, noted with the abort. -/
theorem marks_incomplete {e : EntryId} (h : s.AbortsReturn n link head code top e c)
    (hb : s.Begun n link head code true false b) : ∃ b', s.Begun n link head code true true b' ∧
      markReturn e .incomplete (b.onDeck s.part) = b'.onDeck (s.part.setClaim e { c with status := .incomplete }) := by
  refine ⟨_, hb.incompletes, ?_⟩
  have hlane : (b.onDeck s.part).lane n = abortingLane s n link code true false := hb.lane
  have hclaim : (b.onDeck s.part).claim e = c := h.claim
  rw [markReturn_incomplete (n := n) (by rw [hclaim]; exact h.holder), hlane, hclaim]
  rfl

theorem drive_refused (h : s.AbortsReturn n link head code top (s.part.entryOfMover m) c)
    (hdrive : Drives s n link head code m x) {why : ResultCode} {index : Option Nat}
    (hv : (s.part.judgeMove m 0 x).verdict = .refused why index) (hwhy : why ≠ .zoneState)
    (hsteady : s.part.steady (s.part.entryOfMover m) = true) :
    returnEnds s n link head code top flagReturnIncomplete s.part := by
  have hstatus : (Verdict.refused why index).returnStatus = .incomplete := by
    cases why with
    | zoneState => exact absurd rfl hwhy
    | _ => rfl
  refine h.ends_atOnce (incomplete := true) (status := .incomplete) (.refl _) hsteady (by simp) (.inr rfl) fun b hb => ?_
  obtain ⟨b', hb', hmark⟩ := marks_incomplete h hb
  refine ⟨b', hb', ?_⟩
  have hreturn := moverReturn_eq (p := b.onDeck s.part) hv hstatus
  rw [show (b.onDeck s.part).entryOfMover m = s.part.entryOfMover m from rfl, hmark] at hreturn
  rw [hdrive b hb, hreturn]
  refine congrArg (fun l => Part.emit l _) (abortTestOf_held (n := n) ?_)
  exact (congrArg Claim.holder (marked_claim ..)).trans h.holder

/-! ### The rows of Table 8-3 -/

theorem marks (h : s.AbortsReturn n link head code top (s.part.entryOfMover m) c) (hne : status ≠ .incomplete) (b : Part) :
    markReturn (s.part.entryOfMover m) status (b.onDeck s.part) =
      b.onDeck (s.part.setClaim (s.part.entryOfMover m) { c with status := status }) := by
  have hclaim : (b.onDeck s.part).claim (s.part.entryOfMover m) = c := h.claim
  rw [markReturn_eq (n := n) (by rw [hclaim]; exact h.holder) hne, hclaim]
  rfl

theorem stops_unsaved (h : s.AbortsReturn n link head code top (s.part.entryOfMover m) c) (hlead : s.part.leader m = m)
    (hsaved : c.saved = none) (hstatus : c.status = .none) : Stops s n link head code m c .none := fun b hb => by
  have hsame : ({ c with status := .none } : Claim) = s.part.claim (s.part.entryOfMover m) := by rw [h.claim, ← hstatus]
  rw [hsame, Part.setClaim_self]
  exact returnEntry_unsaved (actuatorOf_leading hlead) ((congrArg Claim.saved h.claim).trans hsaved)

theorem stops_limited (h : s.AbortsReturn n link head code top (s.part.entryOfMover m) c) (hlead : s.part.leader m = m)
    (hsaved : c.saved = some (.position x)) (hzone : (s.part.zone (s.part.moverZone m)).state ≠ .loading) :
    Stops s n link head code m c .zoneLimited := fun b hb => by
  rw [← marks h (by simp) b]
  exact returnEntry_limited (actuatorOf_leading hlead) ((congrArg Claim.saved h.claim).trans hsaved) hzone

/-- The report of a mover in IDLE whose return is PENDING: it gets its drive. -/
theorem report_drives {i : Part} {e : EntryId} {k : ZoneId} (hsaved : c.saved = some (.position x))
    (hholder : c.holder = some n) (hkind : c.kind = some .group) (he : i.entryOfMover m = e) (hlead : i.leader m = m)
    (hidle : (i.motion m).state = .idle) (hzone : (i.zone (i.moverZone m)).state = .loading)
    (hdoors : ∀ d, (i.door d).state ≠ .waitClear) (hagenda : i.agenda = [])
    (hv : (i.judgeMove m 0 x).verdict = .starts target) (b : Part) :
    (b.onDeck (i.setClaim e { c with status := .pending })).Does [.moversClear k, .steadyReport e] 3
      (b.onDeck ((releasedToward m target i).setClaim e { c with status := .underWay }))
      [.moversClear (i.moverZone m), .abortTest n, .abortTest n, .closeTest n] := by
  obtain ⟨Q, hQ⟩ : ∃ Q, Q = b.onDeck (i.setClaim e { c with status := .pending }) := ⟨_, rfl⟩
  have hclaim : Q.claim e = { c with status := .pending } := by rw [hQ, marked_claim]
  have hstill : Q.agenda = [] := by
    rw [hQ]
    exact hagenda
  have hsteady : Q.steady e = true := by
    have hentry : i.steady e = (i.motion m).state.steady := by
      rw [← he, steady_entryOfMover, hlead]
      rfl
    rw [hQ]
    exact hentry.trans (by rw [hidle]; rfl)
  have hsettle : settleReturn e Q = Q.emit [.moverReturn m x] := by
    have ha : actuatorOf e = .mover m := he ▸ actuatorOf_leading hlead
    exact settleReturn_drives ha (by rw [hclaim]; exact hsaved) (by rw [hclaim]) (by rw [hQ]; exact hidle)
      (by rw [hQ]; exact hzone)
  have hclear : Q.Does [.moversClear k] 1 Q [] := .one hstill (by simp) fun _ => by
    rw [emit_nil]
    exact moversClear_noWaitClear k (by rw [hQ]; exact hdoors)
  have hreport : Q.Does [.steadyReport e] 1 Q [.moverReturn m x, .abortTest n, .closeTest n] :=
    .one hstill (by simp) fun _ => by
      refine (steadyReport_group (n := n) (by rw [hclaim]; exact hholder) (by rw [hclaim]; exact hkind) hsteady).trans ?_
      rw [hsettle, emit_emit]
      rfl
  have hdrive : Q.Does [.moverReturn m x] 1
      (b.onDeck ((releasedToward m target i).setClaim e { c with status := .underWay }))
      [.moversClear (i.moverZone m), .abortTest n] := .one hstill (by simp) fun _ => by
    rw [hQ]
    refine drive_does (p := i.setClaim e { c with status := .pending }) (status := .underWay) he (Part.setClaim_same ..)
      hholder hv rfl (by simp) (acts := [.moversClear (i.moverZone m)]) ?_
    rw [Part.setClaim_setClaim, applyVerdict_released hlead hidle]
  rw [← hQ]
  exact (hclear.append hreport).andThen hdrive.before

section
variable (h : s.AbortsReturn n link head code top (s.part.entryOfMover m) c) (hlead : s.part.leader m = m)
  (hsaved : c.saved = some (.position x)) (hzone : (s.part.zone (s.part.moverZone m)).state = .loading)
include h hlead hsaved hzone

theorem stops_pending (hstate : (s.part.motion m).state = .stopping ∨ (s.part.motion m).state = .settling ∨
    (s.part.motion m).state = .releasing) : Stops s n link head code m c .pending := fun b hb => by
  rw [← marks h (by simp) b]
  exact returnEntry_pends (actuatorOf_leading hlead) ((congrArg Claim.saved h.claim).trans hsaved) hzone hstate

theorem drives (hstate : (s.part.motion m).state = .idle ∨ (s.part.motion m).state = .floating ∨
    (s.part.motion m).state = .moving) : Drives s n link head code m x := fun _ _ =>
  returnEntry_drives (actuatorOf_leading hlead) ((congrArg Claim.saved h.claim).trans hsaved) hzone hstate

theorem lost_ends (hstate : (s.part.motion m).state = .localMode ∨ (s.part.motion m).state = .faulted ∨
    (s.part.motion m).state = .offline) : returnEnds s n link head code top flagReturnIncomplete s.part := by
  have hsteady : s.part.steady (s.part.entryOfMover m) = true := by
    rw [steady_mover hlead]
    rcases hstate with hs | hs | hs <;> rw [hs] <;> rfl
  refine h.ends_atOnce (incomplete := true) (status := .incomplete) (acts := []) (.refl _) hsteady (by simp) (.inl rfl)
    fun b hb => ?_
  obtain ⟨b', hb', hmark⟩ := marks_incomplete h hb
  refine ⟨b', hb', ?_⟩
  rw [emit_nil, ← hmark]
  exact returnEntry_lost (actuatorOf_leading hlead) ((congrArg Claim.saved h.claim).trans hsaved) hzone hstate

/-- A RELEASING mover is IDLE at once, and its report gives it its drive in the event. -/
theorem released_drives (hstate : (s.part.motion m).state = .releasing) (hwait : (s.part.motion m).waiting = none)
    (hdoors : ∀ d, (s.part.door d).state ≠ .waitClear)
    (hv : ((idled m (s.part.restCount m) s.part).judgeMove m 0 x).verdict = .starts target) :
    returnGoesOn s n link head code (s.part.entryOfMover m) c .underWay
      (releasedToward m target (idled m (s.part.restCount m) s.part)) := by
  obtain ⟨i, hi⟩ : ∃ i, i = idled m (s.part.restCount m) s.part := ⟨_, rfl⟩
  have hi' : i = { s.part with movers := i.movers } := by rw [hi, idled, moved_eq]
  have hileads : i.leader m = m := by rw [hi']; exact hlead
  have hentry : i.entryOfMover m = s.part.entryOfMover m := by rw [hi']; rfl
  have hidoors : ∀ d, (i.door d).state ≠ .waitClear := fun d => by rw [hi']; exact hdoors d
  have hidle : (i.motion m).state = .idle := by
    rw [hi]
    exact congrArg (fun y => y.motion.state) ((idled_mover _ m).trans (if_pos (self_mem_ends _ _)))
  have hq : s.part.Actuated (releasedToward m target i) := by
    rw [releasedToward_eq hileads, hi]
    exact ((Part.Actuated.refl _).moved m _ _).moved m _ _
  have hqdoors : ∀ d, ((releasedToward m target i).door d).state ≠ .waitClear := fun d => by
    rw [releasedToward_eq hileads, moved_door]
    exact hidoors d
  rw [← hi] at hv ⊢
  refine h.goesOn hq fun b hb => ⟨3 + 5, by omega, ?_⟩
  have hstop : returnEntry n (s.part.entryOfMover m) (b.onDeck s.part) =
      (b.onDeck (i.setClaim (s.part.entryOfMover m) { c with status := .pending })).emit
        [.moversClear (s.part.moverZone m), .steadyReport (s.part.entryOfMover m)] := by
    rw [h.stops_pending hlead hsaved hzone (.inr (.inr hstate)) b hb, moverStop_onDeck (by simp) hstate hwait, hi]
  have hdrive := report_drives (k := s.part.moverZone m) hsaved h.holder h.kind hentry hileads hidle
    (by rw [hi']; exact hzone) hidoors (by rw [hi']; exact h.order.order.takes.quiet.agenda) hv b
  have hrest := h.idleActs_do (status := .underWay) (acts := [.moversClear (i.moverZone m), .abortTest n, .abortTest n,
    .closeTest n, .abortTest n]) hb hq
    (.inl (by rw [← hentry]; exact releasedToward_unsteady hileads target)) (by simp [idleAct, hqdoors])
  exact .of_emit (hdrive.before.andThen hrest) hstop

end

end

end State.AbortsReturn

theorem moverReturns_hold {s : State} {n : Lane} {link : Half} {head : OrderHead} {code : Byte} {top : Level} {e : EntryId}
    {c : Claim} (h : s.AbortsReturn n link head code top e c) : moverReturns s n link head code top e c := by
  intro m mo he hlead hmo hwait hdoors
  subst he hmo
  refine ⟨fun status hcase => ?_, fun x hsaved hloading => ?_⟩
  · obtain ⟨hstop, hpending, hunderWay⟩ :
        State.AbortsReturn.Stops s n link head code m c status ∧ status ≠ .pending ∧ status ≠ .underWay := by
      rcases hcase with ⟨hsaved, hstatus, rfl⟩ | ⟨⟨x, hsaved⟩, hzone, rfl⟩
      · exact ⟨h.stops_unsaved hlead hsaved hstatus, by simp, by simp⟩
      · exact ⟨h.stops_limited hlead hsaved (by rwa [Part.moverZone, hlead]), by simp, by simp⟩
    exact ⟨fun hs => h.stops_steady hlead hstop hpending hs,
      fun hs => h.stops_releasing hstop hunderWay hpending hs hwait hdoors,
      fun hs => h.stops_moving hstop hunderWay hs hwait, fun hs => h.stops_waits hlead hstop hs⟩
  · have hzone : (s.part.zone (s.part.moverZone m)).state = .loading := by rwa [Part.moverZone, hlead]
    have hdrives := h.drives hlead hsaved hzone
    have hrest : ∀ st, (s.part.motion m).state = st → st.steady = true → s.part.steady (s.part.entryOfMover m) = true :=
      fun st hs hst => by rw [steady_mover hlead, hs, hst]
    refine ⟨fun hs target hv => ?_, fun hs hv => h.drive_zero (hdrives (.inl hs)) hv (hrest _ hs rfl),
      fun hs why index hv => ?_, fun hs target hv => ?_, fun hs target htarget => ?_,
      fun hs => h.stops_waits hlead (h.stops_pending hlead hsaved hzone (hs.imp_right .inl)) hs,
      fun hs target hv => h.released_drives hlead hsaved hzone hs hwait hdoors hv,
      fun hs => h.lost_ends hlead hsaved hzone hs⟩
    · exact h.drive_goesOn (hdrives (.inl hs)) hv rfl (acts := [.moversClear (s.part.moverZone m)])
        (by rw [releasedToward_eq hlead]; exact (Part.Actuated.refl _).moved m _ _)
        (releasedToward_unsteady hlead target)
        (fun a ha => .inr (.inr ⟨_, List.mem_singleton.1 ha, fun d => by
          rw [releasedToward_eq hlead, moved_door]
          exact hdoors d⟩)) (by simp)
        fun b => applyVerdict_released hlead hs target b _ _
    · refine h.drive_refused (hdrives (hs.imp_right .inl)) hv (fun hwhy => ?_) ?_
      · subst hwhy
        exact judgeMove_loading hzone hs index hv
      · exact hs.elim (fun hs => hrest _ hs rfl) fun hs => hrest _ hs rfl
    · have hgoes : returnGoesOn s n link head code (s.part.entryOfMover m) c .underWay
          (unfloatedToward m target s.part) := by
        refine h.drive_goesOn (hdrives (.inr (.inl hs))) hv rfl ((Part.Actuated.refl _).moved m _ _) moved_steady
          (fun a ha => ?_) ?_ fun b => applyVerdict_unfloated target s.part b _ _
        · exact .inr (.inr ⟨_, moverReports_unsteady rfl a ha, fun d => by rw [unfloatedToward, moved_door]; exact hdoors d⟩)
        · exact (moverReports_length _ _).trans (by omega)
      rw [unfloatedToward_eq hwait] at hgoes
      exact hgoes
    · exact h.drive_goesOn (hdrives (.inr (.inr hs))) (judgeMove_retargets hlead hs hzone htarget) rfl
        (acts := []) ((Part.Actuated.refl _).setMotion m _)
        ((setMotion_steady ..).trans (by rw [hs]; rfl)) (by simp) (by simp)
        fun b => applyVerdict_retargeted hwait target b _ _

end Sys2Proof.Machine
end

section
/-! ABORT GROUP of a RETURN group of one claim, a door's: the door rows of Table 8-3 (R74, R75, R166). -/

namespace Sys2Proof.Machine

/-! ### What the abort asks of a door -/

section
variable {p q : Part} {n : Lane} {d : DoorId} {bridge : Bool} {why : ResultCode} {saved : Saved}

theorem returnEntry_halts (hsaved : (p.claim (doorEntry d)).saved = none) : returnEntry n (doorEntry d) p = doorHalt d p := by
  unfold returnEntry
  rw [actuatorOf_doorEntry, hsaved]

theorem returnEntry_returns (hsaved : (p.claim (doorEntry d)).saved = some saved) :
    returnEntry n (doorEntry d) p = doorReturn d (p.lane n).bridge p := by
  unfold returnEntry
  rw [actuatorOf_doorEntry, hsaved]

theorem doorHalt_steady (hsteady : (p.door d).state.steady = true) : doorHalt d p = p := if_pos hsteady

theorem doorHalt_zone (hsteady : (p.door d).state.steady = false) (hzone : (p.door d).zoneOrigin = true) :
    doorHalt d p = p.setDoor d { p.door d with laneOrigin := false } := by
  unfold doorHalt
  simp [hsteady, hzone]

/-- The record of a door that a halt request stops. -/
def haltedDoor (x : Door) : Door :=
  { x with state := .halted, laneOrigin := false, forced := false, leadCounter := 0, motionTimer := none, retryTimer := none }

theorem doorHalt_stops (hsteady : (p.door d).state.steady = false) (hzone : (p.door d).zoneOrigin = false)
    (hwait : (p.door d).waiting = none) :
    doorHalt d p = (syncWarn d (p.setDoor d (haltedDoor (p.door d)))).emit [.steadyReport (doorEntry d)] := by
  have hmoves : (p.door d).state ≠ .halted ∧ (p.door d).state ≠ .closed := by
    constructor
    all_goals
      intro hs
      rw [hs] at hsteady
      cases hsteady
  have hreports : doorReports d (p.door d).state .halted = [.steadyReport (doorEntry d)] := by
    rw [doorReports_open hmoves.1 hmoves.2 (by simp)]
    rfl
  have hstops : doorHalt d p = doorTo d ((p.door d).atRest .halted) (some .stopped) p := by
    unfold doorHalt
    simp [hsteady, hzone]
  rw [hstops, doorTo_eq (x := (p.door d).atRest .halted) (.inr ⟨hwait, hwait⟩), Door.entered_drops rfl (by simp [Door.atRest])]
  exact congrArg (fun acts => Part.emit acts _) hreports

/-- The record of a door that a lane's close request has put in WARNING. -/
def warnedDoor (x : Door) (lead : Nat) : Door :=
  { x with state := .warning, laneOrigin := true, retries := 0, leadCounter := 0, motionTimer := none, retryTimer := none,
           lead := lead }

theorem laneClose_warns {lead : Nat} (hstate : (p.door d).state = .opened ∨ (p.door d).state = .halted)
    (hlead : lead = (if (p.door d).forced = true ∨
        ((p.door d).zoneOrigin = true ∧ ∃ k ∈ p.doorZones d, (p.zone k).level = .fire) then
      (p.planDoor d).fireLead else (p.planDoor d).lead)) (hne : lead ≠ 0) :
    laneClose d p = syncWarn d (p.setDoor d (warnedDoor (p.door d) lead)) := by
  have hclosed : (p.door d).state ≠ .closed := fun hs => by
    rw [hs] at hstate
    simp at hstate
  have hchosen : p.chosenLead d { p.door d with laneOrigin := true }.sequenceBegins = lead :=
    (chosenLead_eq ..).trans hlead.symm
  have hwarns : laneClose d p = enterWarning d { p.door d with laneOrigin := true }.sequenceBegins none p := by
    unfold laneClose
    rcases hstate with hs | hs <;> simp only [hs]
  rw [hwarns, enterWarning_eq hclosed (by rw [hchosen]; exact hne), hchosen]
  rfl

/-- The report that a return has been settled, or begun. -/
def Part.tested (p : Part) (d : DoorId) : Part := p.emit (abortTestOf p (doorEntry d))

theorem tested_held (hholder : (p.claim (doorEntry d)).holder = some n) : p.tested d = p.emit [.abortTest n] := by
  rw [Part.tested, abortTestOf_held hholder]

/-! The tests of R75, by the saved state. -/

theorem doorReturn_met (h : ((p.door d).state = .closed ∧ (p.claim (doorEntry d)).saved = some .closed) ∨
    ((p.door d).state = .opened ∧ (p.claim (doorEntry d)).saved = some .opened)) :
    doorReturn d bridge p = (markReturn (doorEntry d) .met p).tested d := by
  unfold doorReturn Part.tested
  rcases h with ⟨hstate, hsaved⟩ | ⟨hstate, hsaved⟩ <;> simp [hstate, hsaved]

theorem doorReturn_closes (hsaved : (p.claim (doorEntry d)).saved = some .closed) (hstate : (p.door d).state ≠ .closed)
    (hrefusal : (p.door d).state.refusal = none) :
    doorReturn d bridge p = (laneClose d (markReturn (doorEntry d) .underWay p)).tested d := by
  unfold doorReturn Part.tested
  simp [hstate, hsaved, hrefusal]

theorem doorReturn_opens (hsaved : (p.claim (doorEntry d)).saved = some .opened) (hstate : (p.door d).state ≠ .opened)
    (hrefusal : p.openRefusal d bridge = none) :
    doorReturn d bridge p = (openDoor d (markReturn (doorEntry d) .underWay p)).tested d := by
  unfold doorReturn Part.tested
  simp [hstate, hsaved, hrefusal]

theorem doorReturn_limited (hsaved : (p.claim (doorEntry d)).saved = some .opened) (hstate : (p.door d).state ≠ .opened)
    (hrefusal : p.openRefusal d bridge = some .zoneState) :
    doorReturn d bridge p = (doorHalt d (markReturn (doorEntry d) .zoneLimited p)).tested d := by
  unfold doorReturn Part.tested
  simp [hstate, hsaved, hrefusal]

theorem doorReturn_refused (hgoal : (p.door d).state ≠ .closed ∧ (p.door d).state ≠ .opened) (hwhy : why ≠ .zoneState)
    (hrefusal : ((p.claim (doorEntry d)).saved = some .closed ∧ (p.door d).state.refusal = some why) ∨
      ((p.claim (doorEntry d)).saved = some .opened ∧ p.openRefusal d bridge = some why)) :
    doorReturn d bridge p = (doorHalt d (markReturn (doorEntry d) .incomplete p)).tested d := by
  obtain ⟨hclosed, hopened⟩ := hgoal
  unfold doorReturn Part.tested
  rcases hrefusal with ⟨hsaved, hrefusal⟩ | ⟨hsaved, hrefusal⟩
  all_goals
    cases why with
    | zoneState => exact absurd rfl hwhy
    | _ => simp [hclosed, hopened, hsaved, hrefusal]

/-- Where the zones and the forced close let it be, its own state decides on an opening (R73). -/
theorem openRefusal_state (hzone : (p.door d).zoneOrigin = false)
    (hzones : ∀ k ∈ p.doorZones d, (p.zone k).state ≠ .shutting ∧ (p.zone k).state ≠ .shut)
    (hforced : (p.door d).forced = false) : p.openRefusal d bridge = (p.door d).state.refusal := by
  have hany : (p.doorZones d).any (fun k => ((p.zone k).state == .shutting) || ((p.zone k).state == .shut)) = false := by
    simpa using hzones
  unfold Part.openRefusal
  simp only [hzone, hany, hforced]
  rfl

theorem actuated_syncWarn (d : DoorId) (x : Door) : p.Actuated (syncWarn d (p.setDoor d x)) := by
  rw [syncWarn_eq]
  exact ⟨⟨rfl, rfl, rfl, rfl, rfl⟩, rfl, rfl, rfl⟩

end

/-! ### The rows -/

namespace State.AbortsReturn

section
variable {s : State} {n : Lane} {link : Half} {head : OrderHead} {code : Byte} {top : Level} {c : Claim} {d : DoorId}
  {status : ReturnStatus} {saved : Saved} {b q : Part}

/-- The same deck with the claim's return marked. -/
theorem claim_unmarked (h : s.AbortsReturn n link head code top (doorEntry d) c) (hstatus : c.status = .none) (p : Part)
    (hclaims : p.claims = s.part.claims) : p.setClaim (doorEntry d) { c with status := .none } = p := by
  have hsame : ({ c with status := .none } : Claim) = p.claim (doorEntry d) := by
    rw [Part.claim, hclaims, ← hstatus]
    exact h.claim.symm
  rw [hsame, Part.setClaim_self]

theorem marks_door (h : s.AbortsReturn n link head code top (doorEntry d) c) (hne : status ≠ .incomplete) (b : Part) :
    markReturn (doorEntry d) status (b.onDeck s.part) =
      b.onDeck (s.part.setClaim (doorEntry d) { c with status := status }) := by
  have hclaim : (b.onDeck s.part).claim (doorEntry d) = c := h.claim
  rw [markReturn_eq (n := n) (by rw [hclaim]; exact h.holder) hne, hclaim]
  rfl

theorem tests {x : Part} {acts : List Act} (h : s.AbortsReturn n link head code top (doorEntry d) c)
    (hx : x = (b.onDeck (q.setClaim (doorEntry d) { c with status := status })).emit acts) :
    x.tested d = (b.onDeck (q.setClaim (doorEntry d) { c with status := status })).emit (acts ++ [.abortTest n]) := by
  rw [hx, tested_held (n := n), emit_emit]
  exact (congrArg Claim.holder (marked_claim b q _ _)).trans h.holder

theorem saved_door (h : s.AbortsReturn n link head code top (doorEntry d) c) (b : Part) :
    ((b.onDeck s.part).claim (doorEntry d)).saved = c.saved :=
  congrArg Claim.saved h.claim

/-! With no saved state the row is a halt request (R74). -/

section
variable (h : s.AbortsReturn n link head code top (doorEntry d) c) (hsaved : c.saved = none) (hstatus : c.status = .none)
include h hsaved hstatus

theorem halts_steady (hsteady : (s.part.door d).state.steady = true) : returnEnds s n link head code top 0 s.part := by
  refine h.ends_atOnce (incomplete := false) (status := .none) (acts := []) (.refl _)
    ((steady_doorEntry ..).trans hsteady) (by simp) (.inl rfl) fun b hb => ⟨b, hb, ?_⟩
  rw [h.claim_unmarked hstatus _ rfl, emit_nil, returnEntry_halts ((h.saved_door b).trans hsaved)]
  exact doorHalt_steady hsteady

theorem halts_zone (hsteady : (s.part.door d).state.steady = false) (hzone : (s.part.door d).zoneOrigin = true) :
    returnGoesOn s n link head code (doorEntry d) c .none (s.part.setDoor d { s.part.door d with laneOrigin := false }) := by
  refine h.goesOn_busy (acts := []) ⟨⟨rfl, rfl, rfl, rfl, rfl⟩, rfl, rfl, rfl⟩ (.inl ?_) (by simp) (by simp) fun b hb => ?_
  · rw [steady_doorEntry, Part.setDoor_same]
    exact hsteady
  · rw [h.claim_unmarked hstatus (s.part.setDoor d { s.part.door d with laneOrigin := false }) rfl, emit_nil,
      returnEntry_halts ((h.saved_door b).trans hsaved)]
    exact doorHalt_zone (p := b.onDeck s.part) hsteady hzone

theorem halts_moving (hsteady : (s.part.door d).state.steady = false) (hzone : (s.part.door d).zoneOrigin = false)
    (hwait : (s.part.door d).waiting = none) :
    returnEnds s n link head code top 0 (syncWarn d (s.part.setDoor d (haltedDoor (s.part.door d)))) := by
  refine h.ends_atReport (status := .none) (acts := []) (actuated_syncWarn d _) ?_ (by simp) (by simp) (by simp) (by simp)
    (by simp) fun b hb => ?_
  · rw [steady_doorEntry, syncWarn_door, Part.setDoor_same]
    rfl
  · rw [h.claim_unmarked hstatus _ (actuated_syncWarn d _).claims, returnEntry_halts ((h.saved_door b).trans hsaved),
      doorHalt_stops (p := b.onDeck s.part) hsteady hzone hwait, onDeck_setDoor, onDeck_syncWarn]
    rfl

end

/-! With a saved state it is a return request (R75). -/

theorem returns_met (h : s.AbortsReturn n link head code top (doorEntry d) c)
    (hmet : ((s.part.door d).state = .closed ∧ c.saved = some .closed) ∨
      ((s.part.door d).state = .opened ∧ c.saved = some .opened)) : returnEnds s n link head code top 0 s.part := by
  obtain ⟨saved, hsaved⟩ : ∃ saved, c.saved = some saved := hmet.elim (fun hm => ⟨_, hm.2⟩) fun hm => ⟨_, hm.2⟩
  have hsteady : (s.part.door d).state.steady = true := by
    rcases hmet with ⟨hs, -⟩ | ⟨hs, -⟩ <;> rw [hs] <;> rfl
  refine h.ends_atOnce (incomplete := false) (status := .met) (.refl _) ((steady_doorEntry ..).trans hsteady) (by simp)
    (.inr rfl) fun b hb => ⟨b, hb, ?_⟩
  rw [returnEntry_returns ((h.saved_door b).trans hsaved), doorReturn_met (by rw [h.saved_door b]; exact hmet),
    h.marks_door (by simp) b]
  exact h.tests (emit_nil _).symm

theorem returns_closed {lead : Nat} (h : s.AbortsReturn n link head code top (doorEntry d) c) (hsaved : c.saved = some .closed)
    (hstate : (s.part.door d).state = .opened ∨ (s.part.door d).state = .halted)
    (hlead : lead = (if (s.part.door d).forced = true ∨
        ((s.part.door d).zoneOrigin = true ∧ ∃ k ∈ s.part.doorZones d, (s.part.zone k).level = .fire) then
      (s.part.planDoor d).fireLead else (s.part.planDoor d).lead)) (hne : lead ≠ 0) :
    returnGoesOn s n link head code (doorEntry d) c .underWay
      (syncWarn d (s.part.setDoor d (warnedDoor (s.part.door d) lead))) := by
  have hopen : (s.part.door d).state ≠ .closed ∧ (s.part.door d).state.refusal = none := by
    rcases hstate with hs | hs <;> rw [hs] <;> exact ⟨by simp, rfl⟩
  refine h.goesOn_busy (acts := [.abortTest n]) (actuated_syncWarn d _) (.inl ?_) (by simp [idleAct]) (by simp) fun b hb => ?_
  · rw [steady_doorEntry, syncWarn_door, Part.setDoor_same]
    rfl
  · rw [returnEntry_returns ((h.saved_door b).trans hsaved),
      doorReturn_closes ((h.saved_door b).trans hsaved) hopen.1 hopen.2, h.marks_door (by simp) b]
    refine h.tests (acts := []) ?_
    rw [emit_nil, laneClose_warns (p := b.onDeck (s.part.setClaim _ { c with status := .underWay })) hstate hlead hne,
      onDeck_setDoor, onDeck_syncWarn]
    exact congrArg b.onDeck (syncWarn_setClaim _ _ d (s.part.setDoor d _))

/-- A door that a zone or its own state keeps from the return. -/
theorem returns_limited (h : s.AbortsReturn n link head code top (doorEntry d) c) (hsaved : c.saved = some .opened)
    (hzone : (s.part.door d).zoneOrigin = true ∨
      ∃ k ∈ s.part.doorZones d, (s.part.zone k).state = .shutting ∨ (s.part.zone k).state = .shut)
    (hstate : (s.part.door d).state = .closed ∨ (s.part.door d).state = .halted) :
    returnEnds s n link head code top 0 s.part := by
  have hrest : (s.part.door d).state ≠ .opened ∧ (s.part.door d).state.steady = true := by
    rcases hstate with hs | hs <;> rw [hs] <;> exact ⟨by simp, rfl⟩
  refine h.ends_atOnce (incomplete := false) (status := .zoneLimited) (.refl _) ((steady_doorEntry ..).trans hrest.2)
    (by simp) (.inr rfl) fun b hb => ⟨b, hb, ?_⟩
  rw [returnEntry_returns ((h.saved_door b).trans hsaved),
    doorReturn_limited ((h.saved_door b).trans hsaved) hrest.1 (openRefusal_zoneState (p := b.onDeck s.part) hzone _),
    h.marks_door (by simp) b, doorHalt_steady (p := b.onDeck (s.part.setClaim _ { c with status := .zoneLimited })) hrest.2]
  exact h.tests (emit_nil _).symm

theorem returns_refused (h : s.AbortsReturn n link head code top (doorEntry d) c)
    (hsaved : c.saved = some .closed ∨ (c.saved = some .opened ∧ (s.part.door d).zoneOrigin = false ∧
      (∀ k ∈ s.part.doorZones d, (s.part.zone k).state ≠ .shutting ∧ (s.part.zone k).state ≠ .shut) ∧
      (s.part.door d).forced = false))
    (hstate : (s.part.door d).state = .localMode ∨ (s.part.door d).state = .faulted ∨ (s.part.door d).state = .offline) :
    returnEnds s n link head code top flagReturnIncomplete s.part := by
  obtain ⟨saved, hsome⟩ : ∃ saved, c.saved = some saved := hsaved.elim (fun hm => ⟨_, hm⟩) fun hm => ⟨_, hm.1⟩
  obtain ⟨why, hwhy, hrefusal, hgoal, hsteady⟩ : ∃ why, why ≠ .zoneState ∧ (s.part.door d).state.refusal = some why ∧
      ((s.part.door d).state ≠ .closed ∧ (s.part.door d).state ≠ .opened) ∧ (s.part.door d).state.steady = true := by
    rcases hstate with hs | hs | hs <;> rw [hs] <;> exact ⟨_, by simp, rfl, by simp, rfl⟩
  refine h.ends_atOnce (incomplete := true) (status := .incomplete) (.refl _) ((steady_doorEntry ..).trans hsteady)
    (by simp) (.inr rfl) fun b hb => ?_
  obtain ⟨b', hb', hmark⟩ := marks_incomplete h hb
  refine ⟨b', hb', ?_⟩
  have hrefused : doorReturn d ((b.onDeck s.part).lane n).bridge (b.onDeck s.part) =
      (doorHalt d (markReturn (doorEntry d) .incomplete (b.onDeck s.part))).tested d := by
    refine doorReturn_refused (p := b.onDeck s.part) hgoal hwhy ?_
    rw [h.saved_door b]
    rcases hsaved with hclosed | ⟨hopened, hzone, hzones, hforced⟩
    · exact .inl ⟨hclosed, hrefusal⟩
    · exact .inr ⟨hopened, (openRefusal_state (p := b.onDeck s.part) hzone hzones hforced).trans hrefusal⟩
  rw [returnEntry_returns ((h.saved_door b).trans hsome), hrefused, hmark,
    doorHalt_steady (p := b'.onDeck (s.part.setClaim _ { c with status := .incomplete })) hsteady]
  exact h.tests (emit_nil _).symm

/-- The record of a door that a return has begun to open. -/
def openingDoor (x : Door) (limit : Nat) : Door :=
  { x with state := .opening, laneOrigin := false, leadCounter := 0, retryTimer := none, motionTimer := some limit }

theorem openingDoor_eq {x : Door} (hforced : x.forced = false) (limit : Nat) : openingDoor x limit = x.openingFrom limit := by
  rw [openingDoor, Door.openingFrom, ← hforced]

theorem actuated_doorMoved (x : Door) : s.part.Actuated (doorMoved s.part d x s.part) := by
  rw [doorMoved_eq]
  exact ⟨⟨rfl, rfl, rfl, rfl, rfl⟩, rfl, rfl, rfl⟩

theorem doorMoved_opening_unsteady (limit : Nat) :
    (doorMoved s.part d (openingDoor (s.part.door d) limit) s.part).steady (doorEntry d) = false := by
  rw [steady_doorEntry, doorMoved_eq]
  exact congrArg (fun x : Door => x.state.steady) (getAt_setAt_same ..)

/-- The opening as Door Control begins it, on the deck in the event's hands. -/
theorem opens_onDeck (hforced : (s.part.door d).forced = false)
    (hstate : (s.part.door d).state = .closed ∨ (s.part.door d).state = .halted) (b : Part) (c : Claim) :
    openDoor d (b.onDeck (s.part.setClaim (doorEntry d) c)) =
      (b.onDeck ((syncWarn d (s.part.setDoor d (openingDoor (s.part.door d) (s.part.planDoor d).motionLimit))).setClaim
        (doorEntry d) c)).emit (if (s.part.door d).state = .closed then [.doorLeft d] else []) := by
  rw [openDoor_starts (p := b.onDeck (s.part.setClaim (doorEntry d) c)) hstate.symm, onDeck_setDoor, onDeck_syncWarn,
    openingDoor_eq hforced, ← syncWarn_setClaim]
  rfl

theorem returns_opened (h : s.AbortsReturn n link head code top (doorEntry d) c) (hsaved : c.saved = some .opened)
    (hzone : (s.part.door d).zoneOrigin = false)
    (hzones : ∀ k ∈ s.part.doorZones d, (s.part.zone k).state ≠ .shutting ∧ (s.part.zone k).state ≠ .shut)
    (hforced : (s.part.door d).forced = false)
    (hstate : (s.part.door d).state = .closed ∨ (s.part.door d).state = .halted) :
    returnGoesOn s n link head code (doorEntry d) c .underWay
      (doorMoved s.part d (openingDoor (s.part.door d) (s.part.planDoor d).motionLimit) s.part) := by
  have hopen : (s.part.door d).state ≠ .opened ∧ (s.part.door d).state.refusal = none := by
    rcases hstate with hs | hs <;> rw [hs] <;> exact ⟨by simp, rfl⟩
  have hentry : ∀ b : Part, returnEntry n (doorEntry d) (b.onDeck s.part) =
      (b.onDeck ((syncWarn d (s.part.setDoor d (openingDoor (s.part.door d) (s.part.planDoor d).motionLimit))).setClaim
        (doorEntry d) { c with status := .underWay })).emit
          ((if (s.part.door d).state = .closed then [.doorLeft d] else []) ++ [.abortTest n]) := fun b => by
    rw [returnEntry_returns ((h.saved_door b).trans hsaved), doorReturn_opens ((h.saved_door b).trans hsaved) hopen.1
      ((openRefusal_state (p := b.onDeck s.part) hzone hzones hforced).trans hopen.2), h.marks_door (by simp) b]
    exact h.tests (opens_onDeck hforced hstate b _)
  have hunsteady := doorMoved_opening_unsteady (s := s) (d := d) (s.part.planDoor d).motionLimit
  rcases hstate with hclosed | hhalted
  · refine h.goesOn (actuated_doorMoved _) fun b hb => ⟨1 + 2, by omega, .of_emit ?_ (hentry b)⟩
    have hidle := h.idleActs_do (status := .underWay) (acts := [.abortTest n, .abortTest n]) hb (actuated_doorMoved _)
      (.inl hunsteady) (by simp [idleAct])
    rw [if_pos hclosed]
    refine Part.Does.andThen (Part.Does.before (acts := [.doorLeft d]) (left := []) (.one ?_ (by simp) fun _ => ?_)) hidle
    · exact (actuated_syncWarn d _).deck.agenda.trans h.order.order.takes.quiet.agenda
    · have hshut : ∀ k ∈ s.part.doorZones d, (s.part.zone k).state ≠ .shut := fun k hk => (hzones k hk).2
      rw [doorMoved_fromClosed hclosed (by simp [openingDoor]), ← countOneMore_setClaim, ← onDeck_countOneMore, emit_nil]
      refine doorLeft_counts ?_
      intro k hk
      rw [syncWarn_eq] at hk ⊢
      exact hshut k hk
  · have hmoved := doorMoved_steady (p := s.part) (d := d)
      (x := openingDoor (s.part.door d) (s.part.planDoor d).motionLimit) (by rw [hhalted]; simp) (by simp [openingDoor])
    refine h.goesOn_busy (acts := [.abortTest n]) (actuated_doorMoved _) (.inl hunsteady) (by simp [idleAct]) (by simp)
      fun b hb => ?_
    rw [hentry b, hmoved, hhalted]
    rfl

end

end State.AbortsReturn

theorem doorReturns_hold {s : State} {n : Lane} {link : Half} {head : OrderHead} {code : Byte} {top : Level} {e : EntryId}
    {c : Claim} (h : s.AbortsReturn n link head code top e c) : doorReturns s n link head code top e c := by
  intro d x zoneAsks he hx hwait hasks
  subst he hx
  have hclear : ¬ zoneAsks → (s.part.door d).zoneOrigin = false ∧
      ∀ k ∈ s.part.doorZones d, (s.part.zone k).state ≠ .shutting ∧ (s.part.zone k).state ≠ .shut := fun hnot => by
    rw [hasks] at hnot
    simpa using hnot
  refine ⟨fun hsaved hstatus => ⟨fun hs => h.halts_steady hsaved hstatus hs,
      fun hs hzone => h.halts_moving hsaved hstatus hs hzone hwait, fun hs hzone => h.halts_zone hsaved hstatus hs hzone⟩,
    fun hmet => h.returns_met hmet, fun lead hsaved hstate hlead hne => h.returns_closed hsaved hstate hlead hne,
    fun hsaved hnot hforced hstate => h.returns_opened hsaved (hclear hnot).1 (hclear hnot).2 hforced hstate,
    fun hsaved hzone hstate => h.returns_limited hsaved (hasks.1 hzone) hstate,
    fun hsaved hstate => h.returns_refused (hsaved.imp_right fun ⟨hopened, hnot, hforced⟩ =>
      ⟨hopened, (hclear hnot).1, (hclear hnot).2, hforced⟩) hstate⟩

end Sys2Proof.Machine
end

section
/-! ABORT GROUP (R163, R164, R166, R167). -/

namespace Sys2Proof.Machine

/-- R166, R167: the one claim of a RETURN group, by the row of its actuator. -/
theorem returnAborts_hold : returnAborts := by
  intro s n link head code top e c h hplan hnest hne hvalid hclean hreturns hclaim hholder hkind halone hwaiters hunwaited
  have htakes : s.TakesGroupOrder n link head .abortGroup [code] :=
    takesGroupOrder h hplan (c := .abortGroup n head code) rfl rfl (by simp [operandFields])
  have haborts : s.AbortsReturn n link head code top e c :=
    ⟨htakes, hnest, hne, hvalid, hclean, hreturns, hclaim, hholder, hkind, halone, hwaiters, hunwaited⟩
  exact ⟨moverReturns_hold haborts, doorReturns_hold haborts⟩

/-- R167: a HALT group whose actuators are at rest, with no claim PENDING, ends in the event. -/
theorem haltGroup_ends {s : State} {n : Lane} {link : Half} {head : OrderHead} {code : Byte} {top : Level}
    (h : s.TakesGroupOrder n link head .abortGroup [code]) (hends : endsAtOnce s.part n top) (hne : top.record.link ≠ link) :
    s.RetiresBoth (runOrder n (orderImage head .abortGroup [code]) s) n top.record.link link (anchorOwner s top)
      (retiredOwner head.standing) (Result.of .aborted (7 + 256 * code.toNat) 1 (link.setWidth 32)) (Result.bare .aborted)
      (nestEnded s.part n top) := by
  obtain ⟨b, hb, hbegins⟩ := groupAbort_begins h hends.nest hends.waiters hends.unwaited
  rw [hends.halts] at hb hbegins
  have hhalts : forEach (s.part.nestEntries n) (abortAct n false) (b.onDeck s.part) = b.onDeck s.part :=
    forEach_id _ fun e he => haltEntry_steady (p := b.onDeck s.part) (hends.steady e (mem_nestEntries.1 he)).1
  rw [hhalts] at hbegins
  exact abort_ends (incomplete := false) (k := 0) (tail := []) h hb hbegins (fun _ _ _ => rfl) (by omega) (by simp) (by simp)
    (.refl _) rfl hends.waiters hends.steady hends.nest hne hends.valid hends.clean

/-- Settles O59: no open group, a HALT group at rest, and the rows of Table 8-3 for one claim. -/
theorem abortGroupEndsNest : Obligations.AbortGroupEndsNest := by
  refine ⟨returnAborts_hold, ?_⟩
  intro s n link head code h hplan
  have htakes : s.TakesGroupOrder n link head .abortGroup [code] :=
    takesGroupOrder h hplan (c := .abortGroup n head code) rfl rfl (by simp [operandFields])
  have hexec := htakes.exec (c := .abortGroup n head code) rfl
  refine ⟨fun hnest ha => ⟨_, hexec, htakes.ends ?_ fun _ => ha⟩,
    fun top hnest hne hvalid hclean hhalts hsteady hwaiters hmovers hdoors hcalls => ⟨_, hexec,
      haltGroup_ends htakes ⟨hnest, hvalid, hclean, hhalts, hsteady, hwaiters, ⟨hmovers, hdoors, hcalls⟩⟩ hne⟩⟩
  show orderAbortGroup n _ = _
  unfold orderAbortGroup
  rw [takenPart_nest, hnest]
  rfl

end Sys2Proof.Machine
end
